-- ==== Sys2Proof/Word.lean ====
section
/-! DEFINITION. The words of the Zorhakin: widths of its values and the plainest arithmetic over them (R12, R14). -/

namespace Sys2Proof

/-- A 64-bit register or bus word (R12). -/
abbrev Word := BitVec 64
/-- One byte, the unit of every address space. -/
abbrev Byte := BitVec 8
/-- A 32-bit lane or FP32 encoding. -/
abbrev W32 := BitVec 32
/-- A 512-bit record, descriptor or digest. -/
abbrev Rec := BitVec 512
/-- The 256-bit state of the mixer and the automaton (R242, R245). -/
abbrev Mix := BitVec 256

end Sys2Proof
end

