-- ==== Sys2Proof/Syntax.lean ====
section
/-! DEFINITION. The commands of the block: one constructor of `Instr` for each row of the table of operations and
events, with the operands the row's rule needs. -/

namespace Sys2Proof

/-- A task slot of a core: the global core index of R14 and the slot 0 to 3 (R89). -/
structure Who where
  core : Nat
  slot : Nat
  deriving DecidableEq, Repr

/-- The guard of an instruction (R93, Table 4.4): predicate and sense. -/
structure Guard where
  pred : Fin 8
  sense : Bool
  deriving DecidableEq, Repr

/-- Why a core saves its tasks (R110): another context's RUN waits, the core is to be fenced, or the keeper rebalances. -/
inductive SaveWhy where
  | otherRun | fence | rebalance
  deriving DecidableEq, Repr

/-- What a read tag brings back (R170, R424): good data, or a detected error. -/
inductive ReadOutcome where
  | good | detected
  deriving DecidableEq, Repr

/-- What brings the module out of Drowse (R418). -/
inductive WakeBy where
  | intake | bar0 | bar4 | wake | sideband
  deriving DecidableEq, Repr

/-- The two transports of R407: DOE on the host port, MCTP on the sideband. -/
inductive SpdmPort where
  | doe | mctp
  deriving DecidableEq, Repr

/-- What a requester's NEGOTIATE_ALGORITHMS offers over a transport: the two algorithms of R407 among its own, or not. -/
structure AlgorithmOffer where
  port : SpdmPort
  p521 : Bool
  sha512 : Bool
  deriving DecidableEq, Repr

/-- A request that names a certificate slot (R407). -/
structure SlotRequest where
  port : SpdmPort
  slot : Nat
  deriving DecidableEq, Repr

/-- A request for part of a certificate chain (R407). -/
structure CertRequest where
  port : SpdmPort
  slot : Nat
  offset : Nat
  length : Nat
  deriving DecidableEq, Repr

/-- What comes over the sideband beside the requests that have commands of their own: an MCTP control message (R402), over either
transport; the owner's debug digest (R411); and, in Test, the generation of the identity key, whose public half has this digest,
the identity certificate chain, and the end of module test (R406, R409; log entry 15). -/
inductive SidebandMessage where
  | control (port : SpdmPort)
  | ownerDigest (digest : Rec)
  | generateKey (digest : Rec)
  | certificate (chain : List Byte)
  | endOfTest
  deriving DecidableEq, Repr

/-- What is scanned into the JTAG port beside BYPASS, IDCODE and SAMPLE/PRELOAD: EXTEST with its cells, or an instruction of the
maker's own, which R410 locks with debug (log entry 15). -/
inductive JtagScan where
  | extest (levels : List Bool)
  | maker (code : Nat)
  deriving DecidableEq, Repr

/-- A keeper image: the header of Table 15.2 field by field, and the body, of which `length` bytes count. `sigOk` is the outcome
of the signature check of R402, step 6 (DESIGN CHOICE, log entry 8). -/
structure Image where
  magic : W32
  version : Byte
  keyIndex : Fin 4
  svn : BitVec 6
  reserved : Byte              -- byte 7
  length : Nat
  fwVersion : W32
  digest : Rec
  signature : BitVec 1056
  publicKey : BitVec 1056
  tail : BitVec 1344           -- bytes 344 to 511
  body : List Byte
  sigOk : Bool
  deriving DecidableEq, Repr

/-- The head of the flits that a command brings: the 128 bits of the first flit's header (Table 13.3), the low half of its trailer
(R356), and how many flits of their message come with the command, consecutive in number. The rest of a message whose flits do not
all come together follows in further commands (log entry 19). -/
structure FlitHead where
  header : BitVec 128
  trailer : BitVec 32
  count : Nat
  deriving DecidableEq, Repr

/-- A control flit that names a link sequence number: ack and nak (Table 13.5). -/
structure AckFlit where
  head : FlitHead
  num : BitVec 12
  deriving DecidableEq, Repr

/-- A credit flit: what it returns to a channel (R363). -/
structure CreditFlit where
  head : FlitHead
  count : Nat
  deriving DecidableEq, Repr

/-- A capability flit: the versions that its sender implements and allows, UL1 in bit 0 and UL2 in bit 1 (R353). -/
structure OfferFlit where
  head : FlitHead
  versions : BitVec 2
  deriving DecidableEq, Repr

/-- The fields of the PCIe configuration space that the host writes for what Table 3.1 lists: largest payload and read request,
ASPM L1 and L0p enables, the size of BAR4 (R57), and the status of AER. Table 3.1's other capabilities are absent (R54). -/
inductive ConfigField where
  | payload | readRequest | aspmL1 | l0p | bar4Size | aerStatus
  deriving DecidableEq, Repr

/-- What a register access addresses: BAR0, or the configuration space. -/
inductive RegSpace where
  | bar0
  | config (field : ConfigField)
  deriving DecidableEq, Repr

/-- Where a register access falls: its space, its byte offset in BAR0 and how many bytes it has (R58, R59). -/
structure RegPlace where
  space : RegSpace
  off : Nat
  bytes : Nat
  deriving DecidableEq, Repr

/-- What a test in the field has found (R452): whether the unit passed, and for a UCIe module the lanes that failed (R21). -/
structure TestEnd where
  passed : Bool
  lanes : List Nat
  deriving DecidableEq, Repr

/-- The commands (spec/opcode_table.json): the instructions of a task first, in the table's order, then the
accesses that the headgate can hold, then the others in its order. -/
inductive Instr where
  /-- ADD (R101): Scalar rd gets ra + rb, wrapping. -/
  | add (t : Who) (g : Guard) (rd ra rb : Fin 64)
  /-- SUB (R101): Scalar rd gets ra - rb, wrapping. -/
  | sub (t : Who) (g : Guard) (rd ra rb : Fin 64)
  /-- MUL (R100): Scalar rd gets the low 64 bits of ra × rb. -/
  | mul (t : Who) (g : Guard) (rd ra rb : Fin 64)
  /-- MULH (R100): Scalar rd gets the upper 64 bits of the signed product. -/
  | mulh (t : Who) (g : Guard) (rd ra rb : Fin 64)
  /-- AND (R100): Scalar bitwise AND. -/
  | and (t : Who) (g : Guard) (rd ra rb : Fin 64)
  /-- OR (R100): Scalar bitwise OR. -/
  | or (t : Who) (g : Guard) (rd ra rb : Fin 64)
  /-- XOR (R100): Scalar bitwise XOR. -/
  | xor (t : Who) (g : Guard) (rd ra rb : Fin 64)
  /-- SHL (R101): Scalar shift left, with the count taken modulo 64. -/
  | shl (t : Who) (g : Guard) (rd ra rb : Fin 64)
  /-- SHR (R101): Scalar logical shift right. -/
  | shr (t : Who) (g : Guard) (rd ra rb : Fin 64)
  /-- SRA (R101): Scalar arithmetic shift right. -/
  | sra (t : Who) (g : Guard) (rd ra rb : Fin 64)
  /-- MIN (R101): Scalar signed minimum. -/
  | min (t : Who) (g : Guard) (rd ra rb : Fin 64)
  /-- MAX (R101): Scalar signed maximum. -/
  | max (t : Who) (g : Guard) (rd ra rb : Fin 64)
  /-- SLT (R101): Scalar signed less-than, giving 1 or 0. -/
  | slt (t : Who) (g : Guard) (rd ra rb : Fin 64)
  /-- SLTU (R101): Scalar unsigned less-than, giving 1 or 0. -/
  | sltu (t : Who) (g : Guard) (rd ra rb : Fin 64)
  /-- SEQ (R100): Scalar equality test, giving 1 or 0. -/
  | seq (t : Who) (g : Guard) (rd ra rb : Fin 64)
  /-- POPC (R100): Scalar population count of ra. -/
  | popc (t : Who) (g : Guard) (rd ra : Fin 64)
  /-- ADDI (R100): Scalar rd gets ra + sign-extended imm. -/
  | addi (t : Who) (g : Guard) (rd ra : Fin 64) (imm : W32)
  /-- SUBI (R100): Scalar rd gets ra - imm. -/
  | subi (t : Who) (g : Guard) (rd ra : Fin 64) (imm : W32)
  /-- MULI (R100): Scalar low product with imm. -/
  | muli (t : Who) (g : Guard) (rd ra : Fin 64) (imm : W32)
  /-- MULHI (R100): Scalar high signed product with imm. -/
  | mulhi (t : Who) (g : Guard) (rd ra : Fin 64) (imm : W32)
  /-- ANDI (R100): Scalar AND with imm. -/
  | andi (t : Who) (g : Guard) (rd ra : Fin 64) (imm : W32)
  /-- ORI (R100): Scalar OR with imm. -/
  | ori (t : Who) (g : Guard) (rd ra : Fin 64) (imm : W32)
  /-- XORI (R100): Scalar XOR with imm. -/
  | xori (t : Who) (g : Guard) (rd ra : Fin 64) (imm : W32)
  /-- SHLI (R100): Scalar shift left by imm. -/
  | shli (t : Who) (g : Guard) (rd ra : Fin 64) (imm : W32)
  /-- SHRI (R100): Scalar logical shift right by imm. -/
  | shri (t : Who) (g : Guard) (rd ra : Fin 64) (imm : W32)
  /-- SRAI (R100): Scalar arithmetic shift right by imm. -/
  | srai (t : Who) (g : Guard) (rd ra : Fin 64) (imm : W32)
  /-- MINI (R100): Scalar signed minimum with imm. -/
  | mini (t : Who) (g : Guard) (rd ra : Fin 64) (imm : W32)
  /-- MAXI (R100): Scalar signed maximum with imm. -/
  | maxi (t : Who) (g : Guard) (rd ra : Fin 64) (imm : W32)
  /-- SLTI (R100): Scalar signed less-than against imm. -/
  | slti (t : Who) (g : Guard) (rd ra : Fin 64) (imm : W32)
  /-- SLTUI (R100): Scalar unsigned less-than against imm. -/
  | sltui (t : Who) (g : Guard) (rd ra : Fin 64) (imm : W32)
  /-- SEQI (R100): Scalar equality test against imm. -/
  | seqi (t : Who) (g : Guard) (rd ra : Fin 64) (imm : W32)
  /-- MOVH (R100): rd[63:32] gets imm, with rd[31:0] unchanged. -/
  | movh (t : Who) (g : Guard) (rd : Fin 64) (imm : W32)
  /-- LD8 (R105): Loads a zero-extended byte from device virtual memory at ra + imm. -/
  | ld8 (t : Who) (g : Guard) (rd ra : Fin 64) (imm : W32)
  /-- LD16 (R105): Loads a zero-extended 16-bit value from device memory. -/
  | ld16 (t : Who) (g : Guard) (rd ra : Fin 64) (imm : W32)
  /-- LD32 (R105): Loads a zero-extended 32-bit value from device memory. -/
  | ld32 (t : Who) (g : Guard) (rd ra : Fin 64) (imm : W32)
  /-- LD64 (R105): Loads a 64-bit value from device memory. -/
  | ld64 (t : Who) (g : Guard) (rd ra : Fin 64) (imm : W32)
  /-- ST8 (R105): Stores a byte of rd to device memory. -/
  | st8 (t : Who) (g : Guard) (rd ra : Fin 64) (imm : W32)
  /-- ST16 (R105): Stores 16 bits of rd to device memory. -/
  | st16 (t : Who) (g : Guard) (rd ra : Fin 64) (imm : W32)
  /-- ST32 (R105): Stores 32 bits of rd to device memory. -/
  | st32 (t : Who) (g : Guard) (rd ra : Fin 64) (imm : W32)
  /-- ST64 (R105): Stores 64 bits of rd to device memory. -/
  | st64 (t : Who) (g : Guard) (rd ra : Fin 64) (imm : W32)
  /-- CLD8 (R105): Loads a zero-extended byte from the cistern. -/
  | cld8 (t : Who) (g : Guard) (rd ra : Fin 64) (imm : W32)
  /-- CLD16 (R105): Loads 16 bits from the cistern. -/
  | cld16 (t : Who) (g : Guard) (rd ra : Fin 64) (imm : W32)
  /-- CLD32 (R105): Loads 32 bits from the cistern. -/
  | cld32 (t : Who) (g : Guard) (rd ra : Fin 64) (imm : W32)
  /-- CLD64 (R105): Loads 64 bits from the cistern. -/
  | cld64 (t : Who) (g : Guard) (rd ra : Fin 64) (imm : W32)
  /-- CST8 (R105): Stores a byte to the cistern. -/
  | cst8 (t : Who) (g : Guard) (rd ra : Fin 64) (imm : W32)
  /-- CST16 (R105): Stores 16 bits to the cistern. -/
  | cst16 (t : Who) (g : Guard) (rd ra : Fin 64) (imm : W32)
  /-- CST32 (R105): Stores 32 bits to the cistern. -/
  | cst32 (t : Who) (g : Guard) (rd ra : Fin 64) (imm : W32)
  /-- CST64 (R105): Stores 64 bits to the cistern. -/
  | cst64 (t : Who) (g : Guard) (rd ra : Fin 64) (imm : W32)
  /-- BEQ (R100): Branches when ra equals rb. -/
  | beq (t : Who) (g : Guard) (ra rb : Fin 64) (offset : W32)
  /-- BNE (R100): Branches when ra differs from rb. -/
  | bne (t : Who) (g : Guard) (ra rb : Fin 64) (offset : W32)
  /-- BLT (R100): Branches when ra is below rb, signed. -/
  | blt (t : Who) (g : Guard) (ra rb : Fin 64) (offset : W32)
  /-- BGE (R100): Branches when ra is at or above rb, signed. -/
  | bge (t : Who) (g : Guard) (ra rb : Fin 64) (offset : W32)
  /-- BLTU (R100): Branches when ra is below rb, unsigned. -/
  | bltu (t : Who) (g : Guard) (ra rb : Fin 64) (offset : W32)
  /-- BGEU (R100): Branches when ra is at or above rb, unsigned. -/
  | bgeu (t : Who) (g : Guard) (ra rb : Fin 64) (offset : W32)
  /-- JAL (R100): Links the next address into rd and jumps by 8 × imm. -/
  | jal (t : Who) (g : Guard) (rd : Fin 64) (imm : W32)
  /-- JR (R100): Jumps to ra + imm. -/
  | jr (t : Who) (g : Guard) (ra : Fin 64) (imm : W32)
  /-- FADD (R224): Scalar FP32 addition, round to nearest even. -/
  | fadd (t : Who) (g : Guard) (rd ra rb : Fin 64)
  /-- FSUB (R224): Scalar FP32 subtraction. -/
  | fsub (t : Who) (g : Guard) (rd ra rb : Fin 64)
  /-- FMUL (R224): Scalar FP32 multiplication. -/
  | fmul (t : Who) (g : Guard) (rd ra rb : Fin 64)
  /-- FFMA (R224): Scalar FP32 fused multiply-add, rounded once. -/
  | ffma (t : Who) (g : Guard) (rd ra rb rc : Fin 64)
  /-- FMIN (R224): Scalar FP32 minimumNumber. -/
  | fmin (t : Who) (g : Guard) (rd ra rb : Fin 64)
  /-- FMAX (R224): Scalar FP32 maximumNumber. -/
  | fmax (t : Who) (g : Guard) (rd ra rb : Fin 64)
  /-- FCVTIF (R100): Converts a signed 64-bit integer to FP32. -/
  | fcvtif (t : Who) (g : Guard) (rd ra : Fin 64)
  /-- FCVTFI (R100): Converts FP32 to a signed integer, toward zero and saturating. -/
  | fcvtfi (t : Who) (g : Guard) (rd ra : Fin 64)
  /-- VADD (R101): Per-lane 32-bit integer addition. -/
  | vadd (t : Who) (g : Guard) (vd va vb : Fin 32)
  /-- VSUB (R101): Per-lane 32-bit integer subtraction. -/
  | vsub (t : Who) (g : Guard) (vd va vb : Fin 32)
  /-- VMUL (R101): Per-lane low 32-bit product. -/
  | vmul (t : Who) (g : Guard) (vd va vb : Fin 32)
  /-- VMULH (R101): Per-lane upper 32 bits of the signed product. -/
  | vmulh (t : Who) (g : Guard) (vd va vb : Fin 32)
  /-- VAND (R100): Per-lane bitwise AND. -/
  | vand (t : Who) (g : Guard) (vd va vb : Fin 32)
  /-- VOR (R100): Per-lane bitwise OR. -/
  | vor (t : Who) (g : Guard) (vd va vb : Fin 32)
  /-- VXOR (R100): Per-lane bitwise XOR. -/
  | vxor (t : Who) (g : Guard) (vd va vb : Fin 32)
  /-- VSHL (R100): Per-lane shift left, with the count taken modulo 32. -/
  | vshl (t : Who) (g : Guard) (vd va vb : Fin 32)
  /-- VSHR (R101): Per-lane logical shift right. -/
  | vshr (t : Who) (g : Guard) (vd va vb : Fin 32)
  /-- VSRA (R100): Per-lane arithmetic shift right. -/
  | vsra (t : Who) (g : Guard) (vd va vb : Fin 32)
  /-- VMIN (R101): Per-lane signed minimum. -/
  | vmin (t : Who) (g : Guard) (vd va vb : Fin 32)
  /-- VMAX (R101): Per-lane signed maximum. -/
  | vmax (t : Who) (g : Guard) (vd va vb : Fin 32)
  /-- VSLT (R101): Per-lane signed less-than. -/
  | vslt (t : Who) (g : Guard) (vd va vb : Fin 32)
  /-- VSLTU (R101): Per-lane unsigned less-than. -/
  | vsltu (t : Who) (g : Guard) (vd va vb : Fin 32)
  /-- VSEQ (R100): Per-lane equality test. -/
  | vseq (t : Who) (g : Guard) (vd va vb : Fin 32)
  /-- VPOPCNT (R100): Per-lane population count. -/
  | vpopcnt (t : Who) (g : Guard) (vd va : Fin 32)
  /-- VFADD (R224): Per-lane FP32 addition. -/
  | vfadd (t : Who) (g : Guard) (vd va vb : Fin 32)
  /-- VFSUB (R224): Per-lane FP32 subtraction. -/
  | vfsub (t : Who) (g : Guard) (vd va vb : Fin 32)
  /-- VFMUL (R224): Per-lane FP32 multiplication. -/
  | vfmul (t : Who) (g : Guard) (vd va vb : Fin 32)
  /-- VFFMA (R224): Per-lane FP32 fused multiply-add. -/
  | vffma (t : Who) (g : Guard) (vd va vb vc : Fin 32)
  /-- VFMIN (R224): Per-lane FP32 minimumNumber. -/
  | vfmin (t : Who) (g : Guard) (vd va vb : Fin 32)
  /-- VFMAX (R224): Per-lane FP32 maximumNumber. -/
  | vfmax (t : Who) (g : Guard) (vd va vb : Fin 32)
  /-- VFABS (R224): Per-lane clear of the sign bit. -/
  | vfabs (t : Who) (g : Guard) (vd va : Fin 32)
  /-- VFNEG (R224): Per-lane inversion of the sign bit. -/
  | vfneg (t : Who) (g : Guard) (vd va : Fin 32)
  /-- VFRCP (R225): Per-lane correctly rounded reciprocal. -/
  | vfrcp (t : Who) (g : Guard) (vd va : Fin 32)
  /-- VFRSQ (R225): Per-lane correctly rounded reciprocal square root. -/
  | vfrsq (t : Who) (g : Guard) (vd va : Fin 32)
  /-- VFEXP (R225): Per-lane correctly rounded e^x. -/
  | vfexp (t : Who) (g : Guard) (vd va : Fin 32)
  /-- VFLOG (R225): Per-lane correctly rounded natural logarithm. -/
  | vflog (t : Who) (g : Guard) (vd va : Fin 32)
  /-- VFCLT (R100): Per-lane FP32 less-than into a predicate. -/
  | vfclt (t : Who) (g : Guard) (pd : Fin 8) (va vb : Fin 32)
  /-- VFCEQ (R100): Per-lane FP32 equality into a predicate. -/
  | vfceq (t : Who) (g : Guard) (pd : Fin 8) (va vb : Fin 32)
  /-- VFSEL (R100): Per-lane select between va and vb by predicate rc. -/
  | vfsel (t : Who) (g : Guard) (vd va vb : Fin 32) (pc : Fin 8)
  /-- VLD (R102): Loads L × 4 contiguous bytes from the cistern into a vector. -/
  | vld (t : Who) (g : Guard) (vd : Fin 32) (ra : Fin 64) (imm : W32)
  /-- VST (R102): Stores a vector contiguously to the cistern. -/
  | vst (t : Who) (g : Guard) (vd : Fin 32) (ra : Fin 64) (imm : W32)
  /-- VLDS (R102): Strided vector load from the cistern. -/
  | vlds (t : Who) (g : Guard) (vd : Fin 32) (ra rb : Fin 64)
  /-- VSTS (R102): Strided vector store to the cistern. -/
  | vsts (t : Who) (g : Guard) (vd : Fin 32) (ra rb : Fin 64)
  /-- VLDX (R102): Indexed vector load, with lane l at ra + vb[l]. -/
  | vldx (t : Who) (g : Guard) (vd : Fin 32) (ra : Fin 64) (vb : Fin 32)
  /-- VSTX (R100): Indexed vector store; the highest lane wins on a collision. -/
  | vstx (t : Who) (g : Guard) (vd : Fin 32) (ra : Fin 64) (vb : Fin 32)
  /-- VBCAST (R100): Broadcasts ra[31:0] to every lane. -/
  | vbcast (t : Who) (g : Guard) (vd : Fin 32) (ra : Fin 64)
  /-- VMOVS (R93): Moves lane rb of va into scalar rd, under the guard. -/
  | vmovs (t : Who) (g : Guard) (rd : Fin 64) (va : Fin 32) (rb : Fin 64)
  /-- VRSUM (R101): Sums the FP32 lanes in a pairwise tree into scalar rd. -/
  | vrsum (t : Who) (g : Guard) (rd : Fin 64) (va : Fin 32)
  /-- VRMAX (R101): Takes the maximumNumber of the FP32 lanes into scalar rd. -/
  | vrmax (t : Who) (g : Guard) (rd : Fin 64) (va : Fin 32)
  /-- VRISUM (R101): Sums the signed 32-bit lanes exactly into 64-bit rd. -/
  | vrisum (t : Who) (g : Guard) (rd : Fin 64) (va : Fin 32)
  /-- VPERM (R100): vd[l] gets va[vb[l] mod L]. -/
  | vperm (t : Who) (g : Guard) (vd va vb : Fin 32)
  /-- VSCAN (R100): Inclusive wrapping prefix sum over the logical lanes. -/
  | vscan (t : Who) (g : Guard) (vd va : Fin 32)
  /-- PCOUNT (R100): rd gets the set-bit count of a predicate. -/
  | pcount (t : Who) (g : Guard) (rd : Fin 64) (pa : Fin 8)
  /-- VFROMA (R100): Copies 64 columns of a tile row into a vector. -/
  | vfroma (t : Who) (g : Guard) (vd : Fin 32) (rb : Fin 64)
  /-- ATOV (R100): Copies a vector into 64 columns of a tile row. -/
  | atov (t : Who) (g : Guard) (vd : Fin 32) (rb : Fin 64)
  /-- PAND (R100): Predicate AND. -/
  | pand (t : Who) (g : Guard) (pd pa pb : Fin 8)
  /-- POR (R100): Predicate OR. -/
  | por (t : Who) (g : Guard) (pd pa pb : Fin 8)
  /-- PXOR (R100): Predicate XOR. -/
  | pxor (t : Who) (g : Guard) (pd pa pb : Fin 8)
  /-- PNOT (R100): Predicate NOT. -/
  | pnot (t : Who) (g : Guard) (pd pa : Fin 8)
  /-- PFROMS (R100): Moves a scalar into a predicate. -/
  | pfroms (t : Who) (g : Guard) (pd : Fin 8) (ra : Fin 64)
  /-- PTOS (R100): Moves a predicate into a scalar. -/
  | ptos (t : Who) (g : Guard) (rd : Fin 64) (pa : Fin 8)
  /-- PFIRST (R100): Keeps only the lowest set bit of a predicate. -/
  | pfirst (t : Who) (g : Guard) (pd pa : Fin 8)
  /-- MXM (R103): Multiplies a stationary tile by a streamed weight panel into an accumulator tile in the order of R201. -/
  | mxm (t : Who) (g : Guard) (grp : Fin 8) (minor : Fin 9) (tile : Fin 8) (ra : Fin 64) (d : Fin 16) (depthM1 : Fin 64) (spanM1 : Fin 8) (acc wt : Bool)
  /-- AZERO (R102): Zeroes an accumulator tile, synchronously. -/
  | azero (t : Who) (g : Guard) (tile : Fin 8)
  /-- ALOAD (R210): Loads a whole FP32 tile from the cistern exactly. -/
  | aload (t : Who) (g : Guard) (grp : Fin 8) (tile : Fin 8) (ra : Fin 64)
  /-- ASTORE (R210): Stores a whole FP32 tile to the cistern exactly. -/
  | astore (t : Who) (g : Guard) (grp : Fin 8) (tile : Fin 8) (ra : Fin 64)
  /-- ASTN (R231): Narrows an accumulator tile into the cistern, with block scales and optional stochastic rounding. -/
  | astn (t : Who) (g : Guard) (grp : Fin 8) (tile : Fin 8) (ra : Fin 64) (fmt : BitVec 4) (block : BitVec 2) (sr : Bool)
  /-- DLD (R100): Loads a 64-byte descriptor register from device memory. -/
  | dld (t : Who) (g : Guard) (d : Fin 16) (ra : Fin 64)
  /-- DST (R100): Stores a descriptor register's 64 bytes to device memory. -/
  | dst (t : Who) (g : Guard) (d : Fin 16) (ra : Fin 64)
  /-- DINV (R100): Zeroes a descriptor register, making it invalid. -/
  | dinv (t : Who) (g : Guard) (d : Fin 16)
  /-- GATHER (R161): Reads one table row per index through the sluice engines into the destination, with drops, widening and fallbacks. -/
  | gather (t : Who) (g : Guard) (grp : Fin 8) (d : Fin 16)
  /-- SCATTER (R164): Writes or adds source rows into the table rows named by the indices. -/
  | scatter (t : Who) (g : Guard) (grp : Fin 8) (d : Fin 16)
  /-- SEGRED (R176): Reduces the rows of each segment (sum, mean, max or softmax), forward or backward. -/
  | segred (t : Who) (g : Guard) (grp : Fin 8) (d : Fin 16) (func : BitVec 2)
  /-- COMBINE (R181): Sorts values by key and sums each key's run in a fixed order into one destination row. -/
  | combine (t : Who) (g : Guard) (grp : Fin 8) (d : Fin 16)
  /-- SCOPY (R183): Copies bytes, or packs or applies an activation mask, under a copy or mask descriptor. -/
  | scopy (t : Who) (g : Guard) (grp : Fin 8) (d : Fin 16)
  /-- PFSCHED (R307): Submits a prefetch schedule that fills a ring of cistern buffers paired with ready and free tallies. -/
  | pfsched (t : Who) (g : Guard) (grp : Fin 8) (d : Fin 16)
  /-- SHUF (R131): Writes a stretch of the keyed Feistel permutation of seed positions. -/
  | shuf (t : Who) (g : Guard) (grp : Fin 8) (d : Fin 16)
  /-- SAMPLE (R142): Expands the seeds hop by hop into bipartite blocks in near memory. -/
  | sample (t : Who) (g : Guard) (grp : Fin 8) (d : Fin 16)
  /-- DEDUP (R149): Writes the unique entries, the index map and the unique count of a list. -/
  | dedup (t : Who) (g : Guard) (grp : Fin 8) (d : Fin 16)
  /-- SKEY (R129): Sets the context's shuffle and sampling keys on every die. -/
  | skey (t : Who) (g : Guard) (ra rb : Fin 64)
  /-- PREDICT (R190): Estimates active output columns by a low-rank product and writes a mask tile. -/
  | predict (t : Who) (g : Guard) (grp : Fin 8) (d : Fin 16)
  /-- BMCHK (R188): Checks a sparse tile image under R187 and writes nothing. -/
  | bmchk (t : Who) (g : Guard) (grp : Fin 8) (d : Fin 16)
  /-- BMEXP (R188): Checks a sparse tile, then writes its index list, count and optionally the dense tile. -/
  | bmexp (t : Who) (g : Guard) (grp : Fin 8) (d : Fin 16)
  /-- CVTN_REGISTER (R229): Narrows lanes between registers synchronously. -/
  | cvtnRegister (t : Who) (g : Guard) (vd va : Fin 32) (rc : Fin 64) (src dst : BitVec 4) (sr : Bool)
  /-- CVTN_MEMORY (R230): Narrows an array in memory asynchronously, block-scaled and raw pairs included. -/
  | cvtnMemory (t : Who) (g : Guard) (grp : Fin 8) (ra rb rc : Fin 64) (src dst : BitVec 4) (block : BitVec 2) (sr : Bool)
  /-- CVTW_REGISTER (R229): Widens lanes between registers synchronously. -/
  | cvtwRegister (t : Who) (g : Guard) (vd va : Fin 32) (src dst : BitVec 4)
  /-- CVTW_MEMORY (R230): Widens an array in memory asynchronously. -/
  | cvtwMemory (t : Who) (g : Guard) (grp : Fin 8) (ra rb rc : Fin 64) (src dst : BitVec 4) (block : BitVec 2)
  /-- SPLIT (R237): Takes the head or tail plane of FP32 lanes. -/
  | split (t : Who) (g : Guard) (vd va : Fin 32) (tail : Bool)
  /-- JOIN (R237): Joins head and tail planes into FP32. -/
  | join (t : Who) (g : Guard) (vd va vb : Fin 32)
  /-- SPLITX (R237): Adds to a 40-bit extended master and returns its FP32 word or its fringe. -/
  | splitx (t : Who) (g : Guard) (vd va vb vc : Fin 32) (fringe : Bool)
  /-- JOINX (R237): Rounds a 40-bit extended master to FP32. -/
  | joinx (t : Who) (g : Guard) (vd va vb : Fin 32)
  /-- WAIT (R322): Sends a wait to a tally and holds the task until it is granted. -/
  | wait (t : Who) (g : Guard) (ra : Fin 64)
  /-- SIGNAL (R323): Releases, then sends a signal with a grant count to a tally. -/
  | signal (t : Who) (g : Guard) (ra rb : Fin 64)
  /-- SIGNAL_ALL (R325): Releases, then signals every current waiter of a tally. -/
  | signalAll (t : Who) (g : Guard) (ra : Fin 64)
  /-- ARRIVE (R339): Releases, counts an arrival at a barrier group and holds the task for the group's release. -/
  | arrive (t : Who) (g : Guard) (imm : W32)
  /-- CWAIT (R106): Waits until a completion group's counter is at most a stated value. -/
  | cwait (t : Who) (g : Guard) (grp : Fin 8) (atMost : Byte)
  /-- MFENCE (R106): Orders the task's earlier synchronous accesses before its later ones. -/
  | mfence (t : Who) (g : Guard)
  /-- RKEY (R244): Sets the task's keyed seed and stream identity. -/
  | rkey (t : Who) (g : Guard) (ra rb : Fin 64)
  /-- RDK (R244): Writes keyed-block draws for consecutive element indices into a vector. -/
  | rdk (t : Who) (g : Guard) (vd : Fin 32) (ra : Fin 64)
  /-- RINIT (R245): Initialises every lane's running automaton from a seed, jumped by lane. -/
  | rinit (t : Who) (g : Guard) (ra : Fin 64)
  /-- RDR (R245): Advances each lane's automaton one generation and writes a mixed draw. -/
  | rdr (t : Who) (g : Guard) (vd : Fin 32)
  /-- ENTRY (R97): The program prologue declares level, lane count and footprint, and is checked against the context and core. -/
  | entry (t : Who) (g : Guard) (imm : W32)
  /-- HALT (R104): Ends the task once its outstanding asynchronous instructions finish. -/
  | halt (t : Who) (g : Guard)
  /-- YIELD (R100): Marks the slot not ready for one issue round. -/
  | yield (t : Who) (g : Guard)
  /-- RDINFO (R100): Reads core, slot, stamp, context or lane counts into rd. -/
  | rdinfo (t : Who) (g : Guard) (rd : Fin 64) (imm : W32)
  /-- PHASE (R253): Sets the core's phase, which the weir uses to choose the operating point. -/
  | phase (t : Who) (g : Guard) (imm : W32)
  /-- LOSS (R241): Sends a scalar to the loss-spike detector, which updates its statistics and returns a verdict. -/
  | loss (t : Who) (g : Guard) (rd ra : Fin 64) (imm : W32)
  /-- IFENCE (R109): Discards instructions fetched after this one. -/
  | ifence (t : Who) (g : Guard)
  /-- NOP (R100): Does nothing. -/
  | nop (t : Who) (g : Guard)
  /-- INTAKE_WRITE (R63): A posted host write to a BAR2 intake slice is placed at the intake tail, or discarded with an intake halt. -/
  | intakeWrite (ctx offset : Nat) (data : List Byte)
  /-- BAR4_READ (R61): A host read through BAR4 is translated in the named context and returns data, all ones or poisoned data. -/
  | bar4Read (off bytes : Nat) (detected : Bool)
  /-- BAR4_WRITE (R61): A host posted write through BAR4 is applied to device memory, or dropped and counted. -/
  | bar4Write (off : Nat) (data : List Byte)
  /-- REGISTER_WRITE (R58): A BAR0 write to a register field without behaviour of its own stores the value, subject to access codes and lock rules. -/
  | registerWrite (place : RegPlace) (value : Word)
  /-- TALLY_RESET (R336): TL_RESET go resets a range of tallies, ending their waiters with OWNER_LOST. -/
  | tallyReset (first countM1 : Nat)
  /-- TALLY_SNAPSHOT (R345): Writing TL_SEL latches a tally's word, sequence and first 64 waiters. -/
  | tallySnapshot (tally : Nat)
  /-- HAND_SET_SIGNAL (R346): TL_SET with op 0 applies a SIGNAL of the given value by hand, while debug is unlocked. -/
  | handSetSignal (tally value : Nat)
  /-- HAND_SET_COUNT (R346): TL_SET with op 1 writes the count of an empty-queued tally by hand. -/
  | handSetCount (tally value : Nat)
  /-- CHECK_SLOT_BIND (R338): TL_G_CTL.bind binds a configured check slot, or refuses it. -/
  | checkSlotBind (slot : Nat)
  /-- CHECK_SLOT_UNBIND (R342): TL_G_CTL.unbind unbinds a slot, breaking the group if any task is held. -/
  | checkSlotUnbind (slot : Nat)
  /-- PORT_ENABLE (R352): Writing LK_P_CTL.enable = 1 brings a port up into Detect. -/
  | portEnable (port : Nat)
  /-- PORT_DISABLE (R352): Writing enable = 0 takes the port down with cause 6. -/
  | portDisable (port : Nat)
  /-- PORT_RETRAIN (R352): Writing LK_P_CTL.retrain retrains the port now, or starts Detect on a down port. -/
  | portRetrain (port : Nat)
  /-- HOST_CAP_WRITE (R384): Writing WR_CAP.host sets the host cap, which takes effect at the next governor interval. -/
  | hostCapWrite (watts : Nat)
  /-- FIXED_RATE_WRITE (R393): Writing WR_CTL.fixed_rate enters or leaves fixed-rate mode, or is refused. -/
  | fixedRateWrite (on : Bool)
  /-- TRANSLATION_INVALIDATE (R302): MT_INVAL.go starts an invalidation of a range of a context's translations. -/
  | translationInvalidate (ctx sizeLog2 : Nat)
  /-- INGEST (R311): An ingest slot with op 0 and go writes bytes into the flash logical space. -/
  | ingest (slot : Nat)
  /-- TRIM (R311): An ingest slot with op 1 and go trims a flash range. -/
  | trim (slot : Nat)
  /-- CLEAR_FIRST (R432): EL_CTL.clear_first clears EL_FIRST and first_valid. -/
  | clearFirst
  /-- FENCE_REQUEST (R451): EL_FENCE go fences a named unit with cause 4, or is refused. -/
  | fenceRequest (kind index : Nat)
  /-- BIST_REQUEST (R452): EL_BIST go starts an in-field test of one unit, or is refused. -/
  | bistRequest (kind index : Nat)
  /-- RING_CONSUMED_WRITE (R76): A write to CT_RING_CONSUMED is accepted only within the written range, freeing ring slots, and is otherwise refused. -/
  | ringConsumedWrite (ctx : Nat) (value : W32)
  /-- CONTEXT_OPEN (R79): Writing CT_CTL.enable = 1 opens a closed context, or refuses with open_refused. -/
  | contextOpen (ctx : Nat) (level : BitVec 2) (irqOnError : Bool)
  /-- CONTEXT_RESET (R80): CT_CTL.reset = 1 or enable = 0 on an open context ends its tasks, discards queue and intake, and loses tally ownership. -/
  | contextReset (ctx : Nat)
  /-- INTAKE_REWIND (R63): Writing CT_CTL.intake_rewind sets the intake tail to the head, discards partial parcels and clears the halt. -/
  | intakeRewind (ctx : Nat)
  /-- FAULT_RECORD_CLEAR (R82): Writing 1 to CT_FAULT_INFO.valid clears the context fault record. -/
  | faultRecordClear (ctx : Nat)
  /-- CTX_SNAPSHOT (R84): Writing a context number to HG_CTX_SNAP latches its sequence and intake values at one instant. -/
  | ctxSnapshot (ctx : Nat)
  /-- DEBUG_CHALLENGE (R410): Writing KP_DBG_CTL.challenge draws a new 32-byte nonce. -/
  | debugChallenge (drawn : Mix)
  /-- DEBUG_SUBMIT (R411): Writing KP_DBG_CTL.submit checks the token, consumes the nonce and unlocks scopes or performs a lifecycle transition. -/
  | debugSubmit (keyDigest : Rec) (sigOk : Bool)
  /-- DEBUG_LOCK (R411): Writing KP_DBG_CTL.lock relocks every debug scope. -/
  | debugLock
  /-- DROWSE_REQUEST (R417): KP_PWR go with request 1 enters Drowse within 100 µs, or is refused with a cause. -/
  | drowseRequest
  /-- DEEP_REQUEST (R419): KP_PWR go with request 2 enters Deep, and is refused while a context is open or VAUX is absent. -/
  | deepRequest
  /-- POWER_ON (R397): VAUX enters its range from Off; VSTB comes good, the boot ROM starts on the fast oscillator and reads the fuses (step P1). -/
  | powerOn (strap : BitVec 3)
  /-- KEEPER_IMAGE_VERIFY (R402): Step P2 verifies the preferred image slot, then the other slot, and enters recovery if both fail. -/
  | keeperImageVerify
  /-- KEEPER_FIRMWARE_START (R397): Keeper firmware starts and the sideband answers, with the module in Deep (step P3). -/
  | keeperFirmwareStart
  /-- I3C_DYNAMIC_ADDRESS_ASSIGNMENT (R23): The I3C controller assigns the module's dynamic address by SETDASA or ENTDAA, replacing the static address. -/
  | i3cDynamicAddressAssignment (addr : BitVec 7)
  /-- CONVERSION_ENABLE (R397): At moment C the keeper enables conversion and the VMAIN inrush charge proceeds (P4). -/
  | conversionEnable
  /-- INRUSH_CHARGE_COMPLETE (R29): The VMAIN input charge finishes while all start conditions hold; the bus converters soft-start VINT and VSTB changes over to VINT. -/
  | inrushChargeComplete
  /-- PLL_LOCK (R400): The edge-domain PLLs lock and the keeper switches glitch-free to its 500 MHz clock (P7). -/
  | pllLock
  /-- COMPUTE_DOMAINS_START (R397): Compute-die rails reach OP0 and the compute domains run at T = 78 (end of P8), making the PCIe port ready to train. -/
  | computeDomainsStart
  /-- MODULE_INIT_COMPLETE (R397): Near-memory, LPDDR6 and UCIe training and core self-test finish (end of P10), the fence list is applied and the FTL map load starts. -/
  | moduleInitComplete
  /-- HEADGATE_OPEN (R398): At the later of the end of P10 and PERST# deassertion, the keeper locks RWL fields, opens the headgate and drives READY high (P11). -/
  | headgateOpen
  /-- FTL_MAP_LOADED (R399): The flash translation layer finishes loading its map (P12), and MT_FTL_STATE.state leaves 3. -/
  | ftlMapLoaded
  /-- PERST_ASSERT (R413): PERST# is asserted for at least 100 µs, starting a module reset (or ending Drowse with a module reset). -/
  | perstAssert
  /-- PERST_DEASSERT (R398): PERST# deasserts; the host port starts Detect within 1 ms and P11 may begin. -/
  | perstDeassert
  /-- HOT_RESET (R415): A PCIe hot reset or DL_Down resets every open context and tally, unbinds check slots and withdraws merge rounds. -/
  | hotReset
  /-- FLR (R415): A Function Level Reset has the same effects on contexts, tallies, slots and rounds as a hot reset. -/
  | flr
  /-- VMAIN_UNDERVOLTAGE (R31): VMAIN falls below its falling lockout while converting; the converters stop, the loss is recorded and the module enters Deep. -/
  | vmainUndervoltage (mv ticks : Nat)
  /-- VMAIN_OVERVOLTAGE (R31): VMAIN rises above the overvoltage disconnect; the input switch opens and the module enters Deep. -/
  | vmainOvervoltage (mv ticks : Nat)
  /-- VMAIN_RETURN (R31): VMAIN returns within range after a loss or overvoltage and is treated as crossing its wake threshold. -/
  | vmainReturn
  /-- VMAIN_OVERCURRENT_TRIP (R28): VMAIN current exceeds 110 A for longer than 50 µs, and the power stage trips the converters as a loss of VMAIN. -/
  | vmainOvercurrentTrip (mv ticks : Nat)
  /-- VAUX_UNDERVOLTAGE (R31): VAUX falls below lockout: a sticky warning is set while VMAIN converts, otherwise VSTB collapses and the module goes Off. -/
  | vauxUndervoltage (mv ticks : Nat)
  /-- VAUX_OVERVOLTAGE (R31): VAUX rises above its disconnect and the VAUX switch opens, acting as a VAUX loss. -/
  | vauxOvervoltage (mv ticks : Nat)
  /-- BOTH_SUPPLIES_LOST (R31): Both supplies fall below lockout within 5 µs of each other; the converters stop, no record is written and the module goes Off. -/
  | bothSuppliesLost
  /-- WAKE_TRIP (R26): WAKE stays above its threshold for 1 µs, tripping the comparator and waking the module from Drowse or Deep. -/
  | wakeTrip
  /-- WAKE_TAKES_EFFECT (R420): A held wake from Deep takes effect once VMAIN is in range and the thermal condition of R37 is met; C falls 100 µs later and P4 to P12 run. -/
  | wakeTakesEffect
  /-- UCIE_LANE_FAILURE (R21): A UCIe lane fails training or its retry budget; its module is width-fenced to ×32 or fenced whole. -/
  | ucieLaneFailure (edge unit : Nat) (lanes : List Nat)
  /-- THERMAL_SAMPLE (R35): Every 100 µs the junction and package sensors are sampled. -/
  | thermalSample (readings : List (Nat × Int))
  /-- PLL_LOSS_OF_LOCK (R47): A PLL reports loss of lock; its domain is held in reset, its FIFOs are flushed and the event is logged with the consequences of Table 2.3. -/
  | pllLossOfLock (row inst : Nat)
  /-- PLL_LOCK_RETRY (R47): Every 100 µs the keeper retries lock, and it fences the domain after three failures. -/
  | pllLockRetry (row inst : Nat) (locked : Bool)
  /-- PACER_TOKEN (R42): The fixed-rate pacer hands out an issue token; a token that a ready core cannot use is counted in WR_D_PACER_MISS. -/
  | pacerToken (core : Nat) (late : Bool)
  /-- QUEUE_SPACE_ACCEPTANCE (R64): A place frees in the 256-entry execution queue, and the waiting parcel at the intake head is accepted. -/
  | queueSpaceAcceptance (ctx : Nat)
  /-- RUN (R70): A RUN parcel starts a program on a range of cores with 1 to 4 task slots per core. -/
  | run (ctx : Nat)
  /-- ORDINAL_PLACEMENT (R456): A RUN ordinal whose core was fenced after acceptance is placed on another free unfenced core once one frees. -/
  | ordinalPlacement (ctx : Nat) (hostSeq : W32) (ordinal core : Nat)
  /-- COPY (R71): A COPY parcel copies bytes between device virtual addresses in any tier except into flash. -/
  | copy (ctx : Nat)
  /-- FENCE (R69): A FENCE parcel starts after every earlier parcel has finished and completes at once. -/
  | fence (ctx : Nat)
  /-- QUERY_SEQUENCE_STATE (R72): QUERY code 0x01 writes CT_HOST_SEQ, CT_DEV_SEQ and CT_INTAKE as sampled at acceptance. -/
  | querySequenceState (ctx : Nat)
  /-- QUERY_CONTEXT_COUNTERS (R72): QUERY code 0x02 writes CT_COUNT_INTAKE, CT_SAT and CT_NONFINITE. -/
  | queryContextCounters (ctx : Nat)
  /-- QUERY_MODULE_IDENTITY (R72): QUERY code 0x03 writes the first 64 bytes of the identity block. -/
  | queryModuleIdentity (ctx : Nat)
  /-- ABORT (R85): An ABORT aborts every unfinished, unclaimed earlier parcel of its context through the phases of Table 3.25. -/
  | abort (ctx : Nat)
  /-- ABORT_FINISH (R86): The ABORTED records and then the ABORT's own OK record with its count are written, and the state returns to open. -/
  | abortFinish (ctx : Nat)
  /-- HOTSET (R285): A HOTSET parcel checks its whole move list and applies install, evict and move entries in order. -/
  | hotset (ctx : Nat)
  /-- MIGRATE (R285): A MIGRATE parcel checks and applies one move entry. -/
  | migrate (ctx : Nat)
  /-- TALLY_DUMP (R347): A TALLY_DUMP parcel writes a 64-byte record for each of the 65,536 tallies. -/
  | tallyDump (ctx : Nat)
  /-- SEAL (R435): A SEAL parcel resolves its ranges, writes the seal record and commits a new seal generation. -/
  | sealStep (ctx : Nat)
  /-- REPLAY_RESTORE_REEXECUTE (R445): REPLAY mode 0 restores the sealed frames and re-executes ledger parcels up to through. -/
  | replayRestoreReexecute (ctx : Nat)
  /-- REPLAY_RESTORE_ONLY (R445): REPLAY mode 1 checks digests and restores the sealed frames, keys and detector. -/
  | replayRestoreOnly (ctx : Nat)
  /-- REPLAY_CHECK_ONLY (R445): REPLAY mode 2 checks the record and copy digests without restoring. -/
  | replayCheckOnly (ctx : Nat)
  /-- PARCEL_FINISH (R104): A started parcel's work ends (for a RUN, all tasks halted and async work done); its record is queued and executed-through advances. -/
  | parcelFinish (ctx : Nat) (hostSeq : W32)
  /-- COMPLETION_RECORD_WRITE (R75): A queued completion record is written to the tailwater ring once space allows, followed by MSI-X where due. -/
  | completionRecordWrite (ctx : Nat)
  /-- CONTEXT_RESET_COMPLETE (R80): Within 40 µs the reset finishes and the context reads closed. -/
  | contextResetComplete (ctx : Nat)
  /-- ABANDONED_REPLY (R87): A reply for an abandoned tag arrives, is discarded and returns the tag to its pool. -/
  | abandonedReply (tag : Nat)
  /-- TAG_TIMEOUT (R158): A read tag times out 10 ms after issue: a detected data error unless the tag was abandoned. -/
  | tagTimeout (tag : Nat)
  /-- ATS_INVALIDATION_REQUEST (R303): A PCIe ATS Invalidation Request arrives and completes under the conditions of R302 for its range. -/
  | atsInvalidationRequest (addr size : Nat)
  /-- GET_VERSION (R407): The SPDM GET_VERSION request is answered with the supported versions 1.2 and 1.3. -/
  | getVersion (port : SpdmPort)
  /-- GET_CAPABILITIES (R407): The SPDM GET_CAPABILITIES request is answered. -/
  | getCapabilities (port : SpdmPort)
  /-- NEGOTIATE_ALGORITHMS (R407): The SPDM NEGOTIATE_ALGORITHMS request settles on P-521 and SHA-512. -/
  | negotiateAlgorithms (offer : AlgorithmOffer) (offers12 offers13 : Bool)
  /-- GET_DIGESTS (R407): The SPDM GET_DIGESTS request returns the digest of certificate slot 0. -/
  | getDigests (port : SpdmPort)
  /-- GET_CERTIFICATE (R407): The SPDM GET_CERTIFICATE request returns the identity certificate chain of slot 0. -/
  | getCertificate (request : CertRequest)
  /-- CHALLENGE (R407): The SPDM CHALLENGE request is signed with the device identity key, and refused in Returned or Scrapped. -/
  | challenge (request : SlotRequest) (nonce : Mix)
  /-- GET_MEASUREMENTS (R408): The SPDM GET_MEASUREMENTS request returns the measurements of Table 15.4, signed and computed on arrival. -/
  | getMeasurements (port : SpdmPort) (index : Nat) (signed : Bool)
  /-- UNSUPPORTED_SPDM_REQUEST (R407): Any other SPDM request, such as KEY_EXCHANGE, is answered with an ERROR response. -/
  | unsupportedSpdmRequest (port : SpdmPort)
  /-- MCTP_CONTROL_MESSAGE (R402): An MCTP control message on the sideband is answered, in recovery included. -/
  | mctpControlMessage (message : SidebandMessage)
  /-- FIRMWARE_IMAGE_TRANSFER (R404): A PLDM firmware update writes a new image into the non-running slot and checks it under R402. -/
  | firmwareImageTransfer (img : Image)
  /-- ACTIVATE_FIRMWARE (R404): ActivateFirmware, accepted only in Deep or recovery, makes the new slot preferred and restarts from P1. -/
  | activateFirmware
  /-- SIDEBAND_CAP (R384): The system controller sets the sideband power cap through PLDM, and the keeper writes WR_CAP.sideband. -/
  | sidebandCap (watts : Nat)
  /-- SIDEBAND_DROWSE_REQUEST (R417): A sideband request for Drowse is entered or refused under the same conditions as KP_PWR. -/
  | sidebandDrowseRequest
  /-- SIDEBAND_DEEP_REQUEST (R419): A sideband request for Deep resets every open context and enters Deep, or is refused while VAUX is absent. -/
  | sidebandDeepRequest
  /-- SIDEBAND_WAKE_REQUEST (R420): A sideband wake request wakes the module from Deep or Drowse. -/
  | sidebandWakeRequest
  /-- DEBUG_TOKEN_MESSAGE (R410): A debug token arrives in a Trelsan vendor-defined MCTP message and is checked as a submit. -/
  | debugTokenMessage (token : BitVec 4096) (keyDigest : Rec) (sigOk : Bool)
  /-- BYPASS (R412): The JTAG BYPASS instruction selects the one-bit bypass register. -/
  | bypass
  /-- IDCODE (R412): The JTAG IDCODE instruction shifts out the device identification. -/
  | idcode
  /-- SAMPLE_PRELOAD (R412): The JTAG SAMPLE/PRELOAD instruction captures the boundary chain, with unpowered cells reading 0. -/
  | samplePreload (levels : List Bool)
  /-- EXTEST (R412): The JTAG EXTEST instruction drives the boundary chain, only while PERST# is asserted or in Deep; otherwise it acts as BYPASS. -/
  | extest (scan : JtagScan)
  /-- DROWSE_EXIT (R418): A held intake write, BAR0 or BAR4 access, WAKE or sideband request brings the module back to Active within 300 µs. -/
  | drowseExit (why : WakeBy)
  /-- DIE_RESET (R425): A compute die resets; its tasks and groups end, tallies homed there are reset, check slots homed there break, and affected steps become dirty. -/
  | dieReset (die : Nat)
  /-- MALFORMED_INSTRUCTION (R96): A task fetches a malformed word and its parcel ends with ACCESS_VIOLATION, cause 4. -/
  | malformedInstruction (t : Who) (word : Word)
  /-- PREFETCH_POSITION_START (R307): A schedule position starts once the schedule has taken a grant of its slot's free tally. -/
  | prefetchPositionStart (op : Nat)
  /-- PREFETCH_DEADLINE (R308): A needed position's deadline passes, and its undecided rows are written by the entry's fallback. -/
  | prefetchDeadline (op position : Nat)
  /-- ASYNC_INSTRUCTION_FINISH (R90): An asynchronous instruction finishes and its completion-group counter falls by one. -/
  | asyncInstructionFinish (op : Nat)
  /-- ENGINE_READ_REPLY (R170): A read reply reaches an engine or sampler; the row is delivered and decided, or a detected error is found. -/
  | engineReadReply (tag : Nat) (outcome : ReadOutcome)
  /-- GATHER_DEADLINE (R170): A GATHER's deadline passes, and its undecided positions take the declared fallback. -/
  | gatherDeadline (op : Nat)
  /-- TASK_SAVE (R113): A core drains and saves its resident tasks and cistern, for another context's RUN, a fence or a rebalance. -/
  | taskSave (core : Nat) (why : SaveWhy)
  /-- TASK_RESTORE (R115): A saved core ordinal is restored onto a free core when its wait is granted, or at once. -/
  | taskRestore (ctx : Nat) (hostSeq : W32) (ordinal core : Nat)
  /-- WAIT_APPLIED (R322): A WAIT reaches its tally unit, claims the tally if needed, and is granted or queued. -/
  | waitApplied (k : Nat)
  /-- SIGNAL_APPLIED (R323): A SIGNAL at its tally unit grants waiters in order, adds the rest to count, or is refused on overflow. -/
  | signalApplied (k : Nat)
  /-- SIGNAL_ALL_APPLIED (R325): A SIGNAL_ALL at its tally unit grants every queued waiter, the pool included. -/
  | signalAllApplied (k : Nat)
  /-- GRANT_WAKE (R327): A grant reaches the core's wake line; a held task resumes and a descheduled task becomes ready. -/
  | grantWake (k : Nat)
  /-- HOLD_WINDOW_EXPIRY (R327): A waiting task's hold window runs out and it is descheduled. -/
  | holdWindowExpiry (t : Who)
  /-- WAIT_POOL_RESEND (R331): A WAIT held at issue for a full waiter pool is sent again once a pool entry frees. -/
  | waitPoolResend (t : Who)
  /-- LEASE_EXPIRY (R333): An owner lease runs out; the tally is poisoned and its waiters end with OWNER_LOST. -/
  | leaseExpiry (tally : Nat)
  /-- ARRIVAL_BATCH (R340): A die's batch of arrivals reaches the home node, which may complete its generation and send complete or release. -/
  | arrivalBatch (slot die : Nat)
  /-- CHECK_COMPLETE (R340): A complete(g) check flit from a child counts toward the node's wave. -/
  | checkComplete (port : Nat) (h : FlitHead) (group gen : W32)
  /-- CHECK_RELEASE (R340): A release(g) check flit from the parent releases held tasks and is passed to the children. -/
  | checkRelease (port : Nat) (h : FlitHead) (group gen : W32)
  /-- CHECK_CLOSE (R340): A close(g) check flit is passed down and the member closes its merge rounds. -/
  | checkClose (port : Nat) (h : FlitHead) (group gen : W32)
  /-- CHECK_CLOSED (R340): A closed(g) check flit from a child counts toward sending closed or release2. -/
  | checkClosed (port : Nat) (h : FlitHead) (group gen : W32)
  /-- CHECK_RELEASE2 (R340): A release2(g) check flit releases held tasks and is passed to the children. -/
  | checkRelease2 (port : Nat) (h : FlitHead) (group gen : W32)
  /-- CHECK_BREAK (R342): A break flit breaks the slot, ends held tasks with OWNER_LOST and is passed on. -/
  | checkBreak (port : Nat) (h : FlitHead) (group gen : W32)
  /-- SIGNAL_DETECT (R352): Signal appears on every lane and the port moves from Detect to Train. -/
  | signalDetect (port : Nat)
  /-- TRAIN_COMPLETE (R354): Equalisation and lane lock finish, at full or half width. -/
  | trainComplete (port : Nat) (lanes : Byte)
  /-- PORT_STATE_TIMEOUT (R352): A Train, Negotiate, Align or Retrain limit expires, and the port trains again or goes down. -/
  | portStateTimeout (port : Nat)
  /-- ALIGN_COMPLETE (R352): FEC lock and the first acknowledgements arrive, and the port becomes Active. -/
  | alignComplete (port : Nat)
  /-- LOSS_OF_SIGNAL (R352): Loss of signal takes the port down with cause 1 and discards its replay buffer. -/
  | lossOfSignal (port : Nat)
  /-- CAPABILITY (R353): A capability control flit settles the port version and latches the peer's address and port. -/
  | capability (port : Nat) (offer : OfferFlit) (half : Bool) (addr : W32) (peerPort : BitVec 5)
  /-- IDLE (R357): An idle flit is received and carries nothing. -/
  | idle (port : Nat) (h : FlitHead)
  /-- EMBEDDING_REQUEST (R276): A request flit for an embedding row is resolved at the owner, or routed on in transit. -/
  | embeddingRequest (port : Nat) (h : FlitHead) (record : Word) (row spanLog2 : Nat)
  /-- LINK_REPLY (R357): A reply flit delivers a remote row or a status to the requesting instruction. -/
  | linkReply (port : Nat) (h : FlitHead) (status : BitVec 4) (data : List Byte)
  /-- CONTRIBUTION (R280): A contribution write flit is appended to the owner's contribution log, or refused. -/
  | contribution (port : Nat) (h : FlitHead) (record : Word) (row rank : Nat) (values : List Byte)
  /-- DIRECT_WRITE (R279): A direct write flit is applied at the row's current home, or queued while the row moves. -/
  | directWrite (port : Nat) (h : FlitHead) (record : Word) (row offset : Nat) (data : List Byte)
  /-- WITHDRAWAL (R284): A withdrawal write flit deletes the sender rank's logged entries of its rounds. -/
  | withdrawal (port : Nat) (h : FlitHead) (record : Word) (rank : Nat)
  /-- PACE_NOTICE (R371): A pace notice makes the slot's hold window zero for its duration and is passed on. -/
  | paceNotice (port : Nat) (h : FlitHead) (group : W32) (level duration : Nat)
  /-- PACE_NOTICE_EXPIRY (R371): A pace notice's duration runs out and normal holding resumes. -/
  | paceNoticeExpiry (slot : Nat)
  /-- ACK (R360): An acknowledgement frees replay-buffer flits up to ack_seq. -/
  | ack (port : Nat) (flit : AckFlit)
  /-- NAK (R360): A nak makes the sender replay its buffer in order from the named number. -/
  | nak (port : Nat) (flit : AckFlit)
  /-- CREDIT (R363): A credit flit returns buffer credits for a virtual channel. -/
  | credit (port vc : Nat) (flit : CreditFlit)
  /-- ACK_TIMER (R360): 100 ns pass since the last acknowledgement, and the receiver sends one. -/
  | ackTimer (port : Nat)
  /-- LINK_REPLAY_TIMEOUT (R360): 2 µs pass without the acknowledgement advancing; the sender replays, retraining after 16 sends of one flit. -/
  | linkReplayTimeout (port : Nat)
  /-- BUNDLE_RESUME (R365): After a bundle change, sending resumes with new slots once the flits already sent are acknowledged or their ports are down. -/
  | bundleResume (dim : Nat) (minus : Bool)
  /-- ESTIMATE_INTERVAL (R379): Every 2 µs a die forms its power estimate from activity counters and leakage. -/
  | estimateInterval (die : Nat)
  /-- GOVERNOR_INTERVAL (R385): Every 2 µs IOD0 forms the module estimate, the floor and the per-die budgets. -/
  | governorInterval
  /-- ESTIMATOR_TRIM (R380): Every 1 ms the keeper scales the estimator gain to match measured VMAIN power. -/
  | estimatorTrim (measured : Nat)
  /-- WEIR_INTERVAL (R382): At each die interval the weir sets the target point and the throttle index, and runs shelf steps. -/
  | weirInterval (die : Nat)
  /-- DROOP_WARNING (R390): A quadrant sensor crosses below warning, and array issue in the quadrant is withheld within 4 ns. -/
  | droopWarning (die quadrant : Nat)
  /-- DROOP_RECOVERY_HOLD_EXPIRY (R390): The sensor has read above recovery for 50 µs; array issue resumes and the dip is recorded. -/
  | droopRecoveryHoldExpiry (die quadrant depth duration : Nat)
  /-- DROOP_RESET (R390): A sensor crosses below reset and the die is reset within 50 ns. -/
  | droopReset (die quadrant : Nat)
  /-- PACE_NOTICE_RESEND (R395): While a pace call stands, notices are sent again every ticks / 2. -/
  | paceNoticeResend (die : Nat)
  /-- INVALIDATION_COMPLETE (R302): No stale translation or access remains, and MT_INVAL.busy clears. -/
  | invalidationComplete
  /-- INGEST_COMPLETE (R312): An ingest or trim finishes in state done or error, with its sectors durable. -/
  | ingestComplete (slot : Nat) (detected : Bool)
  /-- WEAR_LEVELLING (R313): The erase counts of free blocks differ by over 5 %, so the FTL levels wear. -/
  | wearLevelling (wear : Nat)
  /-- READ_DISTURB_RELOCATION (R313): A block reaches 50,000 reads and is relocated. -/
  | readDisturbRelocation (channel block : Nat)
  /-- RETENTION_REFRESH (R313): A block's powered age reaches its limit and it is refreshed. -/
  | retentionRefresh (channel block : Nat)
  /-- POWER_ON_SCAN (R313): Within 24 h of power-on, blocks with low read margin are refreshed. -/
  | powerOnScan (blocks : Nat)
  /-- BAD_BLOCK_RETIREMENT (R317): A failing block is retired, its readable sectors are moved and its channel is charged. -/
  | badBlockRetirement (channel block : Nat)
  /-- MAP_REBUILD_COMPLETE (R315): The FTL finishes rebuilding the map part lost with a fenced far channel. -/
  | mapRebuildComplete
  /-- INSTALL (R286): A move entry installs a row from its cold home into a free bucket entry at dest. -/
  | install (ctx : Nat)
  /-- EVICT (R286): A move entry removes a row from the hot set, writing it back or discarding it. -/
  | evict (ctx : Nat)
  /-- MOVE (R286): A move entry moves a hot row to a new home. -/
  | move (ctx : Nat)
  /-- MOVE_COMMIT (R287): The copy is done and the single entry write makes the target the home; queued writes and held updates are applied. -/
  | moveCommit (move : Nat)
  /-- MOVE_DRAIN_COMPLETE (R287): Every lookup bound to the source has finished; the result is written and the move counted. -/
  | moveDrainComplete (move : Nat)
  /-- FIRST_TOUCH_COPY_DONE (R437): A frame copy and its digest finish, the index entry is written and the held writes proceed. -/
  | firstTouchCopyDone (frame : Nat) (detected : Bool)
  /-- AUTOMATIC_REPLAY_RESTORE (R443): After quiesce and withdraw, the sealed frames, tallies, keys and detector are checked and restored. -/
  | automaticReplayRestore (ctx : Nat)
  /-- AUTOMATIC_REPLAY_REEXECUTE (R443): The ledger's parcels are re-run one at a time, with the SKEYs compared. -/
  | automaticReplayReexecute (ctx : Nat)
  /-- AUTOMATIC_REPLAY_RESUME (R444): Re-execution ends; a replay record is written and later parcels resume. -/
  | automaticReplayResume (ctx : Nat)
  /-- SPILL_LOG_DRAIN (R429): At least every 10 µs the keeper drains the staging buffers into the spill-log ring. -/
  | spillLogDrain
  /-- BIST_COMPLETE (R452): The test ends; the unit passes back into service or is fenced with cause 3. -/
  | bistComplete (found : TestEnd)
  /-- MODULE_STEP (R448): DG_STEPS advances for a second without a committed seal, and charges older than 1,024 steps are dropped. -/
  | moduleStep
  /-- VAUX_RETURN (R31): VAUX returns within its range while VMAIN converts, so the module may again enter Deep and VAUX is again there for the standby supply. -/
  | vauxReturn
  /-- DROWSE_ENTRY_COMPLETE (R417): Within 100 µs of an accepted Drowse request, the ports are down, the memories are in self-refresh and the gated domains are in retention, and KP_PWR.state moves from entering Drowse to Drowse. -/
  | drowseEntryComplete
  /-- DIE_RESET_COMPLETE (R413): A die reset finishes within 2 ms, after which the die restarts at OP0 with T = 78 and its allowance ramps. -/
  | dieResetComplete (die : Nat)
  /-- FLIT_CRC_FAILURE (R360): A received flit fails its CRC, or is touched by an uncorrectable FEC codeword; it is discarded and one nak naming the expected sequence number is sent. -/
  | flitCrcFailure (port : Nat) (uncorrectable : Bool)
  deriving DecidableEq, Repr

end Sys2Proof
end

