-- ==== Sys2Proof/Decode.lean ====
section
/-! DEFINITION. The command a word of the table spells, and the word form of a Selod instruction: which 64-bit words
are well formed at a level, and which command a well-formed word spells for a task (04_selod_isa.md R93 to R100). -/

namespace Sys2Proof

/-- The table of operations gives no row any bits, so no word spells a command. -/
def decodeTableWord (_nbits _w : Nat) : Option Instr := none

/-! ### The header and trailer of a flit (Tables 13.3, R356) -/

def FlitHead.version (h : FlitHead) : Nat := (h.header.extractLsb' 0 4).toNat
def FlitHead.kind (h : FlitHead) : Nat := (h.header.extractLsb' 4 4).toNat
def FlitHead.cls (h : FlitHead) : Nat := (h.header.extractLsb' 8 2).toNat
def FlitHead.vc (h : FlitHead) : Bool := h.header.getLsbD 10
def FlitHead.sequenced (h : FlitHead) : Bool := h.header.getLsbD 11
def FlitHead.seq (h : FlitHead) : BitVec 12 := h.header.extractLsb' 16 12
def FlitHead.dst (h : FlitHead) : W32 := h.header.extractLsb' 32 32
def FlitHead.src (h : FlitHead) : W32 := h.header.extractLsb' 64 32
def FlitHead.tag (h : FlitHead) : BitVec 16 := h.header.extractLsb' 96 16
def FlitHead.context (h : FlitHead) : Nat := (h.header.extractLsb' 112 10).toNat

/-- Every reserved field of the header is zero. -/
def FlitHead.reservedOk (h : FlitHead) : Bool :=
  h.header.extractLsb' 12 4 = 0 && h.header.extractLsb' 28 4 = 0 && h.header.extractLsb' 122 6 = 0

/-- The number that the trailer acknowledges, where its ack_valid is set. -/
def FlitHead.ack (h : FlitHead) : Option (BitVec 12) :=
  if h.trailer.getLsbD 12 then some (h.trailer.extractLsb' 0 12) else none

/-! ### Selod words (04_selod_isa.md R93 to R100) -/

/-- What a register field of an instruction names (R94). -/
inductive RegField where
  | none | s | v | p | tile | d
  deriving DecidableEq, Repr

/-- The value a register field holds lies within its state's count; a field the definition does not use is zero. -/
def RegField.fits (k : RegField) (n : Nat) : Bool :=
  match k with
  | .none => n = 0
  | .s => n < 64
  | .v => n < 32
  | .p => n < 8
  | .tile => n < 8
  | .d => n < 16

/-- Bits [hi:lo] of a word. -/
def wordBits (w hi lo : Nat) : Nat := (w >>> lo) % 2 ^ (hi + 1 - lo)

/-- The operand formats of Table 4.5, with what each register field names and the test on the other fields. -/
inductive OpForm where
  | rr (rd ra rb rc : RegField) (func : Nat → Bool)
  | ri (rd ra : RegField) (imm : Nat → Bool)
  | br
  | mx
  | st (rd ra rb rc : RegField) (func : Nat → Bool)
  | sy (ra rb : RegField) (imm : Nat → Bool)

def anyImm (_ : Nat) : Bool := true
def zeroFunc (f : Nat) : Bool := f = 0

/-- The operand field of a word fits its format (R94). -/
def OpForm.fits (o : OpForm) (w : Nat) : Bool :=
  match o with
  | .rr x a b c f => x.fits (wordBits w 43 38) && a.fits (wordBits w 37 32) && b.fits (wordBits w 31 26)
      && c.fits (wordBits w 25 20) && f (wordBits w 19 8) && wordBits w 7 0 = 0
  | .ri x a i => x.fits (wordBits w 43 38) && a.fits (wordBits w 37 32) && i (wordBits w 31 0)
  | .br => true
  | .mx => wordBits w 19 0 = 0
  | .st x a b c f => x.fits (wordBits w 43 40) && a.fits (wordBits w 39 34) && b.fits (wordBits w 33 28)
      && c.fits (wordBits w 27 22) && f (wordBits w 21 10) && wordBits w 9 0 = 0
  | .sy a b i => a.fits (wordBits w 43 38) && b.fits (wordBits w 37 32) && i (wordBits w 31 0)

/-- One row of Tables 4.7 to 4.16: the minor codes it covers, whether it is level 2, whether it is asynchronous, and
its operand format. -/
structure OpRow where
  major : Nat
  first : Nat
  last : Nat
  level2 : Bool
  async : Bool
  form : OpForm

/-- Tables 4.7 to 4.9. -/
def opRowsLanes : List OpRow :=
  [⟨0x01, 0x0, 0xE, false, false, .rr .s .s .s .none zeroFunc⟩,
   ⟨0x01, 0xF, 0xF, false, false, .rr .s .s .none .none zeroFunc⟩,
   ⟨0x02, 0x0, 0xE, false, false, .ri .s .s anyImm⟩,
   ⟨0x02, 0xF, 0xF, false, false, .ri .s .none anyImm⟩,
   ⟨0x03, 0x0, 0xF, false, false, .ri .s .s anyImm⟩,
   ⟨0x04, 0x0, 0x5, false, false, .br⟩,
   ⟨0x04, 0x6, 0x6, false, false, .ri .s .none anyImm⟩,
   ⟨0x04, 0x7, 0x7, false, false, .ri .none .s anyImm⟩,
   ⟨0x05, 0x0, 0x2, false, false, .rr .s .s .s .none zeroFunc⟩,
   ⟨0x05, 0x3, 0x3, false, false, .rr .s .s .s .s zeroFunc⟩,
   ⟨0x05, 0x4, 0x5, false, false, .rr .s .s .s .none zeroFunc⟩,
   ⟨0x05, 0x6, 0x7, false, false, .rr .s .s .none .none zeroFunc⟩,
   ⟨0x08, 0x0, 0xE, false, false, .rr .v .v .v .none zeroFunc⟩,
   ⟨0x08, 0xF, 0xF, false, false, .rr .v .v .none .none zeroFunc⟩,
   ⟨0x09, 0x0, 0x2, false, false, .rr .v .v .v .none zeroFunc⟩,
   ⟨0x09, 0x3, 0x3, false, false, .rr .v .v .v .v zeroFunc⟩,
   ⟨0x09, 0x4, 0x5, false, false, .rr .v .v .v .none zeroFunc⟩,
   ⟨0x09, 0x6, 0xB, false, false, .rr .v .v .none .none zeroFunc⟩,
   ⟨0x09, 0xC, 0xD, false, false, .rr .p .v .v .none zeroFunc⟩,
   ⟨0x09, 0xE, 0xE, false, false, .rr .v .v .v .p zeroFunc⟩]
  ++ [⟨0x0A, 0x0, 0x1, false, false, .ri .v .s anyImm⟩,
   ⟨0x0A, 0x2, 0x3, false, false, .rr .v .s .s .none zeroFunc⟩,
   ⟨0x0A, 0x4, 0x5, false, false, .rr .v .s .v .none zeroFunc⟩,
   ⟨0x0A, 0x6, 0x6, false, false, .rr .v .s .none .none zeroFunc⟩,
   ⟨0x0A, 0x7, 0x7, false, false, .rr .s .v .s .none zeroFunc⟩,
   ⟨0x0B, 0x0, 0x2, false, false, .rr .s .v .none .none zeroFunc⟩,
   ⟨0x0B, 0x3, 0x3, false, false, .rr .v .v .v .none zeroFunc⟩,
   ⟨0x0B, 0x4, 0x4, false, false, .rr .v .v .none .none zeroFunc⟩,
   ⟨0x0B, 0x5, 0x5, false, false, .rr .s .p .none .none zeroFunc⟩,
   ⟨0x0B, 0x6, 0x7, false, false, .rr .v .none .s .none zeroFunc⟩,
   ⟨0x0C, 0x0, 0x2, false, false, .rr .p .p .p .none zeroFunc⟩,
   ⟨0x0C, 0x3, 0x3, false, false, .rr .p .p .none .none zeroFunc⟩,
   ⟨0x0C, 0x4, 0x4, false, false, .rr .p .s .none .none zeroFunc⟩,
   ⟨0x0C, 0x5, 0x5, false, false, .rr .s .p .none .none zeroFunc⟩,
   ⟨0x0C, 0x6, 0x6, false, false, .rr .p .p .none .none zeroFunc⟩]

/-- Block-scaled formats, FP sources of CVTN and the pairs of Table 8.3, at a level (R220, R226, R229, R230). -/
def fmtBlock (c : Nat) : Bool := 6 ≤ c && c ≤ 10
def fmtAtLevel (lvl2 : Bool) (c : Nat) : Bool := c ≤ 13 && (lvl2 || !(8 ≤ c && c ≤ 10))
def widenPair (src dst : Nat) : Bool :=
  (dst = 0 && 1 ≤ src && src ≤ 10) || (dst = 1 && 3 ≤ src && src ≤ 10)
    || (dst = 12 && src = 11) || (dst = 13 && (src = 11 || src = 12))

/-- Bits of an element of a numeric format (Table 8.1). -/
def fmtWidth (c : Nat) : Nat :=
  match c with
  | 0 => 32 | 1 => 16 | 2 => 16 | 8 => 6 | 9 => 6 | 10 => 4 | _ => 8

/-- func of CVTN and CVTW in the register form (R229). -/
def cvtRegFunc (lvl2 narrow : Bool) (f : Nat) : Bool :=
  let src := wordBits f 3 0
  let dst := wordBits f 7 4
  wordBits f 9 8 = 0 && wordBits f 11 11 = 0 && fmtAtLevel lvl2 src && fmtAtLevel lvl2 dst
    && (if narrow then src ≤ 2 && 1 ≤ dst && dst ≤ 5
        else widenPair src dst && !fmtBlock src && wordBits f 10 10 = 0)

/-- func of CVTN and CVTW in the memory form (R230): a numeric source of fp32, bf16 or fp16 with a narrower numeric
destination, or a raw pair that keeps low bits. -/
def cvtMemFunc (lvl2 narrow : Bool) (f : Nat) : Bool :=
  let src := wordBits f 3 0
  let dst := wordBits f 7 4
  wordBits f 11 11 = 0 && fmtAtLevel lvl2 src && fmtAtLevel lvl2 dst
    && (if narrow then
          (src ≤ 2 && dst ≤ 10 && fmtWidth dst < fmtWidth src)
            || (((src = 13 && (dst = 12 || dst = 11)) || (src = 12 && dst = 11)) && wordBits f 10 10 = 0)
        else widenPair src dst && wordBits f 10 10 = 0)

/-- Tables 4.10 to 4.16; CVTN and CVTW follow below. -/
def opRowsUnits : List OpRow :=
  [⟨0x10, 0x0, 0x6, false, true, .mx⟩,
   ⟨0x10, 0x7, 0x8, true, true, .mx⟩,
   ⟨0x11, 0x0, 0x0, false, false, .rr .tile .none .none .none zeroFunc⟩,
   ⟨0x11, 0x1, 0x2, false, true, .rr .tile .s .none .none zeroFunc⟩,
   ⟨0x14, 0x0, 0x1, false, false, .st .d .s .none .none zeroFunc⟩,
   ⟨0x14, 0x2, 0x2, false, false, .st .d .none .none .none zeroFunc⟩,
   ⟨0x15, 0x0, 0x1, false, true, .st .d .none .none .none zeroFunc⟩,
   ⟨0x15, 0x2, 0x2, false, true, .st .d .none .none .none fun f => f ≤ 3⟩,
   ⟨0x15, 0x3, 0x3, true, true, .st .d .none .none .none zeroFunc⟩,
   ⟨0x15, 0x4, 0x5, false, true, .st .d .none .none .none zeroFunc⟩,
   ⟨0x18, 0x0, 0x2, false, true, .st .d .none .none .none zeroFunc⟩,
   ⟨0x18, 0x3, 0x3, false, false, .st .none .s .s .none zeroFunc⟩,
   ⟨0x1A, 0x2, 0x2, false, false, .rr .v .v .none .none fun f => f ≤ 1⟩,
   ⟨0x1A, 0x3, 0x3, false, false, .rr .v .v .v .none zeroFunc⟩,
   ⟨0x1A, 0x4, 0x4, true, false, .rr .v .v .v .v fun f => f ≤ 1⟩,
   ⟨0x1A, 0x5, 0x5, true, false, .rr .v .v .v .none zeroFunc⟩,
   ⟨0x1C, 0x0, 0x0, true, true, .st .d .none .none .none zeroFunc⟩,
   ⟨0x1C, 0x1, 0x2, false, true, .st .d .none .none .none zeroFunc⟩]
  ++ [⟨0x1D, 0x0, 0x0, false, false, .sy .s .none zeroFunc⟩,
   ⟨0x1D, 0x1, 0x1, false, false, .sy .s .s zeroFunc⟩,
   ⟨0x1D, 0x2, 0x2, false, false, .sy .s .none zeroFunc⟩,
   ⟨0x1D, 0x3, 0x3, false, false, .sy .none .none anyImm⟩,
   ⟨0x1D, 0x4, 0x4, false, false, .sy .none .none fun i => wordBits i 7 3 = 0 && wordBits i 31 16 = 0⟩,
   ⟨0x1D, 0x5, 0x5, false, false, .sy .none .none zeroFunc⟩,
   ⟨0x1E, 0x0, 0x0, true, false, .rr .none .s .s .none zeroFunc⟩,
   ⟨0x1E, 0x1, 0x1, true, false, .rr .v .s .none .none zeroFunc⟩,
   ⟨0x1E, 0x2, 0x2, false, false, .rr .none .s .none .none zeroFunc⟩,
   ⟨0x1E, 0x3, 0x3, false, false, .rr .v .none .none .none zeroFunc⟩,
   ⟨0x1F, 0x0, 0x0, false, false, .ri .none .none fun i => wordBits i 31 12 = 0⟩,
   ⟨0x1F, 0x1, 0x2, false, false, .ri .none .none zeroFunc⟩,
   ⟨0x1F, 0x3, 0x3, false, false, .ri .s .none fun i => i ≤ 4⟩,
   ⟨0x1F, 0x4, 0x4, true, false, .ri .none .none fun i => i ≤ 5⟩,
   ⟨0x1F, 0x5, 0x5, true, false, .ri .s .s fun i =>
      wordBits i 3 0 ≠ 0 && wordBits i 11 4 ≠ 0 && wordBits i 31 22 = 0⟩,
   ⟨0x1F, 0x6, 0x7, false, false, .ri .none .none zeroFunc⟩]

/-- The rows whose tests depend on the level: ASTN, CVTN and CVTW (R229 to R231). `mem` is operand bit [0]. -/
def opRowsLevel (lvl2 mem : Bool) : List OpRow :=
  [⟨0x11, 0x3, 0x3, false, true, .rr .tile .s .none .none fun f =>
      1 ≤ wordBits f 3 0 && wordBits f 3 0 ≤ 10 && fmtAtLevel lvl2 (wordBits f 3 0) && wordBits f 11 7 = 0⟩]
  ++ (if mem then
        [⟨0x1A, 0x0, 0x0, false, true, .st .none .s .s .s (cvtMemFunc lvl2 true)⟩,
         ⟨0x1A, 0x1, 0x1, false, true, .st .none .s .s .s (cvtMemFunc lvl2 false)⟩]
      else
        [⟨0x1A, 0x0, 0x0, false, false, .rr .v .v .none .s (cvtRegFunc lvl2 true)⟩,
         ⟨0x1A, 0x1, 0x1, false, false, .rr .v .v .none .none (cvtRegFunc lvl2 false)⟩])

/-- A word is well formed at a level (R96): its opcode is defined, it is not level 2 in a level 1 context, its group is
zero if it is synchronous, bits [46:44] are zero, and its operand field fits its format. -/
def wordOk (lvl2 : Bool) (w : BitVec 64) : Bool :=
  let n := w.toNat
  let major := wordBits n 63 58
  let minor := wordBits n 57 54
  let cvt := major = 0x1A && minor ≤ 1
  -- operand bit [0] of CVTN and CVTW is the form; the formats otherwise hold it reserved
  let ops := if cvt then n / 2 * 2 else n
  let rows := opRowsLanes ++ opRowsUnits ++ opRowsLevel lvl2 (decide (n % 2 = 1))
  rows.any fun r => r.major = major && r.first ≤ minor && minor ≤ r.last && (lvl2 || !r.level2)
    && (r.async || wordBits n 49 47 = 0) && wordBits n 46 44 = 0 && r.form.fits ops

/-! ### The command of a word (Tables 4.4 to 4.16) -/

/-- The guard, group and register fields of a word. -/
def wordGuard (w : Nat) : Guard := ⟨Fin.ofNat 8 (wordBits w 53 51), (w >>> 50) % 2 = 1⟩
def wordGroup (w : Nat) : Fin 8 := Fin.ofNat 8 (wordBits w 49 47)
def fieldS (w hi lo : Nat) : Fin 64 := Fin.ofNat 64 (wordBits w hi lo)
def fieldV (w hi lo : Nat) : Fin 32 := Fin.ofNat 32 (wordBits w hi lo)
def fieldP (w hi lo : Nat) : Fin 8 := Fin.ofNat 8 (wordBits w hi lo)
def wordImm (w : Nat) : W32 := BitVec.ofNat 32 (wordBits w 31 0)
def wordDesc (w : Nat) : Fin 16 := Fin.ofNat 16 (wordBits w 43 40)
/-- func of the RR and of the ST format. -/
def funcRr (w : Nat) : Nat := wordBits w 19 8
def funcSt (w : Nat) : Nat := wordBits w 21 10

/-- Majors 0x01, 0x02 and 0x03, by minor (Table 4.7). -/
def selScalar (t : Who) (w minor : Nat) : Option (Fin 64 → Fin 64 → Fin 64 → Instr) :=
  let g := wordGuard w
  ([.add t g, .sub t g, .mul t g, .mulh t g, .and t g, .or t g, .xor t g, .shl t g, .shr t g, .sra t g, .min t g,
    .max t g, .slt t g, .sltu t g, .seq t g, fun d a _ => .popc t g d a] : List (Fin 64 → Fin 64 → Fin 64 → Instr))[minor]?
def selImm (t : Who) (w minor : Nat) : Option (Fin 64 → Fin 64 → W32 → Instr) :=
  let g := wordGuard w
  ([.addi t g, .subi t g, .muli t g, .mulhi t g, .andi t g, .ori t g, .xori t g, .shli t g, .shri t g, .srai t g,
    .mini t g, .maxi t g, .slti t g, .sltui t g, .seqi t g, fun d _ i => .movh t g d i] : List (Fin 64 → Fin 64 → W32 → Instr))[minor]?
def selMemory (t : Who) (w minor : Nat) : Option (Fin 64 → Fin 64 → W32 → Instr) :=
  let g := wordGuard w
  ([.ld8 t g, .ld16 t g, .ld32 t g, .ld64 t g, .st8 t g, .st16 t g, .st32 t g, .st64 t g, .cld8 t g, .cld16 t g,
    .cld32 t g, .cld64 t g, .cst8 t g, .cst16 t g, .cst32 t g, .cst64 t g] : List (Fin 64 → Fin 64 → W32 → Instr))[minor]?

/-- Major 0x04 (Table 4.7). -/
def selControl (t : Who) (w minor : Nat) : Option Instr :=
  let g := wordGuard w
  let a := fieldS w 43 38
  let b := fieldS w 37 32
  let i := wordImm w
  [.beq t g a b i, .bne t g a b i, .blt t g a b i, .bge t g a b i, .bltu t g a b i, .bgeu t g a b i, .jal t g a i,
    .jr t g b i][minor]?

/-- Major 0x05 (Table 4.7). -/
def selFp (t : Who) (w minor : Nat) : Option Instr :=
  let g := wordGuard w
  let d := fieldS w 43 38
  let a := fieldS w 37 32
  let b := fieldS w 31 26
  [.fadd t g d a b, .fsub t g d a b, .fmul t g d a b, .ffma t g d a b (fieldS w 25 20), .fmin t g d a b, .fmax t g d a b,
    .fcvtif t g d a, .fcvtfi t g d a][minor]?

/-- Majors 0x08 and 0x09 (Table 4.8). -/
def selVector (t : Who) (w minor : Nat) : Option Instr :=
  let g := wordGuard w
  let d := fieldV w 43 38
  let a := fieldV w 37 32
  let b := fieldV w 31 26
  [.vadd t g d a b, .vsub t g d a b, .vmul t g d a b, .vmulh t g d a b, .vand t g d a b, .vor t g d a b, .vxor t g d a b,
    .vshl t g d a b, .vshr t g d a b, .vsra t g d a b, .vmin t g d a b, .vmax t g d a b, .vslt t g d a b, .vsltu t g d a b,
    .vseq t g d a b, .vpopcnt t g d a][minor]?
def selVectorFp (t : Who) (w minor : Nat) : Option Instr :=
  let g := wordGuard w
  let d := fieldV w 43 38
  let a := fieldV w 37 32
  let b := fieldV w 31 26
  let p := fieldP w 43 38
  [.vfadd t g d a b, .vfsub t g d a b, .vfmul t g d a b, .vffma t g d a b (fieldV w 25 20), .vfmin t g d a b,
    .vfmax t g d a b, .vfabs t g d a, .vfneg t g d a, .vfrcp t g d a, .vfrsq t g d a, .vfexp t g d a, .vflog t g d a,
    .vfclt t g p a b, .vfceq t g p a b, .vfsel t g d a b (fieldP w 25 20)][minor]?

/-- Majors 0x0A, 0x0B and 0x0C (Table 4.9). -/
def selVectorMemory (t : Who) (w minor : Nat) : Option Instr :=
  let g := wordGuard w
  let v := fieldV w 43 38
  let a := fieldS w 37 32
  let b := fieldS w 31 26
  [.vld t g v a (wordImm w), .vst t g v a (wordImm w), .vlds t g v a b, .vsts t g v a b, .vldx t g v a (fieldV w 31 26),
    .vstx t g v a (fieldV w 31 26), .vbcast t g v a, .vmovs t g (fieldS w 43 38) (fieldV w 37 32) b][minor]?
def selLanes (t : Who) (w minor : Nat) : Option Instr :=
  let g := wordGuard w
  let r := fieldS w 43 38
  let d := fieldV w 43 38
  let a := fieldV w 37 32
  [.vrsum t g r a, .vrmax t g r a, .vrisum t g r a, .vperm t g d a (fieldV w 31 26), .vscan t g d a,
    .pcount t g r (fieldP w 37 32), .vfroma t g d (fieldS w 31 26), .atov t g d (fieldS w 31 26)][minor]?
def selPredicate (t : Who) (w minor : Nat) : Option Instr :=
  let g := wordGuard w
  let d := fieldP w 43 38
  let a := fieldP w 37 32
  let b := fieldP w 31 26
  [.pand t g d a b, .por t g d a b, .pxor t g d a b, .pnot t g d a, .pfroms t g d (fieldS w 37 32),
    .ptos t g (fieldS w 43 38) a, .pfirst t g d a][minor]?

/-- Majors 0x10 and 0x11 (Table 4.10). -/
def selMxm (t : Who) (w minor : Nat) : Instr :=
  .mxm t (wordGuard w) (wordGroup w) (Fin.ofNat 9 minor) (fieldP w 43 41) (fieldS w 40 35) (Fin.ofNat 16 (wordBits w 34 31))
    (fieldS w 30 25) (fieldP w 24 22) (wordBits w 21 21 = 1) (wordBits w 20 20 = 1)
def selTile (t : Who) (w minor : Nat) : Option Instr :=
  let g := wordGuard w
  let grp := wordGroup w
  let a := fieldP w 43 38
  let r := fieldS w 37 32
  let f := funcRr w
  [.azero t g a, .aload t g grp a r, .astore t g grp a r,
    .astn t g grp a r (BitVec.ofNat 4 (wordBits f 3 0)) (BitVec.ofNat 2 (wordBits f 5 4)) (wordBits f 6 6 = 1)][minor]?

/-- Majors 0x14, 0x15, 0x18 and 0x1C (Tables 4.11 and 4.12). -/
def selDesc (t : Who) (w minor : Nat) : Option Instr :=
  let g := wordGuard w
  let d := wordDesc w
  [.dld t g d (fieldS w 39 34), .dst t g d (fieldS w 39 34), .dinv t g d][minor]?
def selStream (t : Who) (w minor : Nat) : Option Instr :=
  let g := wordGuard w
  let grp := wordGroup w
  let d := wordDesc w
  [.gather t g grp d, .scatter t g grp d, .segred t g grp d (BitVec.ofNat 2 (funcSt w)), .combine t g grp d,
    .scopy t g grp d, .pfsched t g grp d][minor]?
def selSampling (t : Who) (w minor : Nat) : Option Instr :=
  let g := wordGuard w
  let grp := wordGroup w
  let d := wordDesc w
  [.shuf t g grp d, .sample t g grp d, .dedup t g grp d, .skey t g (fieldS w 39 34) (fieldS w 33 28)][minor]?
def selSparsity (t : Who) (w minor : Nat) : Option Instr :=
  let g := wordGuard w
  let grp := wordGroup w
  let d := wordDesc w
  [.predict t g grp d, .bmchk t g grp d, .bmexp t g grp d][minor]?

/-- Major 0x1A (Table 4.13): operand bit [0] picks the form of CVTN and CVTW. -/
def selConvert (t : Who) (w minor : Nat) : Option Instr :=
  let g := wordGuard w
  let grp := wordGroup w
  let v := fieldV w 43 38
  let a := fieldV w 37 32
  let b := fieldV w 31 26
  let c := fieldV w 25 20
  let code := fun (f k : Nat) => (BitVec.ofNat 4 (wordBits f (4 * k + 3) (4 * k)))
  let f := funcRr w
  let m := funcSt w
  let block : BitVec 2 := BitVec.ofNat 2 (wordBits m 9 8)
  let x := fieldS w 39 34
  let y := fieldS w 33 28
  let z := fieldS w 27 22
  if w % 2 = 1 then
    [.cvtnMemory t g grp x y z (code m 0) (code m 1) block (wordBits m 10 10 = 1),
      .cvtwMemory t g grp x y z (code m 0) (code m 1) block][minor]?
  else
    [.cvtnRegister t g v a (fieldS w 25 20) (code f 0) (code f 1) (wordBits f 10 10 = 1),
      .cvtwRegister t g v a (code f 0) (code f 1), .split t g v a (f = 1), .join t g v a b, .splitx t g v a b c (f = 1),
      .joinx t g v a b][minor]?

/-- Majors 0x1D, 0x1E and 0x1F (Tables 4.14 to 4.16). -/
def selSync (t : Who) (w minor : Nat) : Option Instr :=
  let g := wordGuard w
  let a := fieldS w 43 38
  let b := fieldS w 37 32
  let i := wordImm w
  [.wait t g a, .signal t g a b, .signalAll t g a, .arrive t g i, .cwait t g (Fin.ofNat 8 i.toNat) (i.extractLsb' 8 8),
    .mfence t g][minor]?
def selRng (t : Who) (w minor : Nat) : Option Instr :=
  let g := wordGuard w
  let a := fieldS w 37 32
  [.rkey t g a (fieldS w 31 26), .rdk t g (fieldV w 43 38) a, .rinit t g a, .rdr t g (fieldV w 43 38)][minor]?
def selSystem (t : Who) (w minor : Nat) : Option Instr :=
  let g := wordGuard w
  let d := fieldS w 43 38
  let i := wordImm w
  [.entry t g i, .halt t g, .yield t g, .rdinfo t g d i, .phase t g i, .loss t g d (fieldS w 37 32) i, .ifence t g,
    .nop t g][minor]?

/-- The command that a word spells for a task at a level; none where it is malformed (R96). -/
def decodeSelod (lvl2 : Bool) (t : Who) (word : BitVec 64) : Option Instr :=
  let w := word.toNat
  let minor := wordBits w 57 54
  if !wordOk lvl2 word then none
  else
    match wordBits w 63 58 with
    | 0x01 => (selScalar t w minor).map fun f => f (fieldS w 43 38) (fieldS w 37 32) (fieldS w 31 26)
    | 0x02 => (selImm t w minor).map fun f => f (fieldS w 43 38) (fieldS w 37 32) (wordImm w)
    | 0x03 => (selMemory t w minor).map fun f => f (fieldS w 43 38) (fieldS w 37 32) (wordImm w)
    | 0x04 => (selControl t w minor)
    | 0x05 => (selFp t w minor)
    | 0x08 => (selVector t w minor)
    | 0x09 => (selVectorFp t w minor)
    | 0x0A => (selVectorMemory t w minor)
    | 0x0B => (selLanes t w minor)
    | 0x0C => (selPredicate t w minor)
    | 0x10 => some (selMxm t w minor)
    | 0x11 => (selTile t w minor)
    | 0x14 => (selDesc t w minor)
    | 0x15 => (selStream t w minor)
    | 0x18 => (selSampling t w minor)
    | 0x1A => (selConvert t w minor)
    | 0x1C => (selSparsity t w minor)
    | 0x1D => (selSync t w minor)
    | 0x1E => (selRng t w minor)
    | 0x1F => (selSystem t w minor)
    | _ => none

end Sys2Proof
end

