-- ==== Sys2Proof/Config.lean ====
section
/-! DEFINITION. What an implementation fixes and the values the spec leaves open, as constants without a body:
nothing in Lean can evaluate one or prove a value of it. -/

namespace Sys2Proof

/-- Running RNG state of a lane before its task executes RINIT (R92: undefined); the first argument is the state's
free-value counter. Log entry 11. -/
opaque Config.freeRng : Nat → Nat → Mix

/-- Task slots of a core whose next instruction is not ready (R89): an operand, a destination or its unit keeps it. Arguments:
the core, and the index of the value. Log entry 20. -/
opaque Config.notReady : Nat → Nat → BitVec 4

/-- Ticks a die's interval timer has advanced since it was last read (R48); log entry 6. -/
opaque Config.elapsed : Nat → Nat → Nat

/-- Page-tree walks made for one access (R301 lets translations be kept for as long as the module chooses);
log entry 13. -/
opaque Config.freeWalks : Nat → Nat

/-- The host's answer to an ATS Translation Request (R303): none refuses. First argument: the free-value counter.
Log entry 17. -/
opaque Config.atsTranslate : Nat → Nat → Bool → Option Nat

/-- Fused weight of an activity counter of a die, in microwatts a count (R379); log entry 14. -/
opaque Config.weight : Nat → Nat → Nat

/-- Fused leakage model of a die at its VCD, bias code and hottest junction, in W (R379); log entry 14. -/
opaque Config.leakage : Nat → Nat → Int → Int → Nat

/-- Power stage conversion loss at a total load in W and a measured VMAIN in mV (R380); log entry 14. -/
opaque Config.convLoss : Nat → Nat → Nat

/-- Step rate of a compute die at a VCD and a bias code, in millions of steps a second (R39, R382); log entry 14. -/
opaque Config.stepRate : Nat → Nat → Int → Nat

/-- What the part of a die's estimate that is not array work, in W, comes to at another VCD and bias code (R378, R385 predict for
points that are not in force); log entry 14. Arguments: die, VCD in force, the other VCD and bias code, that part. -/
opaque Config.restAt : Nat → Nat → Nat → Int → Nat → Nat

/-- What a value written to CR_CTL asks for (R118 gives the register's uses and no layout): bit 0 halts issue, bit 1
steps once, bits 3:2 choose the slot, bits 9:4 the 4 KiB of its state that CR_STATE shows; log entry 42. -/
opaque Config.crCtl : Word → BitVec 10

/-- What CR_CTL reads: issue halted, single step, slot, page (R118); log entry 42. -/
opaque Config.crCtlRead : Bool → Bool → Nat → Nat → Word

/-- CR_STATUS, which R118 gives no layout: resident context, occupied slots, ready slots, footprint, fenced; log entry 42. -/
opaque Config.crStatus : Nat → Nat → Nat → Nat → Bool → Word

/-- CR_GROUPSn, which R118 gives no layout: the completion-group counters of the slot; log entry 42. -/
opaque Config.crGroups : List Nat → Word

/-- The device identification that IDCODE shifts out (R412 gives no value); log entry 15. -/
opaque Config.idcode : BitVec 32

/-- The SPDM capability flags (R407 gives no value); log entry 15. -/
opaque Config.spdmFlags : BitVec 32

/-- The test certificate that attestation carries in Test (Table 15.5 gives no content); log entry 15. -/
opaque Config.testCertificate : List (BitVec 8)

/-- An index dropped or a value computed where the spec states no value; log entry 16. -/
opaque Config.freeWord : Nat → Nat → Word

/-- The first 16 bytes of the payload of a request or a write: R357 names what they carry and gives it no bits. Arguments: what
is carried. Log entry 19. -/
opaque Config.payloadHead : List Nat → BitVec 128

/-- Codewords that a running link port has corrected, and symbol errors of its eight lanes, eight bits each, since it was last
asked (Table 13.9); arguments: the free-value counter and the port. Log entry 19. -/
opaque Config.corrected : Nat → Nat → Nat
opaque Config.symbolErrors : Nat → Nat → BitVec 64

/-- What fails its check from now on among the things stored, as triples of the source of Table 16.3, a unit and a place
(R316, R424); first argument: the free-value counter. Log entry 50. -/
opaque Config.strikes : Nat → List (Nat × Nat × Nat)

/-- The flash channel, taken modulo 32, that holds a sector (R315 names it; the FTL's placing is hidden, R311);
log entry 18. -/
opaque Config.flashChannel : Nat → Nat

/-- The part of the flash map, by the far channel that holds it, taken modulo 64, in which a sector's entry lies (R296 and
R315 put a share of the map on each far channel, and name no sector's); log entry 18. -/
opaque Config.mapChannel : Nat → Nat

end Sys2Proof
end

