-- ==== Sys2Proof/Machine/State.lean ====
section
/-! DEFINITION. The state of the module as plain data, the reasons a step can stop, and the state after reset. -/

namespace Sys2Proof.Machine

open Sys2Proof

/-- A sparse table: keys strictly rising, an unlisted key holding the table's default.
Registers, cores, contexts and the other units of like things are held so. -/
abbrev Tab (α : Type) := List (Nat × α)

/-- The spec leaves the model no command that stops it with a fault: every fault of a parcel is a next state.
The one constructor is raised by no meaning. -/
inductive Fault where
  /-- An access to an address space the module does not have. Raised by no meaning, so it is safe. -/
  | noSuchSpace
  deriving DecidableEq, Repr

/-- Reasons a command is refused. -/
inductive Refusal where
  /-- The command has no meaning yet. Raised by the dispatch alone; safe, since nothing is claimed of it. -/
  | notModelled (mnemonic : String)
  deriving DecidableEq, Repr

/-- The four tiers of R293. -/
inductive Tier where
  | near | far | host | flash
  deriving DecidableEq, Repr

/-- Something stored that fails its check when it is next read (Table 11.8, R424): the source of Table 16.3, a unit and a
place. Sources 1, 2 and 4: 32 bytes of near, far or host memory, the place counting them; unit 1 stands for an error of near or
far memory that is not attributable to one frame (Table 16.1). 3: a flash sector; 5: a 32-bit word of the cistern of core `unit`; 6: the array of core `unit`; 7: the buffer of the unit of kind `unit`, index `place`. -/
structure Err where
  source : Nat
  unit : Nat
  place : Nat
  deriving DecidableEq, Repr

/-! ### Power, supplies and the keeper -/

/-- Where the module stands in Table 15.1 and Table 15.8: Off; P1 done; P2 done; Deep (P3 done); recovery (R402);
P4 running; P5 done; P7 done; P8 done; P10 done with the headgate closed; Active or Still; entering Drowse; Drowse;
leaving Drowse; entering Deep is one step. -/
inductive Phase where
  | off | romStarted | imageVerified | deep | recovery | charging | converted | locked | computing | initialised
  | active | enteringDrowse | drowse | leavingDrowse
  deriving DecidableEq, Repr

/-- The instruction the JTAG port holds (R412), one of the maker's own included (R410). -/
inductive Jtag where
  | bypass | idcode | sample | extest
  | maker (code : Nat)
  deriving DecidableEq, Repr

/-- Supplies, balls and the standing of the power-up sequence (R17, R22 to R31, R397 to R400, R416 to R421). -/
structure Power where
  phase : Phase
  vaux : Bool              -- VAUX within its range
  vmain : Bool             -- VMAIN above its rising lockout and below overvoltage
  vmainMv : Nat            -- VMAIN as measured, in mV (R380)
  converting : Bool        -- the bus converters run
  vstbFromVint : Bool      -- VSTB is taken from VINT (R17)
  vauxLost : Bool          -- sticky warning of Table 1.7
  inputOpen : Bool         -- the input switch is open after an overvoltage
  perst : Bool             -- PERST# asserted
  ready : Bool             -- READY driven high
  alert : Bool             -- ALERT# driven low (R24); it floats in Deep and Off
  wakeHeld : Bool          -- a wake waits for VMAIN and the condition of R37
  starting : Bool          -- conversion is due: moment C of R397 or R420 follows
  thermalHold : Bool       -- the condition of R37 is unmet since a trip
  coolSince : Option Nat   -- IOD0's ticks since when every sensor has read below its warning level (R37)
  sensors : Tab Int        -- last readings in 0.1 °C, by the index of R35
  rwlLocked : Bool         -- RWL fields are locked (Table 0.4, P11)
  keeperPll : Bool         -- the keeper runs on its 500 MHz clock (R400)
  deriving DecidableEq, Repr

/-- The fuses of R401, R405, R409 and R411. -/
structure Fuses where
  lifecycle : BitVec 3
  stepping : Byte
  serial : Word
  keyDigest : Rec            -- SHA-512 digest of the device identity public key (R405)
  identityKey : Bool         -- the identity key has not been destroyed (R409)
  fwDigest : List Rec        -- four firmware key slots (R401)
  fwRevoked : List Bool
  svnMin : BitVec 6
  debugDigest : Rec          -- Trelsan debug key digest (R411)
  ownerDigest : Option Rec   -- owner debug key digest, written once (R411)
  deriving DecidableEq, Repr

/-- A fence-list entry (R450). -/
structure FenceEntry where
  kind : Nat
  index : Nat
  cause : Nat
  deriving DecidableEq, Repr

/-- An answer of the module to an SPDM, MCTP or PLDM request (R402, R404, R407, R408). -/
inductive Answer where
  | versions (port : SpdmPort) (v : List Nat)
  | capabilities (port : SpdmPort) (flags : W32)
  | algorithms (port : SpdmPort) (version : Nat)
  | digests (port : SpdmPort) (slot : Nat) (digest : Rec)
  | certificate (port : SpdmPort) (slot : Nat) (part : List Byte) (left : Nat)
  | challengeSigned (port : SpdmPort) (nonce : Mix)
  | measurements (port : SpdmPort) (number : Nat) (blocks : List (Nat × List Byte)) (signed : Bool)
  | spdmError (port : SpdmPort)
  | mctp
  | pldm (accepted : Bool)
  | handled (accepted : Bool)
  deriving DecidableEq, Repr

/-- The keeper: its store, its registers of Tables 15.9 to 15.11, debug, JTAG and the sideband (R23, R401 to R412). The store holds
the two images, the certificate chain, the fence list, and as the keeper's records which slot is preferred and what is due of it. -/
structure Keeper where
  slotA : Image
  slotB : Image
  preferB : Bool
  newImage : Bool            -- the slot that is not running holds an image that passed its checks (R404)
  firstStart : Bool          -- the preferred image has not been started yet (R404)
  runB : Bool
  fallback : Bool
  bootFail : BitVec 4
  certChain : List Byte      -- identity certificate chain of slot 0 (R401, R406)
  romDigest : Rec            -- measurement 1
  fenceList : List FenceEntry
  straps : BitVec 3
  address : BitVec 7         -- the address in force, static until assigned (R23)
  dynamicAddr : Bool
  pwrRequest : BitVec 2
  pwrRefused : Bool
  pwrCause : BitVec 4
  deepCause : BitVec 4
  nonce : Mix
  nonceValid : Bool
  token : BitVec 4096
  dbgBusy : Bool
  dbgResult : BitVec 3
  scopes : BitVec 3
  spdmVersion : Nat          -- version settled, 0 before (R407)
  answers : List Answer      -- what has been answered, oldest first
  alerts : Nat               -- sideband alerts raised
  alertHeld : Bool           -- an alert is unacknowledged (R24)
  inBand : Nat               -- alerts signalled by I3C in-band interrupt (R24, R402)
  jtag : Jtag
  boundary : List Bool       -- cells of the boundary chain last captured or driven
  shiftOut : W32             -- what the port's data register captured last: the identification under IDCODE (R412)
  deriving DecidableEq, Repr

/-! ### The host port and the headgate -/

/-- The PCIe configuration space as Table 3.1 has it: sizes in bytes, the size of BAR4 as its log2, and the errors that AER has
noted: a poisoned completion, one that timed out, and a request that the module did not support. -/
structure PciConfig where
  payload : Nat
  readRequest : Nat
  aspmL1 : Bool
  l0p : Bool
  bar4Log2 : Nat             -- 26 to 40 (R57)
  poisoned : Bool
  timedOut : Bool
  unsupported : Bool
  deriving DecidableEq, Repr

/-- The host port: MSI-X messages sent, oldest first, reads answered, and the headgate registers (R54 to R61, R84). -/
structure Headgate where
  linkUp : Bool
  msix : List Nat
  readData : List (List Byte × Bool)   -- BAR4 reads answered: data and EP bit
  snapCtx : BitVec 10
  snapAccepted : Word
  snapExecuted : Word
  snapCompleted : Word
  bar4Ctx : BitVec 10
  bar4Base : Word
  drops : Nat
  held : List Instr          -- accesses held while the module leaves Drowse (R418)
  atsDone : Nat              -- ATS Invalidate Completions sent (R303)
  atsWaiting : List (Nat × Nat)        -- ATS invalidations not yet complete: first byte and bytes (R302, R303)
  cfg : PciConfig
  detect : Bool              -- the port has started Detect, and the headgate is not open yet (R398)
  retries : Nat              -- configuration requests answered with Configuration Request Retry Status (R398)
  generation : Nat           -- PCIe generation, lanes and flit mode of the trained link (R54)
  lanes : Nat
  flitMode : Bool
  deriving DecidableEq, Repr

/-- How far a parcel has come. -/
inductive Progress where
  | waiting | started | recorded
  deriving DecidableEq, Repr

/-- The run header of R111, read at a RUN's start. -/
structure RunHeader where
  saveBase : Nat
  saveStride : Nat
  cisBase : Nat
  cisStride : Nat
  deriving DecidableEq, Repr

/-- An accepted parcel (R64, R66, R78). -/
structure Parcel where
  hostSeq : W32
  first : Nat                -- intake count of its first byte (R82)
  kind : Byte
  quiet : Bool
  irq : Bool
  serial : Bool
  payload : List Byte
  acceptedAt : Nat           -- IOD0's timer at acceptance (R77)
  progress : Progress
  failure : Option Nat       -- first failure's status code (R78)
  address : Word             -- address field of the record
  dropped : Nat
  nonfinite : Bool
  fallback : Bool
  capped : Bool              -- the cap stood unattainable during the parcel (R388)
  replayed : Bool            -- re-executed by an automatic replay (R444)
  silent : Bool              -- its record was written before: it writes no second one (R444)
  again : Bool               -- it had finished before, and runs again in a replay (R444)
  claimed : Option W32       -- the ABORT that claimed it (R88)
  sample : List Byte         -- the result of a QUERY, sampled at acceptance (R72)
  header : Option RunHeader
  unplaced : List Nat        -- ordinals of a RUN that wait for a core (R456)
  running : Nat              -- tasks of a RUN not yet halted
  pastEntry : Bool           -- some task has executed past ENTRY (R116)
  entriesDone : Nat          -- move entries taken (R286)
  placeless : Bool           -- accepted behind a full queue for an ABORT: it holds no place (R65)
  deriving DecidableEq, Repr

/-- A completion record waiting for ring space (R75, R77). -/
structure QRecord where
  status : Nat
  hostSeq : W32
  kind : Byte
  dropped : Bool
  nonfinite : Bool
  fallback : Bool
  address : Word
  irq : Bool
  since : Nat                -- IOD0's timer at acceptance or arrival
  ofParcel : Bool            -- the record finishes an accepted parcel
  deriving DecidableEq, Repr

/-- An ABORT that is running (R85, R88). -/
structure AbortRun where
  hostSeq : W32
  quiet : Bool
  irq : Bool
  since : Nat
  begun : Bool
  claimed : List (W32 × Byte)
  deriving DecidableEq, Repr

/-- Whether a context is closed, open, aborting or resetting (Table 3.14). -/
inductive CtxPhase where
  | closed | opened | aborting | resetting
  deriving DecidableEq, Repr

/-- Why the intake of a context is halted (R63). -/
inductive Halt where
  | none | misplaced | overrun | length
  deriving DecidableEq, Repr

/-- The fault record of a context (Tables 3.21 and 3.22). -/
structure FaultRec where
  valid : Bool
  address : Word
  pc : Word
  access : BitVec 3
  cause : BitVec 4
  core : BitVec 9
  slot : BitVec 2
  noTask : Bool
  hostSeq : W32
  more : Nat
  deriving DecidableEq, Repr

/-- The CT_ registers of one context that hold configuration and sequence (Tables 3.13 to 3.20, 3.23). -/
structure CtRegs where
  enable : Bool
  level : BitVec 2
  irqOnError : Bool
  openRefused : Bool
  consumedRefused : Bool
  ringBase : Word
  log2Entries : BitVec 5
  ringAts : Bool
  recordVersion : BitVec 2
  consumed : W32
  lastAccepted : W32
  executed : W32
  lastWritten : W32
  answered : W32
  tail : W32
  head : W32
  ptRoot : Word
  holdTicks : BitVec 16
  leaseTicks : W32
  duplicates : Nat
  gaps : Nat
  discarded : Nat
  halts : Nat
  sat : Nat
  nonfinite : Nat
  deriving DecidableEq, Repr

/-- DG_C_STATE of a context (Table 16.9). -/
inductive SealState where
  | none | sealed | lapsed | dirty | replaying | sealing
  deriving DecidableEq, Repr

/-- A frame of a context's seal: its device virtual and tier address and, once copied, its snapshot slot (R435, R438). -/
structure SealFrame where
  tier : Tier
  frame : Nat
  va : Nat
  slot : Option Nat
  deriving DecidableEq, Repr

/-- A ledger entry in the headgate's own keeping, as it stands in the ledger (R441). -/
structure LedgerParcel where
  hostSeq : W32
  kind : Byte
  payload : List Byte
  endUnit : Nat                  -- ledger units in use after its entry
  irq : Bool
  recorded : Bool                -- its record has been written (R444)
  deriving DecidableEq, Repr

/-- A kind 2 entry of the ledger (R441). -/
structure LedgerKeys where
  hostSeq : W32
  task : Nat
  shuffle : Word
  sampling : Word
  endUnit : Nat
  deriving DecidableEq, Repr

/-- The seal of a context (R433 to R447). -/
structure SealCtx where
  state : SealState
  generation : Byte
  attempts : Nat
  step : W32
  record : Word
  snap : Nat
  snapFrames : Nat
  index : Nat
  ledger : Nat
  ledgerUnits : Nat
  frames : List SealFrame
  copied : Nat
  used : Nat                     -- ledger units used
  parcels : List LedgerParcel
  skeys : List LedgerKeys        -- kind 2 entries since the commit
  skeysLeft : List LedgerKeys    -- those that a re-execution has still to meet
  dirty : Bool                   -- the current step is dirty, and what follows has not been done (R424, R443)
  noReplay : Bool                -- it is dirty with an error that R442 shuts out of a replay
  inReplay : Bool                -- an automatic replay is under way (R443)
  toReplay : List LedgerParcel   -- parcels a replay still has to run
  restored : Nat                 -- frames that the latest restore checked or copied back
  treeReleased : Bool            -- a tree-port slot of the context released since the seal (R442)
  roundClosed : Bool             -- a round with members above 1 that the step opened has closed (R284)
  wrote : List (Tier × Nat)      -- 64 KiB frames that the step has written (R424)
  deriving DecidableEq, Repr

/-- The loss-spike detector (R241). -/
structure Detector where
  count : BitVec 16
  mean : W32
  var : W32
  deriving DecidableEq, Repr

/-- One hardware context. -/
structure Ctx where
  phase : CtxPhase
  halt : Halt
  regs : CtRegs
  fault : FaultRec
  intake : List Byte             -- bytes from the intake head on
  arrivals : List (Nat × Nat)    -- bytes of each write from the intake head on, with IOD0's timer at its arrival
  parcels : List Parcel          -- accepted and not yet finished, in host order
  aborts : List AbortRun
  records : List QRecord
  shuffleKey : Word
  samplingKey : Word
  det : Detector
  sealed : SealCtx
  deriving DecidableEq, Repr

/-! ### Cores and tasks -/

/-- Why a task does not issue (R89, R327, R331, R339, R437). -/
inductive Status where
  | ready | waitHeld | waitDesched | arriveHeld | arriveDesched | poolFull | storeHeld | remoteWait
  | haltPending | dataError
  deriving DecidableEq, Repr

/-- The logical lane counts an ENTRY may declare (R97): 64, 32 or 16. -/
inductive Lanes where
  | l64 | l32 | l16
  deriving DecidableEq, Repr

/-- The state of one task slot (Table 4.2) and its identity. -/
structure Task where
  ctx : Nat
  hostSeq : W32
  taskIndex : Nat
  ordinal : Nat
  pc : Word
  entered : Bool
  level : BitVec 4
  width : Lanes                  -- logical lane count L (R98)
  footprint : Nat
  step : W32
  status : Status
  waitTally : Nat
  sregs : Tab Word
  vregs : Tab W32                -- lane l of v at 64 * v + l
  preds : Tab Word
  tiles : Tab W32                -- element (r, c) of tile t at 4096 * t + 256 * r + c
  descs : Tab Rec
  keySeed : Word
  keyStream : BitVec 40
  rng : Tab Mix
  rngFree : Nat                  -- the model's own: free value that stands for the running states before RINIT (R92)
  groups : Tab Nat
  deriving DecidableEq, Repr

/-- One core beside its task slots. -/
structure Core where
  cistern : List Host.Cell
  footprint : Option Nat
  mark : Option (Fin 6)          -- the phase of R253, none while unmarked
  fenced : Bool
  halted : Bool                  -- CR_CTL halts issue (R118)
  window : Nat                   -- slot shown in CR_STATE (R118)
  stepOne : Bool                 -- CR_CTL single-steps the chosen slot (R118)
  page : Nat                     -- 4 KiB of the slot's state shown in CR_STATE (R118)
  token : Bool                   -- the core holds a pacer token (R42)
  saving : Bool                  -- a save drains the core, and its tasks issue no more (R113)
  mxmQueue : List Nat            -- unfinished MXMs in issue order (R204)
  order : List Nat               -- the slots, the one that issued least recently first (R89)
  yields : BitVec 4              -- slots that a YIELD keeps out of the current issue round (R89, Table 4.16)
  stalled : BitVec 4             -- the model's own: slots whose next instruction is not ready, free values (R89, log entry 20)
  rounds : Nat                   -- the model's own: index of the next of those free values
  issues : Nat                   -- scalar and vector instructions issued (R379)
  deriving DecidableEq, Repr

/-- A saved core ordinal (R110 to R115). -/
structure SavedOrdinal where
  ctx : Nat
  hostSeq : W32
  ordinal : Nat
  core : Nat
  footprint : Nat
  tasks : List (Nat × Task × Bool)   -- slot, image, granted
  atOnce : Bool
  deriving DecidableEq, Repr

/-! ### Asynchronous work -/

/-- What a detected error is reported with: its source (Table 16.3), the unit, the die that finds it, the device virtual
and the tier address. -/
structure DataErr where
  source : Nat
  kind : Nat
  index : Nat
  die : Nat
  va : Nat
  tier : Option (Tier × Nat)
  deriving DecidableEq, Repr

/-- A lookup whose position has not been bound: its record, its row, and the row's window address (R276). -/
structure Lookup where
  record : Nat
  row : Nat
  va : Nat
  deriving DecidableEq, Repr

/-- A position of a GATHER or row of a prefetch position not yet decided (R170, R308). -/
structure Position where
  index : Nat
  dst : Nat
  dstLocal : Bool
  bytes : List Byte              -- the row as it is delivered
  row : Nat                      -- index of the row, for its fallback
  tag : Nat
  off : Nat                      -- part of a remote row that is taken: offset and bytes
  len : Nat
  unit : Nat                     -- engine that carries it
  nonfin : Nat                   -- elements that widening made infinite (R238)
  home : Nat                     -- home that a lookup is bound to, 0 for none (R276)
  src : List (Tier × Nat × Nat)  -- what its row is read from: tier, address and bytes of each piece
  issued : Bool                  -- the read is outstanding; it waits while a bound of Table 6.1 is met (R156)
  slots : List (Tier × Nat × Nat)   -- what its own read takes of the engine's outstanding ones: nothing where it shares a tile's
  share : Nat                    -- tag of the position whose read brings its tile, 0 where that is its own (R169)
  bad : Option DataErr           -- the detected error that its tile met as it was opened (R172)
  lookup : Option Lookup         -- the row to bind as the read goes out (R276)
  ats : List (Nat × Nat)         -- host ranges under ATS that its read uses (R303)
  deriving DecidableEq, Repr

/-- A prefetch position that has started: its number, the rows still undecided, its entry, the rows that fell back (R306 to
R308). -/
structure PfPosition where
  pos : Nat
  left : Nat
  entry : Nat
  late : List Nat
  written : Bool                 -- its valid bitmap has been written, and its SIGNAL waits for the release (R107, R307)
  deriving DecidableEq, Repr

/-- Bytes of a tier before a write replaced them (R120). -/
structure Before where
  tier : Tier
  addr : Nat
  bytes : Nat
  cells : List Host.Cell
  deriving DecidableEq, Repr

/-- What is left to do of an asynchronous instruction when it finishes (R165, R171, R309). -/
structure AsyncOp where
  id : Nat
  who : Who
  ctx : Nat
  hostSeq : W32
  group : Nat
  name : String
  tile : Option Nat
  deadline : Nat
  fallback : Nat
  openPos : List Position
  valid : List Bool              -- GATHER: valid bitmap
  validAddr : Nat
  report : Nat
  dropped : Nat
  lates : Nat
  desc : Rec
  nextPos : Nat                  -- prefetch: first position not started
  cut : Bool
  needs : List Nat               -- prefetch: positions whose need has begun (R308)
  posOpen : List PfPosition      -- prefetch: positions started and not yet announced
  reads : List (Option Tier × Nat × Nat)   -- MXM: ranges it reads, in its core's cistern or in a tier (R203)
  spoiled : Bool                 -- a write reached one of them, or what it watches, before its finish
  outs : List (Bool × Nat × Nat) -- ranges its results take, in the cistern or device memory, where a write can spoil them
  watch : List (Nat × Nat)       -- device ranges that no write may reach until its finish (R120, R266)
  binds : List (Nat × List Byte) -- stash records as they stood at its issue: address and bytes (R264)
  uses : List (Nat × Nat)        -- device ranges that it has translated (R302)
  bound : List (Nat × Nat)       -- of those in stash windows: the ranges, their records and the storage they lead to (R264, R302)
  ats : List (Nat × Nat)         -- host ranges under ATS that it has translated (R303)
  data : List Byte               -- SCOPY of a mask: its source as it is gathered from other modules
  place : Nat                    -- its place in its group: the group's counter once it had joined (R106)
  minor : Nat                    -- MXM: its minor class, and its array steps while none has started (R379, R390)
  steps : Nat
  cells : List Nat               -- MXM: per row of its tile, the columns that hold its result, as bits (R203)
  reach : List Nat               -- MXM, tile move: per row of its tile, the columns not written anew since its issue, as bits (R217)
  key : Word                     -- SAMPLE: the sampling key at its issue (R129)
  before : List Before           -- SAMPLE: what other writes have replaced since its issue, the oldest first (R120)
  deriving DecidableEq, Repr

/-- What a tag stands for (R61, R87, R158, R276, R362). -/
inductive TagUse where
  | engine (op unit : Nat) (src : List (Tier × Nat × Nat))
  | remoteLoad (t : Who) (rd : Nat) (width off : Nat)
  | remoteStore (t : Who)
  | remoteRow (op : Nat)
  | write (op : Nat)
  | withdraw (owner : Nat)
  | bar4 (off len : Nat)
  deriving DecidableEq, Repr

/-- An outstanding tag. -/
structure Tag where
  tag : Nat
  ctx : Nat
  hostSeq : W32
  use : TagUse
  window : Word
  abandoned : Bool
  deriving DecidableEq, Repr

/-! ### Tallies and barriers -/

/-- A waiter entry (Table 12.4). `pf` is the prefetch schedule and position that waits, if it is one (R307). -/
structure Waiter where
  who : Who
  ctx : Nat
  hostSeq : W32
  task : Nat                     -- index of the task in its parcel
  saved : Bool
  held : Bool
  pf : Option Nat
  deriving DecidableEq, Repr

/-- A tally: the word of Table 12.1 with its queue and the debug fields (R320, R345). -/
structure Tally where
  count : Nat
  owner : Nat
  owned : Bool
  poisoned : Bool
  sigCore : BitVec 9
  sigSlot : BitVec 2
  sigCtx : BitVec 10
  sigSeq : W32
  sigHost : W32
  byHand : Bool
  lease : Bool
  sigTask : Option Nat           -- index, in its parcel, of the task that signalled last: the owning task (R321)
  queue : List Waiter
  deriving DecidableEq, Repr

/-- A sync operation on its way to its tally unit (R319, R322, R323, R325). -/
inductive SyncKind where
  | wait | signal (n : Nat) | signalAll
  deriving DecidableEq, Repr

/-- One such operation with its issuer. -/
structure SyncMsg where
  kind : SyncKind
  tally : Nat
  who : Who
  ctx : Nat
  hostSeq : W32
  pf : Option Nat
  task : Nat                     -- index of the issuing task in its parcel
  pc : Word                      -- address of the instruction
  stalled : Bool                 -- a schedule's WAIT that has found the pool full (R331)
  deriving DecidableEq, Repr

/-- A grant or release on its way to a wake line (R327). -/
structure Grant where
  who : Who
  ctx : Nat
  hostSeq : W32
  task : Nat                     -- index of the task in its parcel
  pf : Option Nat
  ofTally : Bool                 -- a tally's grant, not a check slot's release
  src : Nat                      -- die that sends it (R20)
  deriving DecidableEq, Repr

/-- The TL_ registers (Tables 12.3 and 12.5). -/
structure TallyRegs where
  sel : BitVec 16
  selWord : Word
  selLast : Word
  selWaiters : Nat
  selByHand : Bool
  selLease : Bool
  selQueue : List Waiter
  setTally : BitVec 16
  setOp : Bool
  setValue : BitVec 16
  setRefused : Bool
  setBusy : Bool                 -- TL_SET.busy
  resetFirst : BitVec 16
  resetCountM1 : BitVec 16
  resetBusy : Bool               -- TL_RESET.busy
  resetNext : Nat                -- while it is busy: the tally that is reset next, and how many are left (R336)
  resetLeft : Nat
  poolFull : Tab Nat
  lostGrants : Nat
  ownerLost : Nat
  poisons : Nat
  broken : Nat
  desched : Nat
  deriving DecidableEq, Repr

/-- Where a check slot stands in R340 (Table 12.6), and whether its own conditions of the wave are met. -/
inductive SlotState where
  | counting | waitParent | closing | waitRelease2 | broken
  deriving DecidableEq, Repr

/-- A check slot (Table 12.6, R338 to R342, R371). -/
structure CheckSlot where
  group : W32
  ctx : BitVec 10
  merge : Bool
  children : W32
  parent : BitVec 5
  hasParent : Bool
  home : BitVec 3
  expected : BitVec 12
  arrived : Nat                  -- counted at the home node in the current generation
  ahead : Nat                    -- counted there toward the next (R341)
  pendingDie : List (Who × W32)  -- arrivals counted at their dies and not yet sent, oldest first
  childrenDone : Nat
  generation : Nat
  state : SlotState
  completions : Nat
  bound : Bool
  refused : Bool
  heldNow : List (Who × W32)     -- tasks that count toward the current generation
  heldNext : List (Who × W32)    -- tasks that count toward the next (R341)
  pace : Bool                    -- a pace notice makes the hold window zero (R371)
  sentComplete : Bool            -- complete has been sent for the current generation
  deriving DecidableEq, Repr

/-! ### Links -/

/-- A flit in the model's own terms: what its kind carries (Table 13.5). -/
inductive Payload where
  | request (record : Word) (row spanLog2 : Nat)
  | reply (status : BitVec 4) (data : List Byte)
  | contribution (record : Word) (row rank : Nat) (values : List Byte)
  | directWrite (record : Word) (row offset : Nat) (data : List Byte)
  | withdrawal (record : Word) (rank : Nat)
  | check (group gen : W32) (wave : BitVec 3)
  | pace (group : W32) (level duration : Nat)
  deriving DecidableEq, Repr

/-- A flit to be sent (Table 13.3). -/
structure Flit where
  cls : Nat
  vc : Bool
  dst : W32
  src : W32
  tag : BitVec 16
  context : Nat
  payload : Payload
  part : Nat                     -- which of its message's flits it is, from 0
  ack : BitVec 12                -- ack_seq of its trailer, as it was last sent (R356)
  held : Option (Nat × Nat)      -- in transit: port and channel of arrival, whose buffer place it keeps (R363)
  deriving DecidableEq, Repr

/-- States of a port (Table 13.2 and Table 13.9). -/
inductive PortState where
  | down | detect | train | negotiate | align | active | retrain | fenced
  deriving DecidableEq, Repr

/-- One link port (Table 13.9, R352 to R363). -/
structure Port where
  enable : Bool
  allowUl1 : Bool
  allowUl2 : Bool
  allowHalf : Bool
  state : PortState
  version : Nat
  half : Bool
  upper : Bool
  downCause : Nat
  peerAddr : W32
  peerPort : BitVec 5
  peerValid : Bool
  peerVersions : BitVec 2
  peerHalf : Bool
  trainedUl2 : Bool              -- Train runs again at the UL2 rate
  trainFails : Nat
  retrains3 : List Nat           -- ticks of the retrains that count toward the budget of R361
  txSeq : BitVec 12
  rxNext : BitVec 12
  nakSent : Bool
  got : Tab Nat                  -- by channel: flits received of a message that is not complete
  replay : List (BitVec 12 × Flit × Nat)   -- unacknowledged flits with their sends (R359, R361)
  waiting : List Flit
  credits : Tab Nat
  lastVc : BitVec 4              -- bit c: vc of the last flit of class c that was sent (R363)
  control : List (Nat × Nat)     -- control flits sent: subtype and its number
  lanesErr : Tab Nat
  tx : Nat
  rx : Nat
  fecCorr : Nat
  fecUncorr : Nat
  crcFail : Nat
  replayed : Nat
  retrained : Nat
  badFlit : Nat
  lost : Nat
  paceRx : Nat
  deriving DecidableEq, Repr

/-- The link unit (Table 13.8, R364 to R366). -/
structure Links where
  ports : Tab Port
  modAddr : W32
  route : Word
  portMap0 : Word
  portMap1 : Word
  unroutable : Nat
  transit : Nat
  paceTx : Nat
  stopped : List Nat             -- bundles (2 * dimension + minus) that wait to resume (R365)
  queued : List (Nat × Flit)     -- messages that wait for their bundle to resume, each by its first flit
  toSelf : List Flit             -- messages of this module to itself, which it delivers (R364)
  deriving DecidableEq, Repr

/-! ### Merge unit, memory tiers, samplers and engines -/

/-- An open round (Table 10.9). -/
structure Round where
  record : Word
  ctx : Nat
  isOpen : Bool
  logged : Nat
  rounds : Nat
  deriving DecidableEq, Repr

/-- The phase of a move (Table 10.7): before its commit, after it, or taken back by an ABORT or reset (R288). -/
inductive MovePhase where
  | copying | draining | reverted
  deriving DecidableEq, Repr

/-- A direct write that waits for its row to have moved (R279, R287): its place in the row, and who is told of its end. -/
structure QueuedWrite where
  off : Nat
  bytes : List Byte
  va : Nat                       -- window address of the row
  hostSeq : Option W32           -- the writing parcel of this module, and its task
  who : Option Who
  head : Option FlitHead         -- the flit of another module that waits for its reply
  deriving DecidableEq, Repr

/-- A row on the move (R286, R287). -/
structure Move where
  id : Nat
  ctx : Nat
  hostSeq : W32
  record : Word
  row : Nat
  entry : Nat                    -- device virtual address of the hot-set entry
  source : Option Nat            -- home it leaves; none for an install of a row without one
  target : Option Nat            -- home it goes to; none for an evict that discards
  evict : Bool
  install : Bool
  init : Bool                    -- an install filled with zeros, whatever the cold home holds (Table 10.5)
  epoch : Nat
  result : Nat                   -- address of its result, 0 for none
  phase : MovePhase
  aborted : Bool
  writes : List QueuedWrite          -- direct writes queued, oldest first
  updates : List (List W32)          -- held round-close updates: FP32 sums
  before : List Byte                 -- the hot-set entry as it was before the move (R288)
  deriving DecidableEq, Repr

/-- The merge unit (Tables 10.8 and 10.9). -/
structure Merge where
  fenced : BitVec 2
  dropInvalid : Nat
  dropMissing : Nat
  remote : Nat
  contrib : Nat
  repeats : Nat
  refused : Nat
  withdrawn : Nat
  applied : Nat
  deferred : Nat
  migrated : Nat
  forwarded : Nat
  metaCount : Nat
  metaAddr : Word
  rounds : Tab Round
  remoteRounds : List (Nat × Word × Nat × Nat)   -- rounds opened elsewhere: context, record, owner's address and context
  moves : List Move
  nextMove : Nat
  seen : List (Nat × Nat)        -- contexts with the records that they have used (R282)
  deriving DecidableEq, Repr

/-- The registers that describe a command of an ingest slot (Table 11.11). -/
structure IngestCmd where
  op : Bool
  context : BitVec 10
  src : Word
  fla : Nat
  len : Nat
  deriving DecidableEq, Repr

/-- An ingest slot (Table 11.11): its registers, and the command that its latest go write took from them. -/
structure Ingest where
  regs : IngestCmd
  cmd : IngestCmd
  state : BitVec 2
  code : BitVec 6
  sectors : Nat
  order : Nat                    -- place of its go write among all (R312)
  deriving DecidableEq, Repr

/-- The memory-tier registers (Tables 11.9 to 11.11). -/
structure MemTier where
  fenceFar : Word
  fenceFlash : W32
  fenceNear : Tab Word
  framesNear : List Nat          -- near frames fenced singly
  framesFar : List Nat
  mapFence : BitVec 64           -- far channels whose map part is lost (R315)
  invalCtx : BitVec 10
  invalSize : BitVec 6
  invalBusy : Bool
  invalBase : Word
  walks : Nat
  atsRefused : Nat
  detNear : Nat
  detFar : Nat
  detFlash : Nat
  detHost : Nat
  pfEntries : Nat
  pfLate : Nat
  pfCut : Nat
  mapReady : Bool
  rebuilding : Bool
  wear : Nat
  capSectors : Nat
  reserve : Nat
  reloc : Nat
  refresh : Nat
  grown : Nat
  factory : Nat
  bg : Nat
  ingest : Tab Ingest
  ingestGo : Nat                 -- go writes taken
  placed : Tab Nat               -- sectors ingested after their channel was fenced, with their new channel (R315)
  badSectors : List Nat          -- sectors unreadable until written again (R317)
  retired : List (Nat × Nat)     -- retired blocks: channel and block
  deriving DecidableEq, Repr

/-- The sampler registers (Tables 5.13 to 5.16). -/
structure Samplers where
  fenced : W32
  snDefault : BitVec 6
  metaCount : Nat
  metaAddr : Word
  metaCheck : BitVec 4
  metaCtx : BitVec 10
  metaUnit : BitVec 5
  edges : Tab Nat
  rows : Tab Nat
  feistel : Tab Nat
  starve : Tab Nat
  deriving DecidableEq, Repr

/-- The sluice registers (Tables 6.15 to 6.18). -/
structure Sluice where
  fenced : Word
  fencedIo : Byte
  decompFenced : BitVec 2
  metaCount : Nat
  metaAddr : Word
  metaCheck : BitVec 4
  metaCtx : BitVec 10
  metaUnit : BitVec 7
  dropped : Nat
  fallback : Nat
  dense : Nat
  dxOut0 : Nat
  dxOut1 : Nat
  rows : Tab Nat
  late : Tab Nat
  expired : Tab Nat
  starve : Tab Nat
  deriving DecidableEq, Repr

/-! ### Power control -/

/-- An operating point (Table 14.2). -/
structure OpPoint where
  vcd : Nat
  vcs : Nat
  bias : Int
  assist : Nat
  minIndex : Nat
  minRate : Nat
  typRate : Nat
  deriving DecidableEq, Repr

/-- One die: its timer, its weir registers (Table 14.8) and droop state (R48, R376 to R394). -/
structure Die where
  ticks : Nat
  points : List OpPoint
  nominal : Nat
  lowestFixed : Nat
  fixedOk : Bool
  point : Nat
  target : Nat
  vcd : Nat
  vcs : Nat
  bias : Int
  assist : Nat
  index : Nat
  capIndex : Nat
  thermal : Nat
  droop : BitVec 4
  estimate : Nat
  budget : Nat
  allowance : Nat
  slewing : Bool
  pacerMiss : Nat
  shelf : Nat
  droops : Nat
  dipQuadrant : BitVec 2
  dipDepth : Byte
  dipDuration : W32
  dipValid : Bool
  throttled : Nat
  fixed : Bool                   -- fixed-rate mode is in force on this die (R393)
  acts : Tab Nat                 -- array steps of the interval, by minor class (R379)
  seen : Tab Nat                 -- the other activity counters as the last estimate found them (R379)
  dynamic : Nat                  -- the last estimate without its static term, and its array work alone, in W (R380, R382)
  arrayPart : Nat
  mostUsed : Nat                 -- the class most used in the last interval, FP8 if none (R382)
  lastFloor : Nat                -- F and D of R385 as the governor last formed them
  lastFull : Nat
  paceHigh : Nat                 -- intervals in a row at or above the threshold
  paceLow : Nat
  pacing : Bool
  resetting : Bool
  up : Bool                      -- the die's domain is powered
  deriving DecidableEq, Repr

/-- The module's weir registers (Table 14.7). -/
structure Weir where
  fixedRate : Bool
  boost : Bool
  pace : Bool
  fixedActive : Bool
  fixedRefused : Bool
  capHost : Nat
  capSideband : Nat
  capEffective : Nat
  estimate : Nat
  floor : Nat
  unattainable : Bool
  phases : List Nat              -- unmarked, sample, gather, forward, backward, optimise, seal, idle
  boostMax : Nat
  threshold : Nat
  paceTicks : W32
  energy : Nat                   -- in µJ; WR_ENERGY shows whole mJ
  unattain : Nat
  dips : Nat
  gain : Nat
  trimSum : Nat
  trimDyn : Nat                  -- of that sum, what the gain scales
  trimCount : Nat
  deriving DecidableEq, Repr

/-! ### Spill log, fences, digest unit -/

/-- A spill-log record (Table 16.2). -/
structure Spill where
  cls : Nat
  die : Nat
  severity : Nat
  kind : Nat
  index : Nat
  context : Option Nat
  hostSeq : W32
  count : Nat
  step : W32
  first : Nat
  last : Nat
  address : Word
  detail0 : Word
  detail1 : Word
  deriving DecidableEq, Repr

/-- The error log: the EL_ registers and the staging buffers (R427 to R432, Table 16.8). -/
structure ErrLog where
  irq : Bool
  failed : Bool
  failCause : Nat
  head : W32
  tail : W32
  ringLost : Nat
  page : Byte
  overflow : Tab Nat
  classes : Tab Nat
  first : Option Spill
  last : Option Spill
  staging : Tab (List Spill)
  ringHome : Tab Nat             -- part c lies in the keeper area of this channel (R431)
  deriving DecidableEq, Repr

/-- Fencing and BIST (R448 to R453). -/
structure Fencing where
  charges : List (Nat × Nat × Nat)   -- kind, index, DG_STEPS at arrival
  fenceKind : Byte
  fenceIndex : W32
  fenceRefused : Bool
  waiting : List (Nat × Nat × Nat)   -- fences that wait for a core to be emptied: kind, index, cause
  bistKind : Byte
  bistIndex : W32
  bistBusy : Bool
  testKind : Nat                 -- the unit under test (R452)
  testIndex : Nat
  bistResult : BitVec 2
  ucie : Tab Nat                 -- 0 full width, 1 lower half, 2 upper half, 3 fenced whole
  pllBad : Tab Nat               -- failed lock attempts of a domain that has lost lock
  deriving DecidableEq, Repr

/-- A page of device memory that an unfinished parcel has written: an ABORT leaves it undefined (R88). -/
structure Touched where
  ctx : Nat
  hostSeq : W32
  tier : Tier
  frame : Nat
  deriving DecidableEq, Repr

/-- A write held for a first-touch copy (R437). -/
structure HeldWrite where
  tier : Tier
  frame : Nat
  addr : Nat
  bytes : Nat
  cells : List Host.Cell
  ctx : Nat
  hostSeq : Option W32
  who : Option Who
  op : Option Nat                -- the asynchronous instruction that writes, if one does
  deriving DecidableEq, Repr

/-- The digest unit's module registers (Table 16.9). -/
structure Digest where
  steps : Nat
  fenced : Byte
  copies : Nat
  restored : Nat
  replays : Nat
  fatal : Nat
  mismatch : Nat
  lapses : Nat
  held : List HeldWrite
  deriving DecidableEq, Repr

/-- The memories of the four tiers (R295). -/
structure Mem where
  near : List Host.Cell
  far : List Host.Cell
  host : List Host.Cell
  flash : List Host.Cell
  deriving DecidableEq, Repr

/-- The module. -/
structure State where
  pending : List Instr           -- commands waiting, first in, first out
  freeCount : Nat                -- the model's own: index of the next free value
  power : Power
  fuses : Fuses
  keeper : Keeper
  hg : Headgate
  ctxs : Tab Ctx
  tasks : Tab Task               -- task of core c, slot k at 4 * c + k
  cores : Tab Core
  saved : List SavedOrdinal
  ops : List AsyncOp
  loose : List AsyncOp           -- finished MXMs that no CWAIT has covered yet (R203)
  nextOp : Nat
  tags : List Tag
  nextTag : Nat
  mem : Mem
  tallies : Tab Tally
  tl : TallyRegs
  inflight : List SyncMsg
  grants : List Grant
  slots : Tab CheckSlot
  links : Links
  merge : Merge
  mt : MemTier
  sm : Samplers
  sl : Sluice
  dies : Tab Die
  weir : Weir
  log : ErrLog
  fence : Fencing
  dg : Digest
  errs : List Err                -- what fails its check (R316, R424)
  touched : List Touched         -- pages that unfinished parcels have written (R88)
  deriving DecidableEq, Repr

/-! ### Reset values -/

/-- The operating points of a typical part (Table 14.3); min_rate is 82 % of typ_rate, which gives the two figures
the chapter states (DESIGN CHOICE, log entry 4). -/
def OpPoint.typical : List OpPoint :=
  [⟨550, 700, 3, 7, 0, 303, 370⟩, ⟨570, 700, 3, 6, 0, 360, 440⟩, ⟨590, 700, 3, 5, 0, 418, 510⟩,
   ⟨610, 700, 3, 5, 0, 475, 580⟩, ⟨630, 700, 2, 4, 0, 533, 650⟩, ⟨650, 700, 2, 3, 0, 590, 720⟩,
   ⟨670, 700, 2, 2, 0, 647, 790⟩, ⟨690, 700, 2, 1, 0, 705, 860⟩, ⟨710, 710, 1, 0, 0, 762, 930⟩,
   ⟨730, 730, 1, 0, 0, 811, 990⟩, ⟨750, 750, 1, 0, 0, 861, 1050⟩, ⟨770, 770, 0, 0, 0, 910, 1110⟩,
   ⟨800, 800, 0, 0, 0, 980, 1200⟩, ⟨830, 830, 0, 0, 0, 1060, 1260⟩, ⟨860, 860, -1, 0, 4, 1110, 1320⟩,
   ⟨900, 900, -1, 0, 8, 1180, 1400⟩]

/-- The first byte of a SHA-512 digest is its lowest: those of a zero byte, and of 132. -/
def factoryBodyDigest : Rec :=
  0xee1069e3f03884c3e5d457253423844a323c29eb4cde70630b58c3712a804a70221d35d9506e242c9414ff192e283dd6caa4eff86a457baf93d68189024d24b8
def factoryKeyDigest : Rec :=
  0xa094f78474a95c5f5f759c6d25e98b04e7c626209b9f4109594916ec5cc156bdac8c708213e41b36bd651b99b9f76e54c57c423145ac4f8ffc1fbb4732f891a1

/-- A keeper image that passes every check of R402 (DESIGN CHOICE, log entry 4): its body is one zero byte, its key zero. -/
def Image.factory : Image :=
  { magic := 0x464B5A43, version := 2, keyIndex := 0, svn := 0, reserved := 0, length := 1, fwVersion := 0
    digest := factoryBodyDigest, signature := 0, publicKey := 0, tail := 0, body := [0], sigOk := true }

def Power.reset : Power :=
  ⟨.off, false, false, 0, false, false, false, false, true, false, false, false, false, false, none, [], false, false⟩

def Fuses.reset : Fuses :=
  ⟨2, 0, 0, 0, true, [factoryKeyDigest, 0, 0, 0], [false, false, false, false], 0, 0, none⟩

def Keeper.reset : Keeper :=
  { slotA := Image.factory, slotB := Image.factory, preferB := false, newImage := false, firstStart := false, runB := false, fallback := false,
    bootFail := 0, certChain := [], romDigest := 0, fenceList := [], straps := 0, address := 0x58, dynamicAddr := false,
    pwrRequest := 0, pwrRefused := false, pwrCause := 0, deepCause := 0, nonce := 0, nonceValid := false,
    token := 0, dbgBusy := false, dbgResult := 0, scopes := 0, spdmVersion := 0, answers := [], alerts := 0,
    alertHeld := false, inBand := 0,
    jtag := .bypass, boundary := [], shiftOut := 0 }

/-- PCIe's own defaults for the two sizes (PRESUMED, log entry 52); BAR4 at 256 MiB (R57). -/
def PciConfig.reset : PciConfig := ⟨128, 512, false, false, 28, false, false, false⟩

def Headgate.reset : Headgate :=
  ⟨false, [], [], 0, 0, 0, 0, 0, 0, 0, [], 0, [], PciConfig.reset, false, 0, 1, 16, false⟩

def FaultRec.reset : FaultRec := ⟨false, 0, 0, 0, 0, 0, 0, false, 0, 0⟩

/-- Reset values of Tables 3.13 to 3.23. -/
def CtRegs.reset : CtRegs :=
  { enable := false, level := 0, irqOnError := false, openRefused := false, consumedRefused := false,
    ringBase := 0, log2Entries := 0, ringAts := false, recordVersion := 0, consumed := 0, lastAccepted := 0,
    executed := 0, lastWritten := 0, answered := 0, tail := 0, head := 0, ptRoot := 0, holdTicks := 200,
    leaseTicks := 100000, duplicates := 0, gaps := 0, discarded := 0, halts := 0, sat := 0, nonfinite := 0 }

def SealCtx.reset : SealCtx :=
  { state := .none, generation := 0, attempts := 0, step := 0, record := 0, snap := 0, snapFrames := 0, index := 0,
    ledger := 0, ledgerUnits := 0, frames := [], copied := 0, used := 0, parcels := [], skeys := [], skeysLeft := [],
    dirty := false, noReplay := false, inReplay := false,
    toReplay := [], restored := 0, treeReleased := false, roundClosed := false, wrote := [] }

def Ctx.reset : Ctx :=
  { phase := .closed, halt := .none, regs := CtRegs.reset, fault := FaultRec.reset, intake := [], arrivals := [],
    parcels := [], aborts := [], records := [], shuffleKey := 0, samplingKey := 0, det := ⟨0, 0, 0⟩,
    sealed := SealCtx.reset }

def Core.reset : Core := ⟨[], none, none, false, false, 0, false, 0, false, false, [], [0, 1, 2, 3], 0, 0, 0, 0⟩

def Tally.reset : Tally := ⟨0, 0, false, false, 0, 0, 0, 0, 0, false, false, none, []⟩

def TallyRegs.reset : TallyRegs :=
  { sel := 0, selWord := 0, selLast := 0, selWaiters := 0, selByHand := false, selLease := false, selQueue := [],
    setTally := 0, setOp := false, setValue := 0, setRefused := false, setBusy := false, resetFirst := 0, resetCountM1 := 0,
    resetBusy := false, resetNext := 0, resetLeft := 0, poolFull := [], lostGrants := 0, ownerLost := 0, poisons := 0,
    broken := 0, desched := 0 }

def CheckSlot.reset : CheckSlot :=
  ⟨0, 0, false, 0, 0, false, 0, 0, 0, 0, [], 0, 0, .counting, 0, false, false, [], [], false, false⟩

/-- Reset values of Table 13.9: all offers allowed, the port down. Credits start at the 32 flits of R363. -/
def Port.reset : Port :=
  { enable := false, allowUl1 := true, allowUl2 := true, allowHalf := true, state := .down, version := 0, half := false,
    upper := false, downCause := 0, peerAddr := 0, peerPort := 0, peerValid := false, peerVersions := 0,
    peerHalf := false, trainedUl2 := false, trainFails := 0, retrains3 := [], txSeq := 0, rxNext := 0, nakSent := false, got := [],
    replay := [], waiting := [], credits := [], lastVc := 0, control := [], lanesErr := [], tx := 0, rx := 0, fecCorr := 0,
    fecUncorr := 0, crcFail := 0, replayed := 0, retrained := 0, badFlit := 0, lost := 0, paceRx := 0 }

def Links.reset : Links := ⟨[], 0, 0, 0, 0, 0, 0, 0, [], [], []⟩

def Round.reset : Round := ⟨0, 0, false, 0, 0⟩

def Merge.reset : Merge := ⟨0, 0, 0, 0, 0, 0, 0, 0, 0, 0, 0, 0, 0, 0, [], [], [], 0, []⟩

def IngestCmd.reset : IngestCmd := ⟨false, 0, 0, 0, 0⟩

def Ingest.reset : Ingest := ⟨IngestCmd.reset, IngestCmd.reset, 0, 0, 0, 0⟩

/-- Reset values of Tables 11.9 and 11.10; the reserve is the 8 TB of R314 in sectors (DESIGN CHOICE, log entry 5). -/
def MemTier.reset : MemTier :=
  { fenceFar := 0, fenceFlash := 0, fenceNear := [], framesNear := [], framesFar := [], mapFence := 0, invalCtx := 0,
    invalSize := 16, invalBusy := false, invalBase := 0, walks := 0, atsRefused := 0, detNear := 0, detFar := 0,
    detFlash := 0, detHost := 0, pfEntries := 0, pfLate := 0, pfCut := 0, mapReady := false, rebuilding := false,
    wear := 0, capSectors := 13671875000, reserve := 1953125000, reloc := 0, refresh := 0, grown := 0, factory := 0,
    bg := 0, ingest := [], ingestGo := 0, placed := [], badSectors := [], retired := [] }

def Samplers.reset : Samplers := ⟨0, 20, 0, 0, 0, 0, 0, [], [], [], []⟩

def Sluice.reset : Sluice := ⟨0, 0, 0, 0, 0, 0, 0, 0, 0, 0, 0, 0, 0, [], [], [], []⟩

/-- A die without its rails, at OP0 with T = 78 (Tables 15.8 and 15.12). -/
def Die.reset : Die :=
  { ticks := 0, points := OpPoint.typical, nominal := 12, lowestFixed := 13, fixedOk := true, point := 0, target := 0,
    vcd := 0, vcs := 0, bias := 0, assist := 0, index := 78, capIndex := 78, thermal := 0, droop := 0, estimate := 0,
    budget := 0, allowance := 0, slewing := false, pacerMiss := 0, shelf := 0, droops := 0, dipQuadrant := 0,
    dipDepth := 0, dipDuration := 0, dipValid := false, throttled := 0, fixed := false, acts := [], seen := [], dynamic := 0, arrayPart := 0,
    mostUsed := 0, lastFloor := 0, lastFull := 0,
    paceHigh := 0, paceLow := 0, pacing := false, resetting := false, up := false }

/-- Reset values of Table 14.7. -/
def Weir.reset : Weir :=
  { fixedRate := false, boost := true, pace := true, fixedActive := false, fixedRefused := false, capHost := 4000,
    capSideband := 4000, capEffective := 4000, estimate := 0, floor := 0, unattainable := false,
    phases := [12, 9, 9, 12, 12, 10, 8, 8], boostMax := 15, threshold := 32, paceTicks := 10000, energy := 0,
    unattain := 0, dips := 0, gain := 32768, trimSum := 0, trimDyn := 0, trimCount := 0 }

def ErrLog.reset : ErrLog := ⟨false, false, 0, 0, 0, 0, 0, [], [], none, none, [], []⟩

def Fencing.reset : Fencing := ⟨[], 0, 0, false, [], 0, 0, false, 0, 0, 0, [], []⟩

def Digest.reset : Digest := ⟨0, 0, 0, 0, 0, 0, 0, 0, []⟩

def Mem.reset : Mem := ⟨[], [], [], []⟩

/-- The module in Off, before VAUX enters its range (R397): every register at the value of its table, nothing
listed in any memory, no context open and no command waiting. How a program comes to run from here is log entry 3. -/
def State.reset : State :=
  { pending := [], freeCount := 0, power := Power.reset, fuses := Fuses.reset, keeper := Keeper.reset,
    hg := Headgate.reset, ctxs := [], tasks := [], cores := [], saved := [], ops := [], loose := [], nextOp := 0, tags := [],
    nextTag := 0, mem := Mem.reset, tallies := [], tl := TallyRegs.reset, inflight := [], grants := [], slots := [],
    links := Links.reset, merge := Merge.reset, mt := MemTier.reset, sm := Samplers.reset, sl := Sluice.reset,
    dies := [], weir := Weir.reset, log := ErrLog.reset, fence := Fencing.reset, dg := Digest.reset,
    errs := [], touched := [] }

end Sys2Proof.Machine
end

