-- ==== Sys2Proof/Machine/Bits.lean ====
section
/-! DEFINITION. Bytes, bit fields, sparse tables and byte memories: the helpers every other file builds on. -/

namespace Sys2Proof.Machine

open Sys2Proof

/-! ### Bytes and bit fields (R12: little-endian, bit 0 least significant) -/

/-- The number a list of bytes stands for, first byte lowest. -/
def leNat : List Byte → Nat
  | [] => 0
  | b :: bs => b.toNat + 256 * leNat bs

/-- The n low bytes of a number, lowest first. -/
def leBytes : Nat → Nat → List Byte
  | 0, _ => []
  | n + 1, v => BitVec.ofNat 8 v :: leBytes n (v / 256)

/-- Bits [hi:lo] of a number. -/
def bitsN (v hi lo : Nat) : Nat := (v >>> lo) % 2 ^ (hi + 1 - lo)

/-- Bit i of a number. -/
def bitN (v i : Nat) : Bool := v.testBit i

/-- A number as one bit. -/
def b2n (b : Bool) : Nat := if b then 1 else 0

/-- A counter that stops at its top value. -/
def satAdd (top a b : Nat) : Nat := min top (a + b)

/-- The top of a 48-bit counter (R238, R154). -/
def top48 : Nat := 2 ^ 48 - 1

/-- An immediate, sign-extended to 64 bits (Table 4.5). -/
def sext (imm : W32) : Word := imm.signExtend 64

/-- The n first entries of a list, made up with a default. -/
def takePad {α : Type} (d : α) : Nat → List α → List α
  | 0, _ => []
  | n + 1, [] => d :: takePad d n []
  | n + 1, x :: xs => x :: takePad d n xs

/-- Smallest w with n ≤ 2 ^ w (R131). -/
def clog2 (n : Nat) : Nat := if n ≤ 1 then 0 else Nat.log2 (n - 1) + 1

/-- a rounded up to a multiple of m. -/
def roundUp (a m : Nat) : Nat := (a + m - 1) / m * m

/-- The number as the RFC 1982 comparison of R73 with 32 bits: a precedes b. -/
def precedes32 (a b : W32) : Bool := a ≠ b && (b - a).toNat < 2 ^ 31

/-- The logical lane count L of a task (R98). -/
def Task.lanes (t : Task) : Nat :=
  match t.width with
  | .l64 => 64 | .l32 => 32 | .l16 => 16

/-- The lane count that a number names; a save area holds 16, 32 or 64 (Table 4.18). -/
def lanesOf (n : Nat) : Lanes := if n = 16 then .l16 else if n = 32 then .l32 else .l64

/-! ### Sparse tables -/

/-- The entry at k, or the default. -/
def Tab.get {α : Type} (d : α) (t : Tab α) (k : Nat) : α :=
  match t with
  | [] => d
  | (j, v) :: r => if j = k then v else Tab.get d r k

/-- The entry at k, if there is one. -/
def Tab.find {α : Type} (t : Tab α) (k : Nat) : Option α :=
  match t with
  | [] => none
  | (j, v) :: r => if j = k then some v else Tab.find r k

/-- Writes k: keys stay strictly rising. -/
def Tab.put {α : Type} (t : Tab α) (k : Nat) (v : α) : Tab α :=
  match t with
  | [] => [(k, v)]
  | (j, w) :: r => if k < j then (k, v) :: (j, w) :: r else if k = j then (k, v) :: r else (j, w) :: Tab.put r k v

/-- Removes k. -/
def Tab.del {α : Type} (t : Tab α) (k : Nat) : Tab α := t.filter fun e => e.1 ≠ k

/-- Adds to a table of 48-bit counters that never wrap. -/
def Tab.bump (t : Tab Nat) (k n : Nat) : Tab Nat := t.put k (satAdd top48 (t.get 0 k) n)

/-! ### Byte memories -/

/-- What an unlisted address of a memory reads as: zero (R300 for the flash; log entry 2 for the others). -/
def unlisted : Byte := 0

/-- The canonical form: addresses strictly rising from `lo`, no entry equal to what an unlisted address reads as. -/
def cellsWf : Nat → List Host.Cell → Bool
  | _, [] => true
  | lo, (a, b) :: r => decide (lo ≤ a) && decide (b ≠ unlisted) && cellsWf (a + 1) r

/-- The canonical form of a whole memory. -/
def Memory.wf (m : List Host.Cell) : Bool := cellsWf 0 m

/-- One byte of a memory. -/
def Memory.byte (m : List Host.Cell) (a : Nat) : Byte := Tab.get unlisted m a

/-- n bytes of a memory from a. -/
def Memory.bytes (m : List Host.Cell) (a n : Nat) : List Byte := (List.range n).map fun i => Memory.byte m (a + i)

/-- The cells that a list of bytes makes at a: those equal to what an unlisted address reads as are left out. -/
def cellsOf : Nat → List Byte → List Host.Cell
  | _, [] => []
  | a, b :: bs => if b = unlisted then cellsOf (a + 1) bs else (a, b) :: cellsOf (a + 1) bs

/-- The cells of [a, a + n), with addresses taken from a. -/
def Memory.slice : List Host.Cell → Nat → Nat → List Host.Cell
  | [], _, _ => []
  | (k, b) :: r, a, n =>
    if k < a then Memory.slice r a n else if k < a + n then (k - a, b) :: Memory.slice r a n else []

/-- The cells below a, with an insertion point for more at its end. -/
def cellsBelow : List Host.Cell → Nat → List Host.Cell
  | [], _ => []
  | (k, b) :: r, a => if k < a then (k, b) :: cellsBelow r a else []

/-- The cells from a on. -/
def cellsFrom : List Host.Cell → Nat → List Host.Cell
  | [], _ => []
  | (k, b) :: r, a => if k < a then cellsFrom r a else (k, b) :: r

/-- Cells kept to offsets from `lo` and below n, and moved up by a. What would break the canonical form is left out. -/
def cellsShift (a n : Nat) : Nat → List Host.Cell → List Host.Cell
  | _, [] => []
  | lo, (k, b) :: r =>
    if n ≤ k then []
    else if k < lo || b = unlisted then cellsShift a n lo r
    else (a + k, b) :: cellsShift a n (k + 1) r

/-- Replaces [a, a + n) by the cells given, whose addresses are offsets from a. -/
def Memory.blit (m : List Host.Cell) (a n : Nat) (cs : List Host.Cell) : List Host.Cell :=
  cellsBelow m a ++ (cellsShift a n 0 cs ++ cellsFrom m (a + n))

/-- Writes bytes at a. -/
def Memory.write (m : List Host.Cell) (a : Nat) (bs : List Byte) : List Host.Cell :=
  Memory.blit m a bs.length (cellsOf 0 bs)

/-- The memory of a tier. -/
def Mem.tier (m : Mem) : Tier → List Host.Cell
  | .near => m.near
  | .far => m.far
  | .host => m.host
  | .flash => m.flash

/-- The memories with one tier's replaced. -/
def Mem.setTier (m : Mem) (t : Tier) (c : List Host.Cell) : Mem :=
  match t with
  | .near => { m with near := c }
  | .far => { m with far := c }
  | .host => { m with host := c }
  | .flash => { m with flash := c }

/-- Every memory of the module is in canonical form. -/
def Mem.wf (m : Mem) : Bool := Memory.wf m.near && Memory.wf m.far && Memory.wf m.host && Memory.wf m.flash

/-! ### CRC-32C and SHA-512 (PRESUMED: RFC 3720 and FIPS 180-4, which the spec names; log entry 10) -/

/-- One bit step of the reflected Castagnoli polynomial. -/
def crcBit (c : W32) : W32 := if c.getLsbD 0 then (c >>> 1) ^^^ 0x82F63B78 else c >>> 1

/-- One byte. -/
def crcByte (c : W32) (b : Byte) : W32 :=
  crcBit (crcBit (crcBit (crcBit (crcBit (crcBit (crcBit (crcBit (c ^^^ b.zeroExtend 32))))))))

/-- CRC-32C of a list of bytes. -/
def crc32c (bs : List Byte) : W32 := ~~~ (bs.foldl crcByte 0xFFFFFFFF)

/-- Round constants: fractions of the cube roots of the first 80 primes. -/
def shaK : List Word :=
    [0x428A2F98D728AE22, 0x7137449123EF65CD, 0xB5C0FBCFEC4D3B2F, 0xE9B5DBA58189DBBC, 0x3956C25BF348B538,
     0x59F111F1B605D019, 0x923F82A4AF194F9B, 0xAB1C5ED5DA6D8118, 0xD807AA98A3030242, 0x12835B0145706FBE,
     0x243185BE4EE4B28C, 0x550C7DC3D5FFB4E2, 0x72BE5D74F27B896F, 0x80DEB1FE3B1696B1, 0x9BDC06A725C71235,
     0xC19BF174CF692694, 0xE49B69C19EF14AD2, 0xEFBE4786384F25E3, 0x0FC19DC68B8CD5B5, 0x240CA1CC77AC9C65]
    ++ [0x2DE92C6F592B0275, 0x4A7484AA6EA6E483, 0x5CB0A9DCBD41FBD4, 0x76F988DA831153B5, 0x983E5152EE66DFAB,
     0xA831C66D2DB43210, 0xB00327C898FB213F, 0xBF597FC7BEEF0EE4, 0xC6E00BF33DA88FC2, 0xD5A79147930AA725,
     0x06CA6351E003826F, 0x142929670A0E6E70, 0x27B70A8546D22FFC, 0x2E1B21385C26C926, 0x4D2C6DFC5AC42AED,
     0x53380D139D95B3DF, 0x650A73548BAF63DE, 0x766A0ABB3C77B2A8, 0x81C2C92E47EDAEE6, 0x92722C851482353B]
    ++ [0xA2BFE8A14CF10364, 0xA81A664BBC423001, 0xC24B8B70D0F89791, 0xC76C51A30654BE30, 0xD192E819D6EF5218,
     0xD69906245565A910, 0xF40E35855771202A, 0x106AA07032BBD1B8, 0x19A4C116B8D2D0C8, 0x1E376C085141AB53,
     0x2748774CDF8EEB99, 0x34B0BCB5E19B48A8, 0x391C0CB3C5C95A63, 0x4ED8AA4AE3418ACB, 0x5B9CCA4F7763E373,
     0x682E6FF3D6B2B8A3, 0x748F82EE5DEFB2FC, 0x78A5636F43172F60, 0x84C87814A1F0AB72, 0x8CC702081A6439EC]
    ++ [0x90BEFFFA23631E28, 0xA4506CEBDE82BDE9, 0xBEF9A3F7B2C67915, 0xC67178F2E372532B, 0xCA273ECEEA26619C,
     0xD186B8C721C0C207, 0xEADA7DD6CDE0EB1E, 0xF57D4F7FEE6ED178, 0x06F067AA72176FBA, 0x0A637DC5A2C898A6,
     0x113F9804BEF90DAE, 0x1B710B35131C471B, 0x28DB77F523047D84, 0x32CAAB7B40C72493, 0x3C9EBE0A15C9BEBC,
     0x431D67C49C100D4C, 0x4CC5D4BECB3E42B6, 0x597F299CFC657E2A, 0x5FCB6FAB3AD6FAEC, 0x6C44198C4A475817]

/-- Initial hash value: fractions of the square roots of the first eight primes. -/
def shaH0 : List Word :=
    [0x6A09E667F3BCC908, 0xBB67AE8584CAA73B, 0x3C6EF372FE94F82B, 0xA54FF53A5F1D36F1, 0x510E527FADE682D1,
     0x9B05688C2B3E6C1F, 0x1F83D9ABFB41BD6B, 0x5BE0CD19137E2179]

/-- One round of the compression function over the eight working variables. -/
def shaRound (v : List Word) (kw : Word × Word) : List Word :=
  match v with
  | [a, b, c, d, e, f, g, h] =>
    let s1 := e.rotateRight 14 ^^^ e.rotateRight 18 ^^^ e.rotateRight 41
    let ch := (e &&& f) ^^^ (~~~ e &&& g)
    let t1 := h + s1 + ch + kw.1 + kw.2
    let s0 := a.rotateRight 28 ^^^ a.rotateRight 34 ^^^ a.rotateRight 39
    let maj := (a &&& b) ^^^ (a &&& c) ^^^ (b &&& c)
    [t1 + (s0 + maj), a, b, c, d + t1, e, f, g]
  | _ => v

/-- The next word of the message schedule from the last sixteen, oldest first. -/
def shaNext (w : List Word) : Word :=
  let g := fun i => w.getD i 0
  let s0 := (g 1).rotateRight 1 ^^^ (g 1).rotateRight 8 ^^^ (g 1 >>> 7)
  let s1 := (g 14).rotateRight 19 ^^^ (g 14).rotateRight 61 ^^^ (g 14 >>> 6)
  g 0 + s0 + g 9 + s1

/-- The message schedule: the sixteen words of the block and those that follow. -/
def shaSchedule : Nat → List Word → List Word
  | 0, _ => []
  | n + 1, w => w.headD 0 :: shaSchedule n (w.tail ++ [shaNext w])

/-- The compression of one block of sixteen words. -/
def shaBlock (h w : List Word) : List Word :=
  List.zipWith (· + ·) h ((shaK.zip (shaSchedule 80 w)).foldl shaRound h)

/-- The number that bytes give, first byte highest. -/
def beNat (bs : List Byte) : Nat := leNat bs.reverse

/-- Big-endian words of eight bytes, at most `n`. -/
def beWords : Nat → List Byte → List Word
  | 0, _ => []
  | n + 1, bs => BitVec.ofNat 64 (beNat (bs.take 8)) :: beWords n (bs.drop 8)

/-- All blocks of a padded message, at most `n`. -/
def shaBlocks : Nat → List Word → List Byte → List Word
  | 0, h, _ => h
  | n + 1, h, bs => if bs.isEmpty then h else shaBlocks n (shaBlock h (beWords 16 (bs.take 128))) (bs.drop 128)

/-- SHA-512 of a list of bytes, as its 64 bytes. -/
def sha512 (bs : List Byte) : List Byte :=
  let l := bs.length
  let pad := (239 - l % 128) % 128
  let m := bs ++ [(0x80 : Byte)] ++ List.replicate pad 0 ++ (leBytes 16 (8 * l)).reverse
  (shaBlocks (m.length / 128) shaH0 m).flatMap fun w => (leBytes 8 w.toNat).reverse

end Sys2Proof.Machine
end

