-- ==== Sys2Proof/Machine/Decompress.lean ====
section
/-! DEFINITION. The decompressors of R168 (06_gather_aggregate.md): the LZ4 block format and the part of Zstandard that the
rule names. PRESUMED: the formats themselves stand in RFC 8878 and in the public description of the LZ4 block, which the spec
names and does not repeat (log entry 10). -/

namespace Sys2Proof.Machine

open Sys2Proof

/-! ### Bytes and matches -/

/-- The first n bytes and the rest, if there are so many. -/
def takeBytes (n : Nat) (l : List Byte) : Option (List Byte × List Byte) :=
  if (l.take n).length = n then some (l.take n, l.drop n) else none

/-- A history of bytes, newest first, with a match of n bytes at a distance appended. -/
def copyBack (dist : Nat) : Nat → List Byte → List Byte
  | 0, h => h
  | n + 1, h => copyBack dist n (h.getD (dist - 1) 0 :: h)

/-! ### LZ4 -/

/-- A length that goes on in further bytes, each added until one is below 255. -/
def lz4Length : List Byte → Nat → Option (Nat × List Byte)
  | [], _ => none
  | b :: r, n => if b = 255 then lz4Length r (n + 255) else some (n + b.toNat, r)

/-- A length of a token's four bits. -/
def lz4Field (v : Nat) (r : List Byte) : Option (Nat × List Byte) := if v = 15 then lz4Length r 15 else some (v, r)

/-- The sequences of a block. It ends with literals that no match follows. -/
def lz4Run : Nat → List Byte → List Byte → Option (List Byte)
  | 0, _, _ => none
  | _ + 1, [], _ => none
  | fuel + 1, token :: r, h => do
    let (n, r) ← lz4Field (token.toNat / 16) r
    let (lits, r) ← takeBytes n r
    let h := lits.reverse ++ h
    match r with
    | [] => return h
    | [_] => none
    | a :: b :: r =>
      let dist := a.toNat + 256 * b.toNat
      let (m, r) ← lz4Field (token.toNat % 16) r
      if dist = 0 || h.length < dist then none else lz4Run fuel r (copyBack dist (m + 4) h)

/-- An LZ4 block that decodes to exactly `size` bytes. -/
def lz4Block (src : List Byte) (size : Nat) : Option (List Byte) := do
  let h ← lz4Run (src.length + 1) src []
  if h.length = size then return h.reverse else none

/-! ### Bit streams of Zstandard -/

/-- The bits of bytes, each byte from its bit 0. -/
def bitsOf (bs : List Byte) : List Bool := bs.flatMap fun b => (List.range 8).map b.getLsbD

/-- A stream that is read from its end: its bits from below the highest bit that is set, which lies in the last byte. -/
def backBits (bs : List Byte) : Option (List Bool) :=
  match bs.getLast? with
  | none => none
  | some b => if b = 0 then none else some ((bitsOf bs).reverse.drop (8 - Nat.log2 b.toNat))

/-- n bits, the first the highest, the bits past the end read as zero, with whether there were too few. -/
def popBits (n : Nat) (bs : List Bool) : Nat × List Bool × Bool :=
  let got := bs.take n
  ((got ++ List.replicate (n - got.length) false).foldl (fun v b => 2 * v + b2n b) 0, bs.drop n, decide (got.length < n))

/-- n bits of a stream read forward, the first the lowest. -/
def frontBits (n : Nat) (bs : List Bool) : Nat × List Bool :=
  ((bs.take n).reverse.foldl (fun v b => 2 * v + b2n b) 0, bs.drop n)

/-! ### Finite state entropy tables -/

/-- A cell of a decoding table: symbol, bits read for the next state, and what they are added to. -/
structure FseCell where
  sym : Nat
  nb : Nat
  base : Nat
  deriving DecidableEq, Repr

/-- A decoding table of 2^log cells. -/
structure FseTable where
  log : Nat
  cells : List FseCell
  deriving DecidableEq, Repr

def FseTable.at' (t : FseTable) (state : Nat) : FseCell := t.cells.getD state ⟨0, 0, 0⟩

/-- The table of one symbol. -/
def fseSingle (sym : Nat) : FseTable := ⟨0, [⟨sym, 0, 0⟩]⟩

/-- The table of a distribution: −1 stands for a probability below one. -/
def fseTable (log : Nat) (norm : List Int) : FseTable :=
  let size := 2 ^ log
  let low := (List.range norm.length).filter fun i => norm.getD i 0 = -1
  let high := size - low.length
  let step := size / 2 + size / 8 + 3
  let spots := ((List.range size).map fun i => i * step % size).filter fun p => decide (p < high)
  let syms := (List.range norm.length).flatMap fun i => List.replicate (norm.getD i 0).toNat i
  let placed := spots.zip syms ++ (List.range low.length).map fun k => (size - 1 - k, low.getD k 0)
  let order := (List.range size).map fun p => ((placed.find? fun e => e.1 = p).map (·.2)).getD 0
  ⟨log, (List.range size).map fun p =>
    let s := order.getD p 0
    let next := (if norm.getD s 0 = -1 then 1 else (norm.getD s 0).toNat) + ((order.take p).filter fun x => x = s).length
    let nb := log - Nat.log2 next
    ⟨s, nb, next * 2 ^ nb - size⟩⟩

/-- Reads the probabilities of a description, newest first: what is left to share out, whether a count of zeros
follows, the bits, and the probabilities so far. -/
def fseNorm (maxSyms : Nat) : Nat → Nat → Bool → List Bool → List Int → Option (List Int × List Bool)
  | 0, _, _, _, _ => none
  | fuel + 1, left, zeros, bs, acc =>
    if zeros then
      let (n, r) := frontBits 2 bs
      fseNorm maxSyms fuel left (n = 3) r (List.replicate n 0 ++ acc)
    else if left = 0 then (if acc.length ≤ maxSyms then some (acc, bs) else none)
    else if maxSyms ≤ acc.length then none
    else
      let n := Nat.log2 (left + 1) + 1
      let v := (frontBits n bs).1
      let short := v % 2 ^ (n - 1)
      let bound := 2 ^ n - 1 - (left + 1)
      let (x, used) := if short < bound then (short, n - 1)
        else ((if 2 ^ (n - 1) ≤ v then v - bound else v), n)
      if bs.length < used then none
      else if left + 1 < x then none
      else fseNorm maxSyms fuel (if x = 0 then left - 1 else left - (x - 1)) (x = 1) (bs.drop used) ((Int.ofNat x - 1) :: acc)

/-- The table that a description spells, and the bytes after it. -/
def fseDescription (maxLog maxSyms : Nat) (bs : List Byte) : Option (FseTable × List Byte) := do
  let all := bitsOf bs
  let (l, r) := frontBits 4 all
  let log := l + 5
  if bs.isEmpty || maxLog < log then none
  else
    let (norm, rest) ← fseNorm maxSyms 1024 (2 ^ log) false r []
    return (fseTable log norm.reverse, bs.drop ((all.length - rest.length + 7) / 8))

/-! ### Huffman codes of literals -/

/-- A code: its longest length, and for each value of so many bits the symbol and the bits it takes. -/
structure HufTable where
  log : Nat
  cells : List (Nat × Nat)
  deriving DecidableEq, Repr

/-- The code of a list of weights; that of the last symbol is what fills the code up. -/
def hufTable (ws : List Nat) : Option HufTable :=
  let sum := (ws.map fun w => if w = 0 then 0 else 2 ^ (w - 1)).sum
  let log := Nat.log2 sum + 1
  let left := 2 ^ log - sum
  if sum = 0 || 11 < log || 255 < ws.length || left ≠ 2 ^ Nat.log2 left then none
  else
    let all := ws ++ [Nat.log2 left + 1]
    some ⟨log, (List.range log).flatMap fun k =>
      (List.range all.length).flatMap fun i =>
        if all.getD i 0 = k + 1 then List.replicate (2 ^ k) (i, log - k) else []⟩

/-- Weights out of two states that take turns, until the bits run out. -/
def hufWeights (t : FseTable) : Nat → Nat → Nat → List Bool → List Nat → Option (List Nat)
  | 0, _, _, _, _ => none
  | fuel + 1, one, two, bs, acc =>
    let e := t.at' one
    let (v, r, past) := popBits e.nb bs
    if past then some ((t.at' two).sym :: e.sym :: acc) else hufWeights t fuel two (e.base + v) r (e.sym :: acc)

/-- A code's description, and the bytes after it. -/
def hufDescription : List Byte → Option (HufTable × List Byte)
  | [] => none
  | b :: r => do
    if b.toNat < 128 then
      let (body, rest) ← takeBytes b.toNat r
      let (t, stream) ← fseDescription 6 256 body
      let bits ← backBits stream
      let (one, bits, o1) := popBits t.log bits
      let (two, bits, o2) := popBits t.log bits
      if o1 || o2 then none
      else
        let ws ← hufWeights t 256 one two bits []
        return ((← hufTable ws.reverse), rest)
    else
      let n := b.toNat - 127
      let (body, rest) ← takeBytes ((n + 1) / 2) r
      let ws := (body.flatMap fun x => [x.toNat / 16, x.toNat % 16]).take n
      return ((← hufTable ws), rest)

/-- n symbols of a stream, newest first, which the stream holds exactly. -/
def hufSymbols (t : HufTable) : Nat → List Bool → List Byte → Option (List Byte)
  | 0, bs, acc => if bs.isEmpty then some acc else none
  | n + 1, bs, acc =>
    let e := t.cells.getD (popBits t.log bs).1 (0, 0)
    if (bs.take e.2).length < e.2 then none else hufSymbols t n (bs.drop e.2) (BitVec.ofNat 8 e.1 :: acc)

/-- One stream of n literals. -/
def hufStream (t : HufTable) (n : Nat) (bs : List Byte) : Option (List Byte) := do
  let bits ← backBits bs
  let l ← hufSymbols t n bits []
  return l.reverse

/-- Four streams of n literals, behind the sizes of the first three. -/
def hufFour (t : HufTable) (n : Nat) (bs : List Byte) : Option (List Byte) := do
  let (sizes, r) ← takeBytes 6 bs
  let q := (n + 3) / 4
  if n < 3 * q then none
  else
    let (a, r) ← takeBytes (leNat (sizes.take 2)) r
    let (b, r) ← takeBytes (leNat ((sizes.drop 2).take 2)) r
    let (c, r) ← takeBytes (leNat (sizes.drop 4)) r
    return (← hufStream t q a) ++ (← hufStream t q b) ++ (← hufStream t q c) ++ (← hufStream t (n - 3 * q) r)

/-! ### Blocks -/

/-- What one block leaves to the next: codes, the recent distances, the history, newest first, and how much of it the
frame has produced. -/
structure ZState where
  huf : Option HufTable
  ll : Option FseTable
  ofs : Option FseTable
  ml : Option FseTable
  reps : Nat × Nat × Nat
  hist : List Byte
  made : Nat
  deriving DecidableEq, Repr

/-- The literals section of a block: the literals, the bytes after them, the code for the next block. -/
def zLiterals (huf : Option HufTable) (max : Nat) (bs : List Byte) :
    Option (List Byte × List Byte × Option HufTable) := do
  let w := leNat (bs.take 5)
  let kind := w % 4
  let form := w / 4 % 4
  if kind < 2 then
    let (head, n) := if form % 2 = 0 then (1, w / 8 % 32) else if form = 1 then (2, w / 16 % 4096) else (3, w / 16 % 2 ^ 20)
    let (_, r) ← takeBytes head bs
    if max < n then none
    else if kind = 0 then
      let (l, r) ← takeBytes n r
      return (l, r, huf)
    else
      let (b, r) ← takeBytes 1 r
      return (List.replicate n (b.headD 0), r, huf)
  else
    let (head, width) := if form < 2 then (3, 10) else if form = 2 then (4, 14) else (5, 18)
    let (_, r) ← takeBytes head bs
    let n := w / 16 % 2 ^ width
    let (body, r) ← takeBytes (w / 2 ^ (4 + width) % 2 ^ width) r
    if max < n then none
    else
      let (t, body) ← if kind = 2 then hufDescription body else huf.map fun t => (t, body)
      let l ← if form = 0 then hufStream t n body else hufFour t n body
      return (l, r, some t)

/-- Bases and extra bits of the literal length codes from 16 up. -/
def llCodes : List (Nat × Nat) :=
  [(16, 1), (18, 1), (20, 1), (22, 1), (24, 2), (28, 2), (32, 3), (40, 3), (48, 4), (64, 6), (128, 7), (256, 8), (512, 9),
   (1024, 10), (2048, 11), (4096, 12), (8192, 13), (16384, 14), (32768, 15), (65536, 16)]

/-- Bases and extra bits of the match length codes from 32 up. -/
def mlCodes : List (Nat × Nat) :=
  [(35, 1), (37, 1), (39, 1), (41, 1), (43, 2), (47, 2), (51, 3), (59, 3), (67, 4), (83, 4), (99, 5), (131, 7), (259, 8),
   (515, 9), (1027, 10), (2051, 11), (4099, 12), (8195, 13), (16387, 14), (32771, 15), (65539, 16)]

/-- The distributions that stand where a block gives none. -/
def llNorm : List Int :=
  [4, 3, 2, 2, 2, 2, 2, 2, 2, 2, 2, 2, 2, 1, 1, 1, 2, 2, 2, 2, 2, 2, 2, 2, 2, 3, 2, 1, 1, 1, 1, 1, -1, -1, -1, -1]
def mlNorm : List Int :=
  [1, 4, 3, 2, 2, 2, 2, 2, 2] ++ List.replicate 37 1 ++ List.replicate 7 (-1)
def ofNorm : List Int := List.replicate 6 1 ++ [2, 2, 2] ++ List.replicate 15 1 ++ List.replicate 5 (-1)

/-- The table of a code in a mode: predefined, of one symbol, described, or that of the block before. -/
def zTable (mode : Nat) (norm : List Int) (log maxLog maxSyms : Nat) (old : Option FseTable) (bs : List Byte) :
    Option (FseTable × List Byte) :=
  match mode with
  | 0 => some (fseTable log norm, bs)
  | 1 => match bs with
    | b :: r => if b.toNat < maxSyms then some (fseSingle b.toNat, r) else none
    | [] => none
  | 2 => fseDescription maxLog maxSyms bs
  | _ => old.map fun t => (t, bs)

/-- The distance that an offset value stands for, and the recent distances after it. -/
def zDistance (v litLen : Nat) (reps : Nat × Nat × Nat) : Option (Nat × (Nat × Nat × Nat)) :=
  let (a, b, c) := reps
  if 3 < v then some (v - 3, (v - 3, a, b))
  else
    match v - 1 + (if litLen = 0 then 1 else 0) with
    | 0 => some (a, (a, b, c))
    | 1 => some (b, (b, a, c))
    | 2 => some (c, (c, a, b))
    | _ => if a ≤ 1 then none else some (a - 1, (a - 1, a, b))

/-- The sequences of a block: n of them, from three states over one stream. Answers the state, the literals left, and
the bits left. -/
def zSequences (window : Nat) (ll ofs ml : FseTable) :
    Nat → Nat → Nat → Nat → List Bool → List Byte → ZState → Option (ZState × List Byte × List Bool)
  | 0, _, _, _, bs, lits, z => some (z, lits, bs)
  | n + 1, sl, so, sm, bs, lits, z => do
    let cl := ll.at' sl
    let co := ofs.at' so
    let cm := ml.at' sm
    let (xo, bs, o1) := popBits co.sym bs
    let (baseM, nM) := if cm.sym < 32 then (cm.sym + 3, 0) else mlCodes.getD (cm.sym - 32) (0, 0)
    let (xm, bs, o2) := popBits nM bs
    let (baseL, nL) := if cl.sym < 16 then (cl.sym, 0) else llCodes.getD (cl.sym - 16) (0, 0)
    let (xl, bs, o3) := popBits nL bs
    let litLen := baseL + xl
    let (now, lits) ← takeBytes litLen lits
    let (dist, reps) ← zDistance (2 ^ co.sym + xo) litLen z.reps
    let h := now.reverse ++ z.hist
    let made := z.made + litLen
    if o1 || o2 || o3 || h.length < dist || (decide (window < made) && decide (window < dist)) then none
    else
      let z := { z with reps := reps, hist := copyBack dist (baseM + xm) h, made := made + baseM + xm }
      if n = 0 then return (z, lits, bs)
      else
        let (vl, bs, p1) := popBits cl.nb bs
        let (vm, bs, p2) := popBits cm.nb bs
        let (vo, bs, p3) := popBits co.nb bs
        if p1 || p2 || p3 then none
        else zSequences window ll ofs ml n (cl.base + vl) (co.base + vo) (cm.base + vm) bs lits z

/-- The number of sequences of a block, and the bytes after it. -/
def zCount : List Byte → Option (Nat × List Byte)
  | [] => none
  | a :: r =>
    if a.toNat < 128 then some (a.toNat, r)
    else
      match a.toNat, r with
      | 255, b :: c :: r => some (b.toNat + 256 * c.toNat + 0x7F00, r)
      | 255, _ => none
      | n, b :: r => some ((n - 128) * 256 + b.toNat, r)
      | _, [] => none

/-- A compressed block, of at most `max` bytes when opened. -/
def zCompressed (window max : Nat) (bs : List Byte) (z : ZState) : Option ZState := do
  let (lits, r, huf) ← zLiterals z.huf max bs
  let (n, r) ← zCount r
  let z := { z with huf := huf }
  if n = 0 then
    if r.isEmpty then return { z with hist := lits.reverse ++ z.hist, made := z.made + lits.length } else none
  else
    match r with
    | [] => none
    | modes :: r =>
      let m := modes.toNat
      if m % 4 ≠ 0 then none
      else
        let (ll, r) ← zTable (m / 64) llNorm 6 9 36 z.ll r
        let (ofs, r) ← zTable (m / 16 % 4) ofNorm 5 8 32 z.ofs r
        let (ml, r) ← zTable (m / 4 % 4) mlNorm 6 9 53 z.ml r
        let bits ← backBits r
        let (sl, bits, o1) := popBits ll.log bits
        let (so, bits, o2) := popBits ofs.log bits
        let (sm, bits, o3) := popBits ml.log bits
        let z0 := { z with ll := some ll, ofs := some ofs, ml := some ml }
        let (z1, lits, bits) ← zSequences window ll ofs ml n sl so sm bits lits z0
        let z2 := { z1 with hist := lits.reverse ++ z1.hist, made := z1.made + lits.length }
        if o1 || o2 || o3 || !bits.isEmpty || max < z2.made - z.made then none else return z2

/-- The blocks of a frame, up to the one marked last. -/
def zBlocks (window : Nat) : Nat → List Byte → ZState → Option (ZState × List Byte)
  | 0, _, _ => none
  | fuel + 1, bs, z => do
    let (head, r) ← takeBytes 3 bs
    let w := leNat head
    let n := w / 8
    let max := min window 131072
    if max < n then none
    else
      let (z, r) ← match w / 2 % 4 with
        | 0 => do
          let (l, r) ← takeBytes n r
          pure ({ z with hist := l.reverse ++ z.hist, made := z.made + n }, r)
        | 1 => do
          let (b, r) ← takeBytes 1 r
          pure ({ z with hist := List.replicate n (b.headD 0) ++ z.hist, made := z.made + n }, r)
        | 2 => do
          let (l, r) ← takeBytes n r
          pure (← zCompressed window max l z, r)
        | _ => none
      if w % 2 = 1 then return (z, r) else zBlocks window fuel r z

/-! ### The checksum of a frame (XXH64 with seed 0) -/

def xxP1 : Word := 0x9E3779B185EBCA87
def xxP2 : Word := 0xC2B2AE3D27D4EB4F
def xxP3 : Word := 0x165667B19E3779F9
def xxP4 : Word := 0x85EBCA77C2B2AE63
def xxP5 : Word := 0x27D4EB2F165667C5

def xxRound (acc lane : Word) : Word := (acc + lane * xxP2).rotateLeft 31 * xxP1

/-- Word i of a list of bytes. -/
def xxLane (bs : List Byte) (i : Nat) : Word := BitVec.ofNat 64 (leNat ((bs.drop (8 * i)).take 8))

/-- The four lanes over the whole stripes of 32 bytes. -/
def xxStripes : Nat → List Byte → Word × Word × Word × Word → Word × Word × Word × Word
  | 0, _, v => v
  | n + 1, bs, (a, b, c, d) => xxStripes n (bs.drop 32)
      (xxRound a (xxLane bs 0), xxRound b (xxLane bs 1), xxRound c (xxLane bs 2), xxRound d (xxLane bs 3))

def xxMerge (h v : Word) : Word := (h ^^^ xxRound 0 v) * xxP1 + xxP4

/-- The hash of a list of bytes. -/
def xxh64 (bs : List Byte) : Word :=
  let n := bs.length
  let h0 := if n < 32 then xxP5
    else
      let (a, b, c, d) := xxStripes (n / 32) bs (xxP1 + xxP2, xxP2, 0, 0 - xxP1)
      xxMerge (xxMerge (xxMerge (xxMerge
        (a.rotateLeft 1 + b.rotateLeft 7 + c.rotateLeft 12 + d.rotateLeft 18) a) b) c) d
  let t := bs.drop (n / 32 * 32)
  let h1 := (List.range (t.length / 8)).foldl (fun h i => (h ^^^ xxRound 0 (xxLane t i)).rotateLeft 27 * xxP1 + xxP4)
    (h0 + BitVec.ofNat 64 n)
  let t := t.drop (t.length / 8 * 8)
  let h2 := if 4 ≤ t.length then
      (h1 ^^^ (BitVec.ofNat 64 (leNat (t.take 4)) * xxP1)).rotateLeft 23 * xxP2 + xxP3
    else h1
  let h3 := (t.drop (t.length / 4 * 4)).foldl (fun h b => (h ^^^ (b.zeroExtend 64 * xxP5)).rotateLeft 11 * xxP1) h2
  let h4 := (h3 ^^^ (h3 >>> 33)) * xxP2
  let h5 := (h4 ^^^ (h4 >>> 29)) * xxP3
  h5 ^^^ (h5 >>> 32)

/-! ### Dictionaries and frames (R168) -/

/-- What a frame starts from: nothing, raw content, or a dictionary in the format of RFC 8878, which its magic number
tells from raw content. -/
def zDictionary (dict : List Byte) : Option ZState := do
  if leNat (dict.take 4) = 0xEC30A437 && 8 ≤ dict.length then
    let (huf, r) ← hufDescription (dict.drop 8)
    let (ofs, r) ← fseDescription 8 32 r
    let (ml, r) ← fseDescription 9 53 r
    let (ll, r) ← fseDescription 9 36 r
    let (reps, content) ← takeBytes 12 r
    let a := leNat (reps.take 4)
    let b := leNat ((reps.drop 4).take 4)
    let c := leNat (reps.drop 8)
    let ok := fun (x : Nat) => decide (0 < x) && decide (x ≤ content.length)
    if ok a && ok b && ok c then return ⟨some huf, some ll, some ofs, some ml, (a, b, c), content.reverse, 0⟩ else none
  else return ⟨none, none, none, none, (1, 4, 8), dict.reverse, 0⟩

/-- One frame and nothing after it, whose content size stands in it and is `size`, with a window of at most 256 KiB. -/
def zFrame (dictId : Nat) (dict src : List Byte) (size : Nat) : Option (List Byte) := do
  let (magic, r) ← takeBytes 4 src
  let (d, r) ← takeBytes 1 r
  let d := leNat d
  let single := bitN d 5
  let (win, r) ← takeBytes (if single then 0 else 1) r
  let (id, r) ← takeBytes ([0, 1, 2, 4].getD (d % 4) 0) r
  let (fcs, r) ← takeBytes ([if single then 1 else 0, 2, 4, 8].getD (d / 64) 0) r
  let content := leNat fcs + (if d / 64 = 1 then 256 else 0)
  let w := leNat win
  let window := if single then content else 2 ^ (10 + w / 8) + 2 ^ (10 + w / 8) / 8 * (w % 8)
  if leNat magic ≠ 0xFD2FB528 || bitN d 3 || fcs.isEmpty || content ≠ size || 262144 < window
      || (leNat id ≠ 0 && leNat id ≠ dictId) then none
  else
    let z ← zDictionary dict
    let (z, r) ← zBlocks window (r.length + 1) r z
    let out := (z.hist.take z.made).reverse
    let sum := if bitN d 2 then leBytes 4 (xxh64 out).toNat else []
    if z.made = size && r = sum then return out else none

/-- The dense tile that a stored tile opens to, or none where its content is a metadata fault (R168). -/
def decompress (codec dictId : Nat) (dict src : List Byte) (size : Nat) : Option (List Byte) :=
  if codec = 1 then lz4Block src size else zFrame dictId dict src size

end Sys2Proof.Machine
end

