-- ==== Sys2Proof/Machine/Fp.lean ====
section
/-! DEFINITION. The number formats, their widening and narrowing, and FP32 arithmetic rounded once
(08_numerics.md R220 to R228, R232, R233). Values are exact: a sign, a Nat and a power of two. -/

namespace Sys2Proof.Machine

open Sys2Proof

/-- A floating-point format with a sign (Table 8.2). `top` is the code of the largest finite value. -/
structure Fmt where
  frac : Nat
  bias : Int
  top : Nat
  inf : Option Nat
  nan : Option Nat
  width : Nat
  deriving DecidableEq, Repr

def fmt64 : Fmt := ⟨52, 1023, 0x7FEFFFFFFFFFFFFF, some 0x7FF0000000000000, some 0x7FF8000000000000, 64⟩
def fmt32 : Fmt := ⟨23, 127, 0x7F7FFFFF, some 0x7F800000, some 0x7FC00000, 32⟩
def fmtBf : Fmt := ⟨7, 127, 0x7F7F, some 0x7F80, some 0x7FC0, 16⟩
def fmt16 : Fmt := ⟨10, 15, 0x7BFF, some 0x7C00, some 0x7E00, 16⟩
def fmtE5M2 : Fmt := ⟨2, 15, 0x7B, some 0x7C, some 0x7E, 8⟩
def fmtE4M3 : Fmt := ⟨3, 7, 0x7E, none, some 0x7F, 8⟩
def fmtE3M2 : Fmt := ⟨2, 3, 0x1F, none, none, 6⟩
def fmtE2M3 : Fmt := ⟨3, 1, 0x1F, none, none, 6⟩
def fmtE2M1 : Fmt := ⟨1, 1, 0x7, none, none, 4⟩
/-- The 40-bit extended master of R236: eight exponent bits and a fraction of 31 bits. -/
def fmt40 : Fmt := ⟨31, 127, 0x7F7FFFFFFF, some 0x7F80000000, some 0x7FC0000000, 40⟩

/-- An exact value: NaN, an infinity, or (-1)^neg × m × 2^e. -/
inductive Val where
  | nan
  | inf (neg : Bool)
  | fin (neg : Bool) (m : Nat) (e : Int)
  deriving DecidableEq, Repr

/-- The value of a code (R221). -/
def Fmt.val (f : Fmt) (code : Nat) : Val :=
  let c := code % 2 ^ f.width
  let neg := c.testBit (f.width - 1)
  let mag := c % 2 ^ (f.width - 1)
  if mag > f.top then
    if f.inf = some mag then .inf neg else .nan
  else
    let ex := mag >>> f.frac
    let fr := mag % 2 ^ f.frac
    if ex = 0 then .fin neg fr (1 - f.bias - f.frac) else .fin neg (2 ^ f.frac + fr) (ex - f.bias - f.frac)

/-- How the part below the grid rounds: to nearest even, or stochastically with a 16-bit draw (R233). -/
inductive Rounding where
  | nearest
  | stochastic (u : Nat)
  deriving DecidableEq, Repr

/-- m × 2^e (with more below it when `more`) on a grid of step 2^q: the multiple of the step. -/
def roundGrid (r : Rounding) (m : Nat) (e : Int) (more : Bool) (q : Int) : Nat :=
  if q ≤ e then m * 2 ^ (e - q).toNat
  else
    let sh := (q - e).toNat
    let n := m >>> sh
    let rem := m % 2 ^ sh
    match r with
    | .nearest =>
      let half := 2 ^ (sh - 1)
      if rem > half || (rem = half && (more || n % 2 = 1)) then n + 1 else n
    | .stochastic u => if u + (rem * 65536) >>> sh ≥ 65536 then n + 1 else n

/-- The magnitude code of m × 2^e in a format, with unbounded exponent. -/
def Fmt.roundMag (f : Fmt) (r : Rounding) (m : Nat) (e : Int) (more : Bool) : Nat :=
  if m = 0 then 0
  else
    let low : Int := 1 - f.bias - f.frac
    let q : Int := max (Nat.log2 m + e - f.frac) low
    (q - low).toNat * 2 ^ f.frac + roundGrid r m e more q

/-- The sign bit put beside a magnitude code. -/
def Fmt.signed (f : Fmt) (neg : Bool) (mag : Nat) : Nat := if neg then mag + 2 ^ (f.width - 1) else mag

/-- The code of the canonical NaN. -/
def Fmt.nanCode (f : Fmt) : Nat := f.nan.getD 0

/-- A value rounded to nearest even, overflow giving a signed infinity (R224). -/
def Fmt.enc (f : Fmt) (more : Bool) : Val → Nat
  | .nan => f.nanCode
  | .inf neg => f.signed neg (f.inf.getD f.top)
  | .fin neg m e =>
    let c := f.roundMag .nearest m e more
    f.signed neg (if c > f.top then f.inf.getD f.top else c)

/-- Whether a code is an infinity or a NaN. -/
def Fmt.nonfinite (f : Fmt) (code : Nat) : Bool := decide (code % 2 ^ (f.width - 1) > f.top)

/-! ### Exact arithmetic -/

def Val.neg : Val → Val
  | .nan => .nan
  | .inf s => .inf (!s)
  | .fin s m e => .fin (!s) m e

/-- The exact sum; an exact zero is +0 unless both are -0 (R224, IEEE 754). -/
def Val.add : Val → Val → Val
  | .nan, _ => .nan
  | _, .nan => .nan
  | .inf a, .inf b => if a = b then .inf a else .nan
  | .inf a, .fin .. => .inf a
  | .fin .., .inf b => .inf b
  | .fin sa ma ea, .fin sb mb eb =>
    let e := min ea eb
    let x : Nat := ma * 2 ^ (ea - e).toNat
    let y : Nat := mb * 2 ^ (eb - e).toNat
    if sa = sb then .fin sa (x + y) e
    else if x = y then .fin false 0 e
    else if x > y then .fin sa (x - y) e
    else .fin sb (y - x) e

/-- The exact product. -/
def Val.mul : Val → Val → Val
  | .nan, _ => .nan
  | _, .nan => .nan
  | .inf a, .inf b => .inf (a != b)
  | .inf a, .fin b m _ => if m = 0 then .nan else .inf (a != b)
  | .fin a m _, .inf b => if m = 0 then .nan else .inf (a != b)
  | .fin a m e, .fin b n f => .fin (a != b) (m * n) (e + f)

/-- A value times 2^k. -/
def Val.scale (v : Val) (k : Int) : Val :=
  match v with
  | .fin s m e => .fin s m (e + k)
  | w => w

/-- The quotient to 160 bits below the divisor's scale, and whether more lies below it. -/
def Val.div : Val → Val → Val × Bool
  | .nan, _ => (.nan, false)
  | _, .nan => (.nan, false)
  | .inf _, .inf _ => (.nan, false)
  | .inf a, .fin b _ _ => (.inf (a != b), false)
  | .fin a _ _, .inf b => (.fin (a != b) 0 0, false)
  | .fin a m e, .fin b n f =>
    if n = 0 then (if m = 0 then (.nan, false) else (.inf (a != b), false))
    else
      let k := m * 2 ^ 160
      (.fin (a != b) (k / n) (e - f - 160), decide (k % n ≠ 0))

/-- The value's order against another's: less-than, with NaN never less. -/
def Val.lt (x y : Val) : Bool :=
  match x, y with
  | .nan, _ => false
  | _, .nan => false
  | .inf a, .inf b => a && !b
  | .inf a, .fin .. => a
  | .fin .., .inf b => !b
  | .fin sa ma ea, .fin sb mb eb =>
    let e := min ea eb
    let p : Int := (ma * 2 ^ (ea - e).toNat : Nat)
    let q : Int := (mb * 2 ^ (eb - e).toNat : Nat)
    decide ((if sa then -p else p) < (if sb then -q else q))

/-- Numeric equality; -0 equals +0, NaN equals nothing. -/
def Val.eqv (x y : Val) : Bool := x ≠ .nan && y ≠ .nan && !x.lt y && !y.lt x

/-! ### FP32 operations on 32-bit words (R224, R225) -/

def f32 (w : W32) : Val := fmt32.val w.toNat

def toW (c : Nat) : W32 := BitVec.ofNat 32 c

/-- The exact value rounded once to FP32. -/
def round32 (v : Val) : W32 := toW (fmt32.enc false v)

def fadd (a b : W32) : W32 := round32 ((f32 a).add (f32 b))
def fsub (a b : W32) : W32 := round32 ((f32 a).add (f32 b).neg)
def fmul (a b : W32) : W32 := round32 ((f32 a).mul (f32 b))
/-- a × b + c, rounded once. -/
def ffma (a b c : W32) : W32 := round32 (((f32 a).mul (f32 b)).add (f32 c))
/-- a / b, correctly rounded (R176, R177). -/
def fdiv (a b : W32) : W32 :=
  let q := (f32 a).div (f32 b)
  toW (fmt32.enc q.2 q.1)

def isNan (a : W32) : Bool := f32 a = .nan
def nonfin (a : W32) : Bool := fmt32.nonfinite a.toNat
def nan32 : W32 := 0x7FC00000
def one32 : W32 := 0x3F800000

/-- Whether a precedes b with -0 below +0. -/
def ordLt (a b : W32) : Bool :=
  if (f32 a).eqv (f32 b) then a.msb && !b.msb else (f32 a).lt (f32 b)

/-- minimumNumber (R224). -/
def fmin (a b : W32) : W32 :=
  if isNan a then (if isNan b then nan32 else b) else if isNan b then a else if ordLt b a then b else a

/-- maximumNumber (R224). -/
def fmax (a b : W32) : W32 :=
  if isNan a then (if isNan b then nan32 else b) else if isNan b then a else if ordLt a b then b else a

/-- The integer square root, found bit by bit from bit `k`. -/
def isqrtBits : Nat → Nat → Nat → Nat
  | 0, n, r => if (r + 1) * (r + 1) ≤ n then r + 1 else r
  | k + 1, n, r =>
    let r' := r + 2 ^ (k + 1)
    isqrtBits k n (if r' * r' ≤ n then r' else r)

/-- 1/x, correctly rounded (R225). -/
def frcp (a : W32) : W32 :=
  match f32 a with
  | .fin s 0 _ => round32 (.inf s)
  | v => let q := (Val.fin false 1 0).div v
         toW (fmt32.enc q.2 q.1)

/-- 1/√x, correctly rounded (R225). -/
def frsq (a : W32) : W32 :=
  match f32 a with
  | .nan => nan32
  | .inf true => nan32
  | .inf false => 0
  | .fin s 0 _ => round32 (.inf s)
  | .fin true _ _ => nan32
  | .fin false m e =>
    -- bring the exponent to an even number; 1/√(m × 2^e) = √(2^240 / m) × 2^(-120 - e/2)
    let m' := if e % 2 = 0 then m else 2 * m
    let e' := if e % 2 = 0 then e else e - 1
    let r := isqrtBits 121 (2 ^ 240 / m') 0
    toW (fmt32.enc (r * r * m' ≠ 2 ^ 240) (.fin false r (-120 - e' / 2)))

/-- ln 2 × 2^240, rounded down. -/
def ln2Fix : Int := 1224685061431752149387114016819916847747660333428801675508466606222838698

/-- A finite value as a fixed-point integer with 240 fraction bits. -/
def toFix (s : Bool) (m : Nat) (e : Int) : Int :=
  let v : Int := if 0 ≤ e + 240 then (m * 2 ^ (e + 240).toNat : Nat) else ((m >>> (-(e + 240)).toNat : Nat) : Int)
  if s then -v else v

/-- e^r for a fixed-point r of magnitude below 1, by `n` terms of its series. -/
def expSeries (r : Int) (n : Nat) : Int :=
  ((List.range n).foldl (fun (acc : Int × Int) k =>
    let t := acc.2 * r / (2 ^ 240 : Nat) / ((k + 1 : Nat) : Int)
    (acc.1 + t, t)) ((2 ^ 240 : Nat), (2 ^ 240 : Nat))).1

/-- e^x, correctly rounded (R225). No FP32 value other than 0 has an e^x on or halfway between FP32 values, so what
the series leaves below 2^-200 decides nothing. -/
def fexp (a : W32) : W32 :=
  match f32 a with
  | .nan => nan32
  | .inf s => if s then 0 else round32 (.inf false)
  | .fin _ 0 _ => one32
  | .fin s m e =>
    if (Nat.log2 m : Int) + e > 7 then (if s then 0 else round32 (.inf false))
    else
      let x := toFix s m e
      let k := (2 * x + ln2Fix) / (2 * ln2Fix)
      toW (fmt32.enc true (.fin false (expSeries (x - k * ln2Fix) 60).toNat (k - 240)))

/-- ln of a fixed-point y in [1, 2): twice the inverse hyperbolic tangent of (y - 1) / (y + 1). -/
def logSeries (y : Int) (n : Nat) : Int :=
  let z := (y - (2 ^ 240 : Nat)) * (2 ^ 240 : Nat) / (y + (2 ^ 240 : Nat))
  let z2 := z * z / (2 ^ 240 : Nat)
  2 * ((List.range n).foldl (fun (acc : Int × Int) k =>
    (acc.1 + acc.2 / ((2 * k + 1 : Nat) : Int), acc.2 * z2 / (2 ^ 240 : Nat))) ((0 : Int), z)).1

/-- ln x, correctly rounded (R225). -/
def flog (a : W32) : W32 :=
  match f32 a with
  | .nan => nan32
  | .inf true => nan32
  | .inf false => round32 (.inf false)
  | .fin _ 0 _ => round32 (.inf true)
  | .fin true _ _ => nan32
  | .fin false m e =>
    let l := Nat.log2 m
    if m = 2 ^ l && (l : Int) + e = 0 then 0
    else
      let v := ((l : Int) + e) * ln2Fix + logSeries (((m * 2 ^ (240 - l) : Nat)) : Int) 90
      toW (fmt32.enc true (.fin (v < 0) v.natAbs (-240)))

/-- A signed 64-bit integer to FP32 (R100, FCVTIF). -/
def fcvtif (x : Word) : W32 := round32 (.fin x.msb x.toInt.natAbs 0)

/-- FP32 to a signed 64-bit integer, toward zero and saturating (R100, FCVTFI). A NaN's result is not stated by the
spec: it is the free value given (log entry 16). -/
def fcvtfi (free : Word) (a : W32) : Word :=
  match f32 a with
  | .nan => free
  | .inf s => if s then BitVec.ofNat 64 (2 ^ 63) else BitVec.ofNat 64 (2 ^ 63 - 1)
  | .fin s m e =>
    let n := if 0 ≤ e then m * 2 ^ e.toNat else m >>> (-e).toNat
    if s then (if n ≥ 2 ^ 63 then BitVec.ofNat 64 (2 ^ 63) else -(BitVec.ofNat 64 n))
    else (if n ≥ 2 ^ 63 then BitVec.ofNat 64 (2 ^ 63 - 1) else BitVec.ofNat 64 n)

/-- Sum of FP32 values in a pairwise balanced tree (R101, R207). `n` bounds the levels. -/
def pairSum : List W32 → List W32
  | a :: b :: r => fadd a b :: pairSum r
  | r => r

def treeSum : Nat → List W32 → W32
  | 0, l => l.headD 0
  | n + 1, l => treeSum n (pairSum l)

/-! ### Format codes (Table 8.1) -/

/-- The formats by their codes. -/
inductive Code where
  | fp (f : Fmt)
  | int8
  | mx (f : Fmt)
  | raw (bytes : Nat)
  | reserved
  deriving DecidableEq, Repr

def fmtCode (c : Nat) : Code :=
  match c with
  | 0 => .fp fmt32
  | 1 => .fp fmtBf
  | 2 => .fp fmt16
  | 3 => .fp fmtE4M3
  | 4 => .fp fmtE5M2
  | 5 => .int8
  | 6 => .mx fmtE4M3
  | 7 => .mx fmtE5M2
  | 8 => .mx fmtE2M3
  | 9 => .mx fmtE3M2
  | 10 => .mx fmtE2M1
  | 11 => .raw 1
  | 12 => .raw 2
  | 13 => .raw 4
  | _ => .reserved

/-- Bits of one element. -/
def codeBits (c : Nat) : Nat :=
  match fmtCode c with
  | .fp f => f.width
  | .int8 => 8
  | .mx f => f.width
  | .raw b => 8 * b
  | .reserved => 0

/-- Codes 0x8 to 0xA are level 2 (Table 8.1). -/
def codeLevel2 (c : Nat) : Bool := 8 ≤ c && c ≤ 10

def isBlock (c : Nat) : Bool := 6 ≤ c && c ≤ 10
def isNumeric (c : Nat) : Bool := c ≤ 10
def isRaw (c : Nat) : Bool := 11 ≤ c && c ≤ 13

/-- Packed bytes of n elements (R222). -/
def packedBytes (c n : Nat) : Nat := (n * codeBits c + 7) / 8

/-- Stride of a row of a table: packed elements, scales of blocks of 32 for a block-scaled format, rounded up to four
bytes (R161, R223). -/
def rowStride (c n : Nat) : Nat := roundUp (packedBytes c n + (if isBlock c then n / 32 else 0)) 4

/-- Element i of packed bytes (R222). -/
def unpack (c : Nat) (bs : List Byte) (i : Nat) : Nat :=
  let w := codeBits c
  leNat ((bs.drop (i * w / 8)).take 8) >>> (i * w % 8) % 2 ^ w

/-- Elements packed in increasing order (R222). -/
def packEls (c : Nat) (els : List Nat) : List Byte :=
  let w := codeBits c
  leBytes (packedBytes c els.length) (els.reverse.foldl (fun a e => a * 2 ^ w + e % 2 ^ w) 0)

/-- The exact value of an element with its block's scale code, 0xFF making it NaN (R226). -/
def elVal (c : Nat) (code scale : Nat) : Val :=
  match fmtCode c with
  | .fp f => f.val code
  | .int8 => .fin (code.testBit 7) (BitVec.ofNat 8 code).toInt.natAbs 0
  | .mx f => if scale = 255 then .nan else (f.val code).scale ((scale : Int) - 127)
  | _ => .fin false (code % 2 ^ codeBits c) 0

/-- An element widened to FP32 and whether a finite element became infinite (R226). fp32 is taken bit for bit and a
bf16 value by appending zeros. -/
def widen32 (c code scale : Nat) : W32 × Bool :=
  if c = 0 then (toW code, false)
  else if c = 1 then (toW (code * 65536), false)
  else
    let v := elVal c code scale
    let w := round32 v
    (w, nonfin w && (match v with | .fin .. => true | _ => false))

/-- An element widened to BF16 (R226). -/
def widenBf (c code scale : Nat) : Nat × Bool :=
  let v := elVal c code scale
  let w := fmtBf.enc false v
  (w, fmtBf.nonfinite w && (match v with | .fin .. => true | _ => false))

/-- What a narrowing counts: saturations and non-finite elements (R227, R228). -/
structure Counts where
  sat : Nat
  nonfin : Nat
  deriving DecidableEq, Repr

def Counts.zero : Counts := ⟨0, 0⟩
def Counts.add (a b : Counts) : Counts := ⟨a.sat + b.sat, a.nonfin + b.nonfin⟩

/-- A finite or infinite FP value narrowed into a format that is not block-scaled (R227, R228, Table 8.4). -/
def narrowFmt (f : Fmt) (r : Rounding) (v : Val) : Nat × Counts :=
  match v with
  | .nan => (f.nanCode, ⟨0, 1⟩)
  | .inf s => ((match f.inf with | some i => f.signed s i | none => f.nanCode), ⟨0, 1⟩)
  | .fin s m e =>
    let c := f.roundMag r m e false
    if c > f.top then (f.signed s f.top, ⟨1, 0⟩) else (f.signed s c, Counts.zero)

/-- A value narrowed to INT8 (R227, Table 8.4). -/
def narrowInt8 (r : Rounding) (v : Val) : Nat × Counts :=
  match v with
  | .nan => (0, ⟨0, 1⟩)
  | .inf s => (if s then 128 else 127, ⟨0, 1⟩)
  | .fin s m e =>
    let n := roundGrid r m e false 0
    if s then (if n > 128 then (128, ⟨1, 0⟩) else ((256 - n) % 256, Counts.zero))
    else (if n > 127 then (127, ⟨1, 0⟩) else (n, Counts.zero))

/-- A value narrowed to the format of a code, not block-scaled. -/
def narrow (c : Nat) (r : Rounding) (v : Val) : Nat × Counts :=
  match fmtCode c with
  | .fp f => narrowFmt f r v
  | .int8 => narrowInt8 r v
  | _ => (0, Counts.zero)

/-- Exponent of the largest finite value of a block-scaled element format (R232). -/
def emaxOf (f : Fmt) : Int := (f.top >>> f.frac : Nat) - f.bias

/-- |x| as an exact magnitude, none when it is not finite. -/
def Val.mag : Val → Option (Nat × Int)
  | .fin _ m e => some (m, e)
  | _ => none

/-- The larger of two magnitudes. -/
def magMax (a b : Nat × Int) : Nat × Int :=
  let e := min a.2 b.2
  if a.1 * 2 ^ (a.2 - e).toNat < b.1 * 2 ^ (b.2 - e).toNat then b else a

/-- The scale code of a block (R232). -/
def blockScale (f : Fmt) (xs : List Val) : Nat :=
  if xs.any fun v => v.mag = none then 255
  else
    let a := xs.foldl (fun acc v => magMax acc (v.mag.getD (0, 0))) (0, 0)
    if a.1 = 0 then 127
    else
      let e0 : Int := (Nat.log2 a.1 : Int) + a.2 - emaxOf f
      let e1 := if f.roundMag .nearest a.1 (a.2 - e0) false ≤ f.top then e0 else e0 + 1
      ((if e1 < -127 then -127 else e1) + 127).toNat

/-- A block narrowed: its element codes, its scale code and its counts (R228, R232). -/
def narrowBlock (f : Fmt) (rs : List Rounding) (xs : List Val) : List Nat × Nat × Counts :=
  let c := blockScale f xs
  if c = 255 then
    (xs.map fun _ => 0, 255, ⟨0, (xs.filter fun v => v.mag = none).length⟩)
  else
    let ys := List.zipWith (fun r v => narrowFmt f r (v.scale (127 - (c : Int)))) rs xs
    (ys.map (·.1), c, ys.foldl (fun a y => a.add y.2) Counts.zero)

end Sys2Proof.Machine
end

