-- ==== Sys2Proof/Machine/Ops.lean ====
section
/-! DEFINITION. Named operations over the state: units by number, timers, the spill log, messages, counters, the end
of a parcel, address translation and memory accesses. -/

namespace Sys2Proof.Machine

open Sys2Proof

abbrev Out := Host.Outcome State Fault Refusal

/-- The outcome of every command of this model: a next state. -/
def go (s : State) : Out := .next s

/-! ### Units by number -/

def State.ctx (s : State) (c : Nat) : Ctx := s.ctxs.get Ctx.reset c
def State.setCtx (s : State) (c : Nat) (v : Ctx) : State := { s with ctxs := s.ctxs.put c v }
def State.modCtx (s : State) (c : Nat) (f : Ctx → Ctx) : State := s.setCtx c (f (s.ctx c))
def State.modRegs (s : State) (c : Nat) (f : CtRegs → CtRegs) : State :=
  s.modCtx c fun x => { x with regs := f x.regs }
def State.modSeal (s : State) (c : Nat) (f : SealCtx → SealCtx) : State :=
  s.modCtx c fun x => { x with sealed := f x.sealed }

def Who.key (w : Who) : Nat := 4 * w.core + w.slot
def State.task (s : State) (w : Who) : Option Task := s.tasks.find (Who.key w)
def State.setTask (s : State) (w : Who) (v : Task) : State := { s with tasks := s.tasks.put (Who.key w) v }
def State.dropTask (s : State) (w : Who) : State :=
  { s with tasks := s.tasks.del (Who.key w), loose := s.loose.filter fun o => o.who ≠ w }
def State.modTask (s : State) (w : Who) (f : Task → Task) : State :=
  match s.task w with
  | some t => s.setTask w (f t)
  | none => s

def keyWho (k : Nat) : Who := ⟨k / 4, k % 4⟩
def Who.die (w : Who) : Nat := w.core / 64

def State.core (s : State) (c : Nat) : Core := s.cores.get Core.reset c
def State.modCore (s : State) (c : Nat) (f : Core → Core) : State := { s with cores := s.cores.put c (f (s.core c)) }
def State.die (s : State) (d : Nat) : Die := s.dies.get Die.reset d
def State.modDie (s : State) (d : Nat) (f : Die → Die) : State := { s with dies := s.dies.put d (f (s.die d)) }
def State.tally (s : State) (n : Nat) : Tally := s.tallies.get Tally.reset n
def State.modTally (s : State) (n : Nat) (f : Tally → Tally) : State :=
  { s with tallies := s.tallies.put n (f (s.tally n)) }
def State.slot (s : State) (n : Nat) : CheckSlot := s.slots.get CheckSlot.reset n
def State.modSlot (s : State) (n : Nat) (f : CheckSlot → CheckSlot) : State :=
  { s with slots := s.slots.put n (f (s.slot n)) }
def State.port (s : State) (p : Nat) : Port := s.links.ports.get Port.reset p
def State.modPort (s : State) (p : Nat) (f : Port → Port) : State :=
  { s with links := { s.links with ports := s.links.ports.put p (f (s.port p)) } }

/-- The parcel of a context with a host sequence, if it is accepted and not finished. -/
def State.parcel (s : State) (c : Nat) (h : W32) : Option Parcel := (s.ctx c).parcels.find? fun p => p.hostSeq = h

/-- Changes one parcel. -/
def State.modParcel (s : State) (c : Nat) (h : W32) (f : Parcel → Parcel) : State :=
  s.modCtx c fun x => { x with parcels := x.parcels.map fun p => if p.hostSeq = h then f p else p }

/-- The tasks on a core: slots and tasks in slot order. -/
def State.coreTasks (s : State) (c : Nat) : List (Who × Task) :=
  (s.tasks.filter fun e => e.1 / 4 = c).map fun e => (keyWho e.1, e.2)

/-- The module accepts work: Active or Still (Table 15.8). -/
def State.active (s : State) : Bool := s.power.phase = .active

/-! ### Interval timers (R48, R49) -/

/-- Reads die d's interval timer: it has advanced by a free number of ticks since it was read last. -/
def readTimer (d : Nat) (s : State) : Nat × State :=
  let t := (s.die d).ticks + Config.elapsed s.freeCount d
  (t, { s.modDie d (fun x => { x with ticks := t }) with freeCount := s.freeCount + 1 })

/-- A timer-value or duration stamp of die d (R49). -/
def stamp (d ticks : Nat) : Word := BitVec.ofNat 64 (d * 2 ^ 60 + ticks % 2 ^ 60)

/-! ### Messages (R24, R36, R56) -/

/-- Fires an MSI-X vector. -/
def fireMsix (v : Nat) (s : State) : State := { s with hg := { s.hg with msix := s.hg.msix ++ [v] } }

/-- IOD0's I/O ring is powered, so that ALERT# and READY are driven (R24). -/
def ringUp (s : State) : Bool :=
  match s.power.phase with
  | .off | .romStarted | .imageVerified | .deep | .recovery | .charging => false
  | .converted | .locked | .computing | .initialised | .active | .enteringDrowse | .drowse | .leavingDrowse => true

/-- Raises a sideband alert (R24, R402): the keeper holds it; ALERT# is asserted while its ring is powered, and otherwise
the alert goes out by in-band interrupt. A sideband that has taken no dynamic address has fallen back to SMBus, where
nothing is signalled then (log entry 49). -/
def raiseAlert (s : State) : State :=
  { s with
    keeper := { s.keeper with
      alerts := s.keeper.alerts + 1, alertHeld := true
      inBand := s.keeper.inBand + b2n (!ringUp s && s.keeper.dynamicAddr) }
    power := { s.power with alert := s.power.alert || ringUp s } }

/-- Adds an answer to those sent. -/
def reply (a : Answer) (s : State) : State :=
  { s with keeper := { s.keeper with answers := s.keeper.answers ++ [a] } }

/-! ### The spill log: reporting (R427 to R432) -/

/-- A record with the fields its class leaves out at zero. -/
def Spill.of (cls die severity : Nat) : Spill :=
  ⟨cls, die, severity, 0, 0, none, 0, 1, 0, 0, 0, 0, 0, 0⟩

/-- Two records have one signature (R427). -/
def Spill.same (a b : Spill) : Bool :=
  a.cls = b.cls && a.die = b.die && a.kind = b.kind && a.index = b.index && a.context = b.context
    && a.address = b.address

/-- Puts a report into a staging buffer: coalesced, added, or lost when 64 entries are in use (R429, R430). -/
def stageIn (r : Spill) : List Spill → Nat → Option (List Spill)
  | [], free => if free = 0 then none else some [r]
  | e :: es, free =>
    if e.same r then some ({ e with count := min (2 ^ 32 - 1) (e.count + 1), last := r.last,
                                    severity := max e.severity r.severity } :: es)
    else (stageIn r es (free - 1)).map (e :: ·)

/-- Reports an event at its die (R429, R430, R432). -/
def report (r0 : Spill) (s0 : State) : State :=
  let (t, s) := readTimer r0.die s0
  let r := { r0 with first := t, last := t, step := BitVec.ofNat 32 s.dg.steps }
  let log := { s.log with classes := s.log.classes.bump r.cls 1 }
  let log := match stageIn r (log.staging.get [] r.die) 64 with
    | some l => { log with staging := log.staging.put r.die l }
    | none => { log with overflow := log.overflow.bump r.die 1 }
  let log := if r.severity = 3 then
      { log with last := some r, first := if log.first.isSome then log.first else some r }
    else log
  { s with log := log }

/-! ### Numeric counters and events (R238, R239) -/

/-- The die a task's numeric event names. -/
def numericEvent (ctx : Nat) (h : W32) (die : Nat) (z : W32) (d1 : Nat) (s : State) : State :=
  report { Spill.of 3 die 0 with context := some ctx, hostSeq := h, detail0 := z.zeroExtend 64,
                                 detail1 := BitVec.ofNat 64 d1 } s

/-- Adds to CT_SAT and CT_NONFINITE; the first non-finite count of a parcel raises a numeric event (R238, R239). -/
def countNum (ctx : Nat) (h : W32) (die : Nat) (c : Counts) (s : State) : State :=
  if c.sat = 0 && c.nonfin = 0 then s
  else
    let s1 := s.modRegs ctx fun r =>
      { r with sat := satAdd top48 r.sat c.sat, nonfinite := satAdd top48 r.nonfinite c.nonfin }
    if c.nonfin = 0 then s1
    else
      let had := match s1.parcel ctx h with | some p => p.nonfinite | none => true
      let s2 := s1.modParcel ctx h fun p => { p with nonfinite := true }
      if had then s2 else numericEvent ctx h die 0 6 s2

/-! ### Samplers (R153) -/

/-- The in-field test under way is of this unit (R452). -/
def State.inBist (s : State) (kind index : Nat) : Bool :=
  s.fence.bistBusy && s.fence.testKind = kind && s.fence.testIndex = index

/-- The unit is on the fence list (R450). -/
def listed (s : State) (kind index : Nat) : Bool :=
  s.keeper.fenceList.any fun e => decide (e.kind = kind) && decide (e.index = index)

/-- The PLL of a clock domain is locked, and the domain is not fenced (R47). -/
def clockGood (s : State) (domain : Nat) : Bool := (s.fence.pllBad.find domain).isNone && !listed s 15 domain

/-- Samplers in service of a compute die (R153). -/
def liveSamplers (s : State) (d : Nat) : List Nat :=
  ((List.range 4).map (4 * d + ·)).filter fun k => !s.sm.fenced.getLsbD k && !s.inBist 2 k

/-- The sampler of die d that takes a group of work: one of those in service, left free by the spec (log entry 16). -/
def samplerFor (s : State) (d group : Nat) : Nat :=
  (liveSamplers s d).getD ((Config.freeWord s.freeCount group).toNat % max 1 (liveSamplers s d).length) (4 * d)

/-! ### Faults of a parcel -/

/-- What stops a parcel: an access violation with its access, cause and address (R82); another status with the
record's address field; a metadata fault of a sampler or engine (R128, R192); a stale weight version (R265); a
contribution that this module refuses (R281); a detected error, which leaves the parcel's step dirty (R424); a part of the
flash map that is not there yet, which stops nothing: the access waits (R315, R399). -/
inductive Bad where
  | violation (access cause addr : Nat)
  | status (code addr : Nat)
  | smMeta (check addr : Nat)
  | slMeta (check addr unit : Nat)
  | emMeta (addr : Nat)
  | stale (addr tag record : Nat)
  | refused (va record rank die : Nat) (full : Bool)
  | detected (e : DataErr)
  | unrouted (flits : Nat)
  | wait
  deriving DecidableEq, Repr

/-- A violation that an engine meets in the rows, arrays and pages that it reads and writes has no task: the fetch of an instruction
and the registers it names are the task's own (R82; log entry 54). -/
def Bad.byEngine (b : Bad) : Bool :=
  match b with
  | .violation access _ _ => access ≠ 2 && access ≠ 5
  | _ => false

/-- Fills the fault record, or counts the violation while one is held (R82). -/
def recordFault (ctx : Nat) (who : Option Who) (pc : Word) (h : W32) (access cause addr : Nat) (s : State) : State :=
  s.modCtx ctx fun x =>
    if x.fault.valid then { x with fault := { x.fault with more := satAdd 4095 x.fault.more 1 } }
    else
      let w := who.getD ⟨0, 0⟩
      { x with fault := { valid := true, address := BitVec.ofNat 64 addr, pc := if who.isSome then pc else 0,
                          access := BitVec.ofNat 3 access, cause := BitVec.ofNat 4 cause,
                          core := BitVec.ofNat 9 w.core, slot := BitVec.ofNat 2 w.slot, noTask := who.isNone,
                          hostSeq := h, more := 0 } }

/-- Tag belongs to a parcel. -/
def Tag.ofParcel (t : Tag) (c : Nat) (h : W32) : Bool := t.ctx = c && t.hostSeq = h

/-- Removes the waiters that `out` picks from every queue; later signals pass to the next waiter (R332). -/
def removeWaiters (out : Waiter → Bool) (s : State) : State :=
  { s with tallies := s.tallies.map fun e =>
      let q := e.2.queue.filter fun w => !out w
      (e.1, { e.2 with queue := q, lease := e.2.lease && !q.isEmpty }) }

/-- Ends the tasks, saved tasks, asynchronous work and waits that `gone` picks by context and host sequence, without
a record: their tags are abandoned (R87), their grants in flight discarded and counted (R332), their operations on
the way to a tally unit dropped, and their held writes discarded, while the copies that those wait for go on (R437). Direct
writes queued for a moving row have left their parcel, and are applied with the row (R373). -/
def endWork (gone : Nat → W32 → Bool) (s : State) : State :=
  let lost := (s.grants.filter fun g => g.ofTally && gone g.ctx g.hostSeq).length
    + ((s.saved.filter fun o => gone o.ctx o.hostSeq).map fun o =>
        (o.tasks.filter fun t => t.2.2 && t.2.1.status ≠ .ready).length).sum
  let s1 := removeWaiters (fun w => gone w.ctx w.hostSeq) s
  let keep := fun (t : Task) => !gone t.ctx t.hostSeq
  let out := (s.ops.filter fun o => gone o.ctx o.hostSeq).map (·.id)
  { s1 with
    tasks := s1.tasks.filter fun e => keep e.2
    saved := s1.saved.filter fun o => !gone o.ctx o.hostSeq
    ops := s1.ops.filter fun o => !gone o.ctx o.hostSeq
    loose := s1.loose.filter fun o => !gone o.ctx o.hostSeq
    tags := s1.tags.map fun t => if gone t.ctx t.hostSeq then { t with abandoned := true } else t
    inflight := s1.inflight.filter fun m => !gone m.ctx m.hostSeq
    grants := s1.grants.filter fun g => !gone g.ctx g.hostSeq
    cores := s1.cores.map fun e => (e.1, { e.2 with mxmQueue := e.2.mxmQueue.filter fun i => !out.contains i })
    slots := s1.slots.map fun e =>
      let stay := fun (w : Who × W32) => match s.task w.1 with
        | some t => keep t || t.hostSeq ≠ w.2
        | none => true
      (e.1, { e.2 with heldNow := e.2.heldNow.filter stay, heldNext := e.2.heldNext.filter stay })
    merge := { s1.merge with moves := s1.merge.moves.map fun m =>
      { m with writes := m.writes.map fun q => match q.hostSeq with
          | some h => if gone m.ctx h then { q with hostSeq := none, who := none } else q
          | none => q } }
    dg := { s1.dg with held := s1.dg.held.map fun w =>
      match w.hostSeq with
      | some h => if gone w.ctx h then { w with bytes := 0, cells := [], hostSeq := none, who := none } else w
      | none => w }
    tl := { s1.tl with lostGrants := satAdd top48 s1.tl.lostGrants lost } }

/-- Frees the cores that hold no task any more of their footprint; a save of one is over or stopped (R114). -/
def freeCores (s : State) : State :=
  { s with cores := s.cores.map fun e =>
      if s.tasks.any fun t => t.1 / 4 = e.1 then e else (e.1, { e.2 with footprint := none, saving := false }) }

/-- Ends a parcel with a failure: the first failure met stands (R78), and every task the parcel started ends with it
(R82). Its record is queued when PARCEL_FINISH takes it. -/
def endParcel (ctx : Nat) (h : W32) (status addr : Nat) (s : State) : State :=
  let s1 := s.modParcel ctx h fun p =>
    { p with failure := some (p.failure.getD status), unplaced := [], running := 0,
             address := if p.failure.isSome then p.address else BitVec.ofNat 64 addr }
  freeCores (endWork (fun c x => decide (c = ctx) && decide (x = h)) s1)

/-! ### Fenced memory (R295, R317, R452) -/

/-- Flash channel that holds a sector: where the module placed it last, else where the FTL keeps it (R315). -/
def sectorChannel (s : State) (sector : Nat) : Nat :=
  (s.mt.placed.find sector).getD (Config.flashChannel sector % 32)

/-- An address of a tier lies in a fenced frame, pseudo-channel or channel. -/
def memFenced (s : State) (t : Tier) (a : Nat) : Bool :=
  match t with
  | .near => ((s.mt.fenceNear.get 0 (a / 2 ^ 37)).getLsbD (a / 2 ^ 31 % 64)) || s.mt.framesNear.contains (a / 65536)
      || s.inBist 10 (a / 2 ^ 31)
  | .far => s.mt.fenceFar.getLsbD (a / 2 ^ 36) || s.mt.framesFar.contains (a / 65536) || s.inBist 12 (a / 2 ^ 36)
  | .host => false
  | .flash => s.mt.fenceFlash.getLsbD (sectorChannel s (a / 4096)) || s.inBist 14 (sectorChannel s (a / 4096))

/-- A range within one frame, or of sectors, meets a fenced frame, pseudo-channel or channel. -/
def rangeFenced (s : State) (t : Tier) (a n : Nat) : Bool :=
  if t = .flash then (List.range ((a + n + 4095) / 4096 - a / 4096)).any fun k => memFenced s t (a / 4096 * 4096 + 4096 * k)
  else memFenced s t a

/-! ### Stored errors (R316, R424, Table 11.8) -/

/-- A write of n bytes at a meets a range. -/
def overlaps (a n : Nat) (r : Nat × Nat) : Bool := decide (a < r.1 + r.2) && decide (r.1 < a + n)

/-- Source of a tier's errors (Table 16.3), and the bytes of one granule (Table 11.8). -/
def tierSource : Tier → Nat
  | .near => 1 | .far => 2 | .flash => 3 | .host => 4
def tierGranule (t : Tier) : Nat := if t = .flash then 4096 else 32

/-- The first address of a range that lies in data which fails its check. -/
def storeErr (s : State) (t : Tier) (a n : Nat) : Option Nat :=
  let g := tierGranule t
  let bad := (s.errs.filterMap fun e => if e.source = tierSource t then some e.place else none)
    ++ (if t = .flash then s.mt.badSectors else [])
  ((bad.filter fun p => overlaps a n (p * g, g)).map fun p => max a (p * g)).min?

/-- The first word of a range of a core's cistern that fails its parity. -/
def wordErr (s : State) (core a n : Nat) : Bool :=
  s.errs.any fun e => e.source = 5 && e.unit = core && overlaps a n (4 * e.place, 4)

/-- An error at an address of near or far memory is not attributable to one frame. -/
def wholeBank (s : State) (t : Tier) (a : Nat) : Bool :=
  s.errs.any fun e => e.source = tierSource t && e.unit = 1 && e.place = a / 32

/-- The error of a read at a tier address: the unit charged, and its die (Tables 11.8 and 16.1). -/
def tierErr (s : State) (va : Nat) (t : Tier) (a : Nat) : DataErr :=
  match t with
  | .near =>
    if wholeBank s t a then ⟨1, 10, a / 2 ^ 31, a / 2 ^ 37, va, some (t, a)⟩ else ⟨1, 9, a / 65536, a / 2 ^ 37, va, some (t, a)⟩
  | .far =>
    let die := 8 + a / 2 ^ 36 / 32
    if wholeBank s t a then ⟨2, 12, a / 2 ^ 36, die, va, some (t, a)⟩ else ⟨2, 11, a / 65536, die, va, some (t, a)⟩
  | .host => ⟨4, 17, 0, 8, va, some (t, a)⟩
  | .flash =>
    let ch := sectorChannel s (a / 4096)
    ⟨3, 13, 2 ^ 24 * ch + (Config.freeWord s.freeCount (a / 4096)).toNat % 2 ^ 24, 8 + ch / 16, va, some (t, a)⟩

/-- The error of a core's cistern, array or of a unit's buffer (Table 16.1). -/
def coreErr (source core : Nat) : DataErr := ⟨source, 1, core, core / 64, 0, none⟩
def bufferErr (kind index die : Nat) : DataErr := ⟨7, kind, index, die, 0, none⟩

/-- The buffer of a unit holds an error. -/
def bufferBad (s : State) (kind index : Nat) : Bool := s.errs.contains ⟨7, kind, index⟩

/-- The clock domain of the memory channel that serves an address. Domains are 256 times their row of Table 2.2 and their
instance. -/
def channelDomain (s : State) (t : Tier) (a : Nat) : Option Nat :=
  match t with
  | .far => some (256 + a / 2 ^ 36)
  | .flash => some (512 + sectorChannel s (a / 4096))
  | _ => none

/-- That domain, while its PLL is unlocked (R47, Table 2.3). -/
def channelDown (s : State) (t : Tier) (a : Nat) : Option Nat :=
  (channelDomain s t a).filter fun i => (s.fence.pllBad.find i).isSome

/-- Such a domain of a range within one frame, or of sectors. -/
def rangeDown (s : State) (t : Tier) (a n : Nat) : Option Nat :=
  if t = .flash then (List.range ((a % 4096 + n + 4095) / 4096)).findSome? fun k => channelDown s t (a / 4096 * 4096 + 4096 * k)
  else channelDown s t a

/-- The detected error of a request to a channel without its clock (Table 2.3). -/
def clockErr (domain va : Nat) : DataErr := ⟨10, 15, domain, 8, va, none⟩

/-- The part of the map that a sector's entry lies in is not loaded yet, or lost and not rebuilt (R315, R399). -/
def mapLost (s : State) (sector : Nat) : Bool :=
  !s.mt.mapReady || (s.mt.rebuilding && s.mt.mapFence.getLsbD (Config.mapChannel sector % 64))

/-- A read of a range that a translation has given passes its check. A sector whose map entry is missing is waited for. -/
def checkStore (s : State) (va : Nat) (t : Tier) (a n : Nat) : Except Bad Unit :=
  if t = .flash && (List.range ((a % 4096 + n + 4095) / 4096)).any fun k => mapLost s (a / 4096 + k) then .error .wait
  else
    match rangeDown s t a n with
    | some i => .error (.detected (clockErr i va))
    | none =>
      match storeErr s t a n with
      | none => .ok ()
      | some b => .error (.detected (tierErr s (va + (b - a)) t b))

/-- Data written anew carries a good code (R316): what lies wholly in the range is good again. -/
def clearErrs (source : Nat) (unit : Nat → Bool) (g a n : Nat) (s : State) : State :=
  { s with errs := s.errs.filter fun e =>
      !(e.source = source && unit e.unit && decide (a ≤ e.place * g) && decide (e.place * g + g ≤ a + n)) }

/-- What strikes the stored data while the module idles (log entry 50). -/
def strike (s : State) : State :=
  { s with freeCount := s.freeCount + 1
           errs := s.errs ++ (Config.strikes s.freeCount).map fun e => ⟨e.1, if e.1 < 3 then min 1 e.2.1 else if e.1 < 5 then 0 else e.2.1, e.2.2⟩ }

/-! ### Translation (R297 to R303) -/

/-- What an access does with its page (Table 11.4), the tiers it may reach, and the stash records it is bound to: address
and bytes (R264). -/
structure Use where
  access : Nat           -- 0 read, 1 write, 2 fetch, 3 reduce-write (Table 3.22)
  tiers : List Tier
  binds : List (Nat × List Byte)
  deriving DecidableEq, Repr

/-- An access that reads each stash record as it stands. -/
def Use.of (access : Nat) (tiers : List Tier) : Use := ⟨access, tiers, []⟩

def Use.isWrite (u : Use) : Bool := u.access = 1 || u.access = 3
def anyTier : List Tier := [.near, .far, .host, .flash]
def nearFar : List Tier := [.near, .far]
def nearFarHost : List Tier := [.near, .far, .host]
def useRead : Use := Use.of 0 anyTier
def useWrite : Use := Use.of 1 nearFarHost

/-- A range of a near or far space passes its tier's end or enters a reserved range of R296. -/
def badRange (t : Tier) (a n : Nat) : Bool :=
  match t with
  | .near => a + n > 2 ^ 40
  | .far => a + n > 2 ^ 42 || (a % 2 ^ 36) + n > 0xFBF000000
  | _ => false

/-- Where a walk ends: a page, or a window of a kind with its size and record. -/
inductive WalkEnd where
  | page (t : Tier) (a : Nat) (ats : Bool)
  | window (stash : Bool) (log2 : Nat) (record : Nat)
  deriving DecidableEq, Repr

/-- Span of an entry, log2, at a level (Table 11.2). -/
def spanLog2 (level : Nat) : Nat :=
  match level with
  | 0 => 48 | 1 => 39 | 2 => 30 | 3 => 21 | _ => 16

/-- Size of a table of a level (Table 11.2). -/
def tableSize (level : Nat) : Nat := if level = 4 then 256 else 4096

def tierOf (n : Nat) : Tier :=
  match n with
  | 0 => .near | 1 => .far | 2 => .host | _ => .flash

/-- An entry of a table as a walk reads it: a table in a fenced frame ends the walk with FENCED_RESOURCE, and an entry that
fails its code is a detected error (R316, R317). -/
def tableEntry (s : State) (a : Nat) (t : Tier) (at' : Nat) : Except Bad Nat := do
  if memFenced s t at' then .error (.status 13 0) else .ok ()
  checkStore s a t at' 8
  return leNat (Memory.bytes (s.mem.tier t) at' 8)

/-- One walk from a table of a level; `fuel` is the levels left (R299). -/
def walk (s : State) (u : Use) (a : Nat) : Nat → Tier → Nat → Nat → Except Bad WalkEnd
  | 0, _, _, _ => .error (.violation u.access 4 a)
  | fuel + 1, t, tab, level => do
    let fault := fun (cause : Nat) => (.error (.violation u.access cause a) : Except Bad WalkEnd)
    let sp := spanLog2 level
    let idx := a / 2 ^ sp % (if level = 4 then 32 else 512)
    let e ← tableEntry s a t (tab + 8 * idx)
    if e % 2 = 0 then fault 0
    else
      match bitsN e 2 1 with
      | 0 =>
        let nt := if bitN e 3 then Tier.far else .near
        let na := e / 256 * 256
        if bitsN e 7 4 ≠ 0 then fault 4
        else if level = 4 then fault 4
        else if na % tableSize (level + 1) ≠ 0 || badRange nt na (tableSize (level + 1)) then fault 4
        else walk s u a fuel nt na (level + 1)
      | 1 =>
        let pt := tierOf (bitsN e 4 3)
        let fr := e / 65536 * 65536
        if bitsN e 15 9 ≠ 0 || (bitN e 8 && pt ≠ .host) then fault 4
        else if level < 2 || fr % 2 ^ sp ≠ 0 then fault 4
        else if badRange pt fr (2 ^ sp) || (pt = .flash && fr + 2 ^ sp > 4096 * s.mt.capSectors) then fault 4
        else if (u.access = 0 && !bitN e 5) || (u.isWrite && !bitN e 6) || (u.access = 2 && !bitN e 7) then fault 1
        else if !u.tiers.contains pt then fault 2
        else .ok (.page pt (fr + a % 2 ^ sp) (bitN e 8))
      | k =>
        if bitsN e 12 9 ≠ 0 then fault 4
        else
          let w := bitsN e 8 3
          if w < sp then fault 4
          else if k = 2 && (w < 24 || w > 48) then fault 4
          else if k = 3 && (w < 16 || w > 56) then fault 4
          else .ok (.window (k = 2) w (e / 2 ^ 13 * 64 % 2 ^ 57))

/-- A whole walk for a context (R297, R299). -/
def walkFrom (s : State) (ctx : Nat) (u : Use) (a : Nat) : Except Bad WalkEnd :=
  if a ≥ 2 ^ 57 then .error (.violation u.access 6 a)
  else
    let r := (s.ctx ctx).regs.ptRoot.toNat
    walk s u a 5 (if r % 2 = 1 then .far else .near) (r / 4096 * 4096) 0

/-- A page's address after ATS, where the page asks for it (R303). -/
def atsAddr (s : State) (u : Use) (t : Tier) (a : Nat) (ats : Bool) : Except Nat (Tier × Nat) :=
  if t = .host && ats then
    match Config.atsTranslate s.freeCount a u.isWrite with
    | some b => .ok (t, b)
    | none => .error 3
  else .ok (t, a)

/-- A translation that must end at a page (R263, R299: windows do not nest). -/
def translatePage (s : State) (ctx : Nat) (u : Use) (a : Nat) : Except Bad (Tier × Nat) :=
  match walkFrom s ctx u a with
  | .error b => .error b
  | .ok (.window ..) => .error (.violation u.access 4 a)
  | .ok (.page t b ats) =>
    match atsAddr s u t b ats with
    | .error c => .error (.violation u.access c a)
    | .ok (t', b') => if memFenced s t' b' then .error (.status 13 0) else .ok (t', b')

/-- Bytes at a device virtual address that lie within one page, read for the module's own use. -/
def readAt (s : State) (ctx : Nat) (a n : Nat) : Except Bad (List Byte) := do
  let (t, b) ← translatePage s ctx (Use.of 0 nearFar) a
  checkStore s a t b n
  return Memory.bytes (s.mem.tier t) b n

/-- a precedes or equals b with 8-bit serial numbers (R263). -/
def tagOld (t newest : Nat) : Bool := t = newest || ((newest + 256 - t) % 256 < 128 && t ≠ newest)

/-- A stash window's address (R263). -/
def stashAddr (s : State) (ctx : Nat) (u : Use) (a log2 rec : Nat) : Except Bad (Tier × Nat) := do
  let bs ← match u.binds.find? fun e => e.1 = rec with
    | some e => .ok e.2
    | none => readAt s ctx rec 64
  let w := leNat bs
  let k := bitsN w 29 24
  let tag := fun i => bitsN w (39 + 8 * i) (32 + 8 * i)
  let live := fun i => bitN w (16 + i)
  let newest := bitsN w 15 8
  let lives := (List.range 4).filter live
  let bad := .violation u.access 4 rec
  if bitsN w 3 0 ≠ 2 || bitsN w 7 4 ≠ 0 || bitsN w 23 20 ≠ 0 || bitsN w 31 30 ≠ 0 || bitsN w 127 64 ≠ 0
      || bitsN w 511 384 ≠ 0 || k < 16 || k > 40 || k + 8 ≠ log2
      || !(lives.map tag).Nodup || !(lives.map tag).contains newest then .error bad
  else
    let win := a / 2 ^ log2 * 2 ^ log2
    let t := (a - win) / 2 ^ k % 256
    match lives.find? fun i => tag i = t with
    | some i => translatePage s ctx u (bitsN w (191 + 64 * i) (128 + 64 * i) + (a - win) % 2 ^ k)
    | none => if tagOld t newest then .error (.stale a t rec) else .error (.violation u.access 0 a)

/-- Where an address leads: memory, or a row of an embedding window (R272). -/
inductive Place where
  | mem (t : Tier) (a : Nat)
  | row (record window va : Nat)
  deriving DecidableEq, Repr

/-- The translation of a device virtual address (R299, R263, R272). -/
def translate (s : State) (ctx : Nat) (u : Use) (a : Nat) : Except Bad Place :=
  match walkFrom s ctx u a with
  | .error b => .error b
  | .ok (.page t b ats) =>
    match atsAddr s u t b ats with
    | .error c => .error (.violation u.access c a)
    | .ok (t', b') => if memFenced s t' b' then .error (.status 13 0) else .ok (.mem t' b')
  | .ok (.window true l r) => (stashAddr s ctx u a l r).map fun p => .mem p.1 p.2
  | .ok (.window false l r) => .ok (.row r (a / 2 ^ l * 2 ^ l) a)

/-- An address that must lead to memory: an access through an embedding window other than R272's faults with cause 2. -/
def translateMem (s : State) (ctx : Nat) (u : Use) (a : Nat) : Except Bad (Tier × Nat) := do
  match ← translate s ctx u a with
  | .mem t b => return (t, b)
  | .row .. => .error (.violation u.access 2 a)

/-- A piece of a range: tier, address, bytes. -/
abbrev Piece := Tier × Nat × Nat

/-- A range cut at 64 KiB boundaries and translated piece by piece by `tr`; `fuel` bounds the pieces. A piece that meets a
fenced sector beyond its first ends the access as one that meets a fenced frame (R317). -/
def piecesBy (s : State) (tr : Nat → Except Bad (Tier × Nat)) : Nat → Nat → Nat → Except Bad (List Piece)
  | 0, _, _ => .ok []
  | fuel + 1, a, n =>
    if n = 0 then .ok []
    else do
      let k := min n (65536 - a % 65536)
      let (t, b) ← tr a
      if rangeFenced s t b k then .error (.status 13 0) else .ok ()
      let r ← piecesBy s tr fuel (a + k) (n - k)
      return (t, b, k) :: r

/-- The pieces of a range that leads to memory. -/
def pieces (s : State) (ctx : Nat) (u : Use) : Nat → Nat → Nat → Except Bad (List Piece) := piecesBy s (translateMem s ctx u)

/-- The pieces of a range that must lie in pages, as the structures that a record names do (R299). -/
def pageRange (s : State) (ctx : Nat) (u : Use) (a n : Nat) : Except Bad (List Piece) :=
  piecesBy s (translatePage s ctx u) (n / 65536 + 2) a n

/-- The pieces of a whole range. -/
def range (s : State) (ctx : Nat) (u : Use) (a n : Nat) : Except Bad (List Piece) :=
  pieces s ctx u (n / 65536 + 2) a n

/-- The cells of pieces, with addresses counted from the first. -/
def readPieces (m : Mem) : List Piece → Nat → List Host.Cell
  | [], _ => []
  | (t, a, n) :: r, off => cellsShift off n 0 (Memory.slice (m.tier t) a n) ++ readPieces m r (off + n)

/-- The bytes of pieces. -/
def piecesBytes (m : Mem) (ps : List Piece) : List Byte := ps.flatMap fun p => Memory.bytes (m.tier p.1) p.2.1 p.2.2

/-- Every piece of a range from va on passes its check (R316). -/
def checkPieces (s : State) : Nat → List Piece → Except Bad Unit
  | _, [] => .ok ()
  | va, (t, a, n) :: r => do
    checkStore s va t a n
    checkPieces s (va + n) r

/-- Reads n bytes of device memory (R102, R299). -/
def devRead (s : State) (ctx : Nat) (u : Use) (a n : Nat) : Except Bad (List Byte) := do
  let ps ← range s ctx u a n
  checkPieces s a ps
  return piecesBytes s.mem ps

/-! ### Writes, and the frames of a seal (R437, R440) -/

/-- Who writes: a parcel of a context, and its task and asynchronous instruction where there is one. -/
structure Writer where
  ctx : Nat
  hostSeq : Option W32
  who : Option Who
  op : Option Nat
  deriving DecidableEq, Repr

/-- A unit of the module as a writer of a context, on no parcel's behalf. -/
def mergeWriter (ctx : Nat) : Writer := ⟨ctx, none, none, none⟩

/-- A parcel as a writer. -/
def parcelWriter (ctx : Nat) (h : W32) : Writer := ⟨ctx, some h, none, none⟩

/-- An asynchronous instruction as a writer, after its issue. -/
def AsyncOp.writer (o : AsyncOp) : Writer := ⟨o.ctx, some o.hostSeq, some o.who, some o.id⟩

/-- The digest engine of a frame (R439). -/
def digestDie (t : Tier) (frame : Nat) : Nat :=
  match t with
  | .near => frame / 2 ^ 21
  | _ => frame / 2 ^ 20 % 8

/-- The context whose committed seal has this frame as a member without a copy. -/
def uncopiedOwner (s : State) (t : Tier) (frame : Nat) : Option Nat :=
  (s.ctxs.find? fun e =>
    (e.2.sealed.state = .sealed || e.2.sealed.state = .dirty || e.2.sealed.state = .replaying)
      && e.2.sealed.frames.any fun f => f.tier = t && f.frame = frame && f.slot.isNone).map (·.1)

/-- A seal lapses (R440): no further copies, and the step can no longer be replayed. -/
def lapse (c cause : Nat) (frame : Nat) (s : State) : State :=
  let sl := (s.ctx c).sealed
  report { Spill.of 0xB 8 2 with context := some c, address := BitVec.ofNat 64 (frame * 65536),
                                 detail0 := BitVec.ofNat 64 cause, detail1 := sl.step.zeroExtend 64 }
    { s.modSeal c (fun x => { x with state := .lapsed }) with dg := { s.dg with lapses := satAdd top48 s.dg.lapses 1 } }

/-- Frames of a context whose copy is under way. -/
def copying (s : State) (c : Nat) : List (Tier × Nat) :=
  ((s.dg.held.map fun w => (w.tier, w.frame)).dedup).filter fun f => uncopiedOwner s f.1 f.2 = some c

/-- A write of n bytes at a tier address reaches a device range of a context. -/
def watched (s : State) (ctx : Nat) (t : Tier) (a n : Nat) (r : Nat × Nat) : Bool :=
  (List.range ((r.1 % 65536 + r.2 + 65535) / 65536)).any fun k =>
    let lo := max r.1 ((r.1 / 65536 + k) * 65536)
    let hi := min (r.1 + r.2) ((r.1 / 65536 + k + 1) * 65536)
    match translatePage s ctx useRead lo with
    | .ok (t', b) => t' = t && overlaps a n (b, hi - lo)
    | .error _ => false

/-- Replaces elements of tile a: `f r c` gives the new value, none keeps the old one. -/
def Task.setTile (t : Task) (a : Nat) (f : Nat → Nat → Option W32) : Task :=
  let old := t.tiles
  let here := (List.range 4096).filterMap fun i =>
    match f (i / 256) (i % 256) with
    | some v => some (4096 * a + i, v)
    | none => (old.find (4096 * a + i)).map fun v => (4096 * a + i, v)
  { t with tiles := (old.filter fun e => e.1 < 4096 * a) ++ here ++ (old.filter fun e => 4096 * (a + 1) ≤ e.1) }

/-- The elements of an instruction's tile that `on` picks become free values. -/
def freeTile (o : AsyncOp) (on : Nat → Nat → Bool) (s : State) : State :=
  match o.tile with
  | none => s
  | some k =>
    { s.modTask o.who (fun t => t.setTile k fun r c =>
        if on r c then some ((Config.freeWord s.freeCount (256 * r + c)).truncate 32) else none) with
      freeCount := s.freeCount + 1 }

/-- Element (r, c) of its tile holds the result of this MXM. -/
def AsyncOp.holds (o : AsyncOp) (r c : Nat) : Bool := (o.cells.getD r 0).testBit c

/-- The bits of 16 rows but those of `m`. -/
def exceptRows (m : Nat → Nat) (rows : List Nat) : List Nat :=
  if rows.isEmpty then [] else (List.range 16).map fun r => rows.getD r 0 - (rows.getD r 0 &&& m r)

/-- Elements of a task's tile are written without regard to what they held: the results of earlier instructions that stood there
are gone. `m` gives the columns of each row, as bits. -/
def overwrite (w : Who) (tile : Nat) (m : Nat → Nat) (s : State) : State :=
  let f := fun (o : AsyncOp) =>
    if o.who = w && o.tile = some tile then { o with cells := exceptRows m o.cells, reach := exceptRows m o.reach } else o
  { s with ops := s.ops.map f, loose := s.loose.map f }

/-- A write of n bytes at a reaches what an instruction reads or watches. `core` is the core of a cistern write. -/
def disturbs (s : State) (core : Option Nat) (t : Option Tier) (a n : Nat) (o : AsyncOp) : Bool :=
  ((core.isNone || core = some o.who.core) && o.reads.any fun r => r.1 = t && overlaps a n r.2)
    || (match t with | some t => o.watch.any (watched s o.ctx t a n) | none => false)

/-- A write marks every unfinished instruction but its own that reads or watches a byte of it: its result is then undefined. The
result of a finished MXM that no CWAIT has covered becomes undefined at once (R203, R266). -/
def spoil (own : Option Nat) (core : Option Nat) (t : Option Tier) (a n : Nat) (s : State) : State :=
  let hit := fun (o : AsyncOp) => own ≠ some o.id && disturbs s core t a n o
  (s.loose.filter hit).foldl (fun x o => freeTile o o.holds x)
    { s with ops := s.ops.map fun o => if hit o then { o with spoiled := true } else o
             loose := s.loose.filter fun o => !hit o }

/-- Every unfinished SAMPLE but the writer keeps what a write replaces: its graph may be read as it was before (R120). -/
def keepBefore (own : Option Nat) (t : Tier) (a n : Nat) (s : State) : State :=
  { s with ops := s.ops.map fun o =>
      if o.name = "SAMPLE" && own ≠ some o.id then { o with before := o.before ++ [⟨t, a, n, Memory.slice (s.mem.tier t) a n⟩] } else o }

/-- Notes a frame that the current step of a context writes (R424). -/
def noteWrote (c : Nat) (t : Tier) (frame : Nat) (s : State) : State :=
  if (s.ctx c).sealed.wrote.contains (t, frame) then s
  else s.modSeal c fun x => { x with wrote := x.wrote ++ [(t, frame)] }

/-- Notes a page that a parcel writes (R88, R424). -/
def touch (by' : Writer) (t : Tier) (frame : Nat) (s0 : State) : State :=
  let s := noteWrote by'.ctx t frame s0
  match by'.hostSeq with
  | none => s
  | some h => if s.touched.contains ⟨by'.ctx, h, t, frame⟩ then s else { s with touched := s.touched ++ [⟨by'.ctx, h, t, frame⟩] }

/-- An asynchronous instruction, or none, writes cells to a tier with no hold. -/
def rawWriteOf (own : Option Nat) (t : Tier) (a n : Nat) (cs : List Host.Cell) (s : State) : State :=
  { clearErrs (tierSource t) (fun _ => true) (tierGranule t) a n (keepBefore own t a n (spoil own none (some t) a n s)) with
    mem := s.mem.setTier t (Memory.blit (s.mem.tier t) a n cs) }

/-- Writes cells to a tier with no hold. -/
def rawWrite (t : Tier) (a n : Nat) (cs : List Host.Cell) (s : State) : State := rawWriteOf none t a n cs s

/-- Pages of device memory that some parcels have written hold undefined contents (R88). A page that waits for its
first-touch copy has not been written yet. -/
def undefinedPages (gone : Nat → W32 → Bool) (s : State) : State :=
  let mine := fun (t : Touched) => gone t.ctx t.hostSeq
  let s1 := (s.touched.filter mine).foldl (fun (x : State) t =>
    if (uncopiedOwner x t.tier t.frame).isSome then x
    else rawWrite t.tier (t.frame * 65536) 65536 (cellsOf 0 ((List.range 65536).map fun k =>
      (Config.freeWord s.freeCount (b2n (t.tier = .far) * 2 ^ 42 + t.frame * 65536 + k)).truncate 8)) x) s
  { s1 with freeCount := s.freeCount + 1, touched := s1.touched.filter fun t => !mine t }

/-- A write within one frame: applied, or held for the first-touch copy (R437). A first touch that finds the snapshot
region full, or no digest engine left, lapses the seal and is applied (R440). -/
def memWrite (by' : Writer) (t : Tier) (a n : Nat) (cs : List Host.Cell) (s0 : State) : State :=
  if t ≠ .near && t ≠ .far then rawWriteOf by'.op t a n cs (noteWrote by'.ctx t (a / 65536) s0)
  else
    let s := touch by' t (a / 65536) s0
    match uncopiedOwner s t (a / 65536) with
    | none => rawWriteOf by'.op t a n cs s
    | some c =>
      let x := (s.ctx c).sealed
      let hold := { s with dg := { s.dg with held := s.dg.held ++
        [⟨t, a / 65536, a, n, cs, by'.ctx, by'.hostSeq, by'.who, by'.op⟩] } }
      if s.dg.held.any fun w => w.tier = t && w.frame = a / 65536 then hold
      else if x.copied + (copying s c).length ≥ x.snapFrames then rawWriteOf by'.op t a n cs (lapse c 1 (a / 65536) s)
      else hold

/-- Writes cells over pieces. -/
def writePieces (by' : Writer) : List Piece → List Host.Cell → Nat → State → State
  | [], _, _, s => s
  | (t, a, n) :: r, cs, off, s =>
    writePieces by' r cs (off + n) (memWrite by' t a n (Memory.slice cs off n) s)

/-- Writes bytes over pieces. -/
def putPieces (by' : Writer) (ps : List Piece) (bs : List Byte) (s : State) : State :=
  writePieces by' ps (cellsOf 0 bs) 0 s

/-- Every piece of a write from va on reaches its channel: a request to one without its clock is a detected error (R47,
Table 2.3). -/
def checkClocks (s : State) : Nat → List Piece → Except Bad Unit
  | _, [] => .ok ()
  | va, (t, a, n) :: r =>
    match rangeDown s t a n with
    | some i => .error (.detected (clockErr i va))
    | none => checkClocks s (va + n) r

/-- Writes bytes to device memory: every page is translated before any byte is written. -/
def devWrite (s : State) (by' : Writer) (u : Use) (a : Nat) (bs : List Byte) : Except Bad State := do
  let ps ← range s by'.ctx u a bs.length
  checkClocks s a ps
  return putPieces by' ps bs s

/-- A write of this task is held for a first-touch copy, or queued for a row on the move (R279, R437). -/
def heldBy (s : State) (w : Who) : Bool :=
  (s.dg.held.any fun h => h.who = some w) || s.merge.moves.any fun m => m.writes.any fun q => q.who = some w

/-- Tasks that waited for a store go on once no write of theirs is held any more. -/
def wakeHeld (ws : List (Option Who)) (s : State) : State :=
  ws.foldl (fun (x : State) w =>
    match w with
    | none => x
    | some k => if heldBy x k then x
        else x.modTask k fun u => if u.status = .storeHeld then { u with status := .ready } else u) s

/-- The memories as they stand once every held write has proceeded, in their order (R437). -/
def heldView (s : State) : Mem :=
  s.dg.held.foldl (fun m h =>
    if h.bytes = 0 then m else m.setTier h.tier (Memory.blit (m.tier h.tier) h.addr h.bytes h.cells)) s.mem

/-- Reads what a later write of the same unit builds on: a write that is still held counts as made, since it proceeds
before the later one does. -/
def devReadNew (s : State) (ctx : Nat) (u : Use) (a n : Nat) : Except Bad (List Byte) := do
  let ps ← range s ctx u a n
  checkPieces s a ps
  return piecesBytes (heldView s) ps

/-- Reads and writes of the structures that a record names: within pages (R299), and with every write made so far. -/
def pageRead (s : State) (ctx : Nat) (u : Use) (a n : Nat) : Except Bad (List Byte) := do
  let ps ← pageRange s ctx u a n
  checkPieces s a ps
  return piecesBytes (heldView s) ps
def pageWrite (s : State) (by' : Writer) (u : Use) (a : Nat) (bs : List Byte) : Except Bad State := do
  let ps ← pageRange s by'.ctx u a bs.length
  checkClocks s a ps
  return putPieces by' ps bs s

/-! ### The cistern (R99, R102) -/

/-- The fault address of a cistern address (R102). -/
def cisFault (access cause a : Nat) : Bad := .violation access cause (0xC000000000000000 + a)

/-- A cistern range within a footprint, aligned: first the footprint, then the alignment (R102). -/
def cisCheck (foot access a n align : Nat) : Except Bad Unit :=
  if a + n > foot then .error (cisFault access 0 a)
  else if a % align ≠ 0 then .error (cisFault access 1 a)
  else .ok ()

def State.cis (s : State) (core : Nat) : List Host.Cell := (s.core core).cistern

/-- Writes bytes of a core's cistern. -/
def cisPut (core a : Nat) (bs : List Byte) (s : State) : State :=
  (clearErrs 5 (· = core) 4 a bs.length (spoil none (some core) none a bs.length s)).modCore core fun c =>
    { c with cistern := Memory.write c.cistern a bs }

/-- A read of a core's cistern passes the parity of its words (R316, R424). -/
def cisParity (s : State) (core a n : Nat) : Except Bad Unit :=
  if wordErr s core a n then .error (.detected (coreErr 5 core)) else .ok ()

/-! ### Detected errors as they are found (R424, R428, R443) -/

/-- The data-class record. -/
def dataRecord (c : Option Nat) (h : W32) (e : DataErr) (severity : Nat) (s : State) : State :=
  report { Spill.of 0 e.die severity with
    kind := e.kind, index := e.index, context := c, hostSeq := h, address := BitVec.ofNat 64 e.va,
    detail0 := BitVec.ofNat 64 e.source
    detail1 := match e.tier with
      | some (.far, a) => BitVec.ofNat 64 (2 ^ 63 + a)
      | some (_, a) => BitVec.ofNat 64 a
      | none => 0 } s

/-- AER notes a completion in error (R54): a poisoned one or one that timed out, which the error of R426 does not tell apart (log
entry 52). -/
def Headgate.noteCompletion (h : Headgate) (which : Nat) : Headgate :=
  if which % 2 = 0 then { h with cfg := { h.cfg with poisoned := true } } else { h with cfg := { h.cfg with timedOut := true } }

/-- Counts an error of a tier (Table 11.10): by its address, or by its source where it has none. -/
def countErr (e : DataErr) (s : State) : State :=
  match e.source with
  | 1 => { s with mt := { s.mt with detNear := satAdd top48 s.mt.detNear 1 } }
  | 2 => { s with mt := { s.mt with detFar := satAdd top48 s.mt.detFar 1 } }
  | 3 => { s with mt := { s.mt with detFlash := satAdd top48 s.mt.detFlash 1 } }
  | 4 => { s with
      mt := { s.mt with detHost := satAdd top48 s.mt.detHost 1 }
      hg := s.hg.noteCompletion (Config.freeWord s.freeCount 4).toNat }
  | _ => s

/-- An address lies in a context's seal record, snapshot region, index or ledger (R442, condition 2). -/
def inSealRegion (x : SealCtx) (va : Nat) : Bool :=
  let hit := fun (a n : Nat) => decide (a ≤ va) && decide (va < a + n)
  x.state ≠ .none && (hit x.record.toNat 256 || hit x.snap (65536 * x.snapFrames) || hit x.index (128 * x.snapFrames)
    || hit x.ledger (64 * x.ledgerUnits))

/-- A unit receives a charge (Table 16.1). Kinds 0, 8, 14, 15 and 17 to 19 hold none. -/
def addCharge (kind index : Nat) (s : State) : State :=
  if kind = 0 || kind = 8 || (14 ≤ kind && kind ≠ 16) then s
  else { s with fence := { s.fence with charges := s.fence.charges ++ [(kind, index, s.dg.steps)] } }

/-- The charge of an error. A flash sector that fails stays unreadable, and charges its block once (R317). A request to an LPDDR6
channel without its clock is an error of the channel that no frame can be charged with (Table 16.1). -/
def chargeErr (e : DataErr) (s : State) : State :=
  match e.tier with
  | some (.flash, a) =>
    if s.mt.badSectors.contains (a / 4096) then s
    else addCharge 13 e.index { s with mt := { s.mt with badSectors := s.mt.badSectors ++ [a / 4096] } }
  | _ => if e.source = 10 && e.index / 256 = 1 then addCharge 12 (e.index % 256) s else addCharge e.kind e.index s

/-- The context's current step is dirty: no further parcel starts until the step has been replayed or has ended (R424,
R443). A context without a parcel since its seal has no step to lose. -/
def makeDirty (c : Nat) (noReplay : Bool) (s : State) : State :=
  let x := s.ctx c
  if x.phase = .closed || x.phase = .resetting || (x.parcels.isEmpty && x.sealed.parcels.isEmpty) then s
  else s.modSeal c fun y => { y with
    dirty := true, noReplay := y.noReplay || noReplay
    state := if y.state = .sealed || y.state = .replaying then .dirty else y.state }

/-- An error in a stored array or buffer is gone once it has been found; memory and cistern words stay bad until they are
written. -/
def dropFound (e : DataErr) (s : State) : State :=
  let gone : Option Err := match e.source with
    | 6 => some ⟨6, e.index, 0⟩
    | 7 => some ⟨7, e.kind, e.index⟩
    | _ => none
  { s with errs := s.errs.filter fun x => some x ≠ gone }

/-- Contexts with task state, queued work or outstanding requests in the unit of an error (R424, Table 16.1). The waits of a
compute die's tallies are in no unit that an error of this kind names. -/
def unitUsers (s : State) (e : DataErr) : List Nat :=
  match e.kind with
  | 1 => (s.coreTasks e.index).map fun t => t.2.ctx
  | 2 => (s.ops.filter fun o => (o.name = "SHUF" || o.name = "SAMPLE" || o.name = "DEDUP") && Who.die o.who = e.index / 4).map (·.ctx)
  | 3 => (s.ops.filter fun o => o.openPos.any fun p => p.unit = e.index).map (·.ctx)
  | 4 => (s.ops.filter fun o => o.name = "GATHER" && o.desc.getLsbD 24 && !o.openPos.isEmpty).map (·.ctx)
  | 5 => (s.merge.rounds.filter fun r => r.2.isOpen).map (·.2.ctx) ++ s.merge.moves.map (·.ctx)
  | 6 => s.dg.held.map (·.ctx)
  | 15 => (s.tags.filter fun t => match t.use with
      | .engine _ _ src => src.any fun p => channelDomain s p.1 p.2.1 = some e.index
      | _ => false).map (·.ctx)
  | _ => []

/-- Contexts whose current step has written the data in error (R424). -/
def writersOf (s : State) (e : DataErr) : List Nat :=
  match e.tier with
  | some (t, a) => (s.ctxs.filter fun x => x.2.sealed.wrote.contains (t, a / 65536)).map (·.1)
  | none => []

/-- A detected error met by a context: its record is written, its unit charged, an uncopied member frame that it lies in
lapses its seal, and the step becomes dirty of that context, of those that wrote the data and of those with work in the unit
concerned (R424, R440, R442, R443). -/
def foundError (c : Nat) (h : W32) (e : DataErr) (s : State) : State :=
  let s1 := chargeErr e (dropFound e (dataRecord (some c) h e 2 (countErr e s)))
  let s2 := match e.tier with
    | some (t, a) => match uncopiedOwner s1 t (a / 65536) with
      | some o => lapse o 3 (a / 65536) s1
      | none => s1
    | none => s1
  (((unitUsers s e ++ writersOf s e).filter fun k => k ≠ c).dedup).foldl (fun (x : State) k => makeDirty k false x)
    (makeDirty c (e.tier.isSome && inSealRegion (s2.ctx c).sealed e.va) s2)

/-- The counters and latched registers that a failure moves, whoever met it (R128, R192, R275, R303). -/
def noteBad (ctx die : Nat) (b : Bad) (s : State) : State :=
  match b with
  | .violation _ 3 _ => { s with mt := { s.mt with atsRefused := satAdd top48 s.mt.atsRefused 1 } }
  | .smMeta check addr => { s with sm := { s.sm with
      metaCount := satAdd top48 s.sm.metaCount 1, metaAddr := BitVec.ofNat 64 addr, metaCheck := BitVec.ofNat 4 check,
      metaCtx := BitVec.ofNat 10 ctx, metaUnit := BitVec.ofNat 5 (samplerFor s die 0) } }
  | .slMeta check addr unit => { s with sl := { s.sl with
      metaCount := satAdd top48 s.sl.metaCount 1, metaAddr := BitVec.ofNat 64 addr, metaCheck := BitVec.ofNat 4 check,
      metaCtx := BitVec.ofNat 10 ctx, metaUnit := BitVec.ofNat 7 unit } }
  | .emMeta addr => { s with merge := { s.merge with
      metaCount := satAdd top48 s.merge.metaCount 1, metaAddr := BitVec.ofNat 64 addr } }
  | .unrouted n => { s with links := { s.links with unroutable := satAdd top48 s.links.unroutable n } }
  | _ => s

/-- Stops a parcel for a reason: record, counters and status (R82, R128, R192, R265, R275). A detected error stops only the
task that met it, until its step is quiesced. -/
def failParcel (ctx : Nat) (h : W32) (who : Option Who) (pc : Word) (die : Nat) (b : Bad) (s : State) : State :=
  match b with
  | .violation access cause addr =>
    endParcel ctx h 2 addr (recordFault ctx who pc h access cause addr (noteBad ctx die b s))
  | .status code addr => endParcel ctx h code addr s
  | .smMeta _ addr => endParcel ctx h 3 addr (noteBad ctx die b s)
  | .slMeta _ addr _ => endParcel ctx h 3 addr (noteBad ctx die b s)
  | .emMeta addr => endParcel ctx h 3 addr (noteBad ctx die b s)
  | .unrouted _ => endParcel ctx h 13 0 (noteBad ctx die b s)
  | .stale addr tag record =>
    let core := match who with | some w => w.core | none => 0
    undefinedPages (fun c x => decide (c = ctx) && decide (x = h)) (endParcel ctx h 8 0 (report { Spill.of 2 die 1 with
      context := some ctx, hostSeq := h, address := BitVec.ofNat 64 addr, detail0 := BitVec.ofNat 64 record,
      detail1 := BitVec.ofNat 64 (tag % 256 + 256 * core) } s))
  | .refused va record rank die full =>
    endParcel ctx h 2 va (recordFault ctx who pc h 3 4 va
      (report { Spill.of 5 die 1 with
          context := some ctx, hostSeq := h, address := BitVec.ofNat 64 va, detail0 := BitVec.ofNat 64 record,
          detail1 := BitVec.ofNat 64 (rank + (if full then 2 ^ 12 else 2 ^ 13)) }
        { s with merge := { s.merge with refused := satAdd top48 s.merge.refused 1 } }))
  | .detected e =>
    let s1 := foundError ctx h e s
    match who with
    | some w => s1.modTask w fun t => { t with status := .dataError }
    | none => s1
  | .wait => s

/-! ### The host port (R57, R398, R416 to R418) -/

/-- The module is in Drowse, entering it or leaving it: the headgate and the keeper stay powered. -/
def inDrowse (s : State) : Bool :=
  s.power.phase = .enteringDrowse || s.power.phase = .drowse || s.power.phase = .leavingDrowse

/-- The host reaches the module's registers: the headgate is open and the link is up. -/
def hostUp (s : State) : Bool := s.hg.linkUp && (s.active || inDrowse s)

/-- What comes over the host port outside the order of the host's accesses: a reset, or a request of the ATS. -/
def hostEvent (f : State → State) (s : State) : Out := if hostUp s then go (f s) else go s

/-- The headgate holds an access until the module has left Drowse (R418). -/
def holdAccess (i : Instr) (s : State) : State := { s with hg := { s.hg with held := s.hg.held ++ [i] } }

/-- A host access to a unit that is powered in Drowse as well. It passes no access that is held before it: posted writes take
effect in their order (R61, R63). -/
def hostCommand (i : Instr) (f : State → State) (s : State) : Out :=
  if !hostUp s then go s else if s.hg.held.isEmpty then go (f s) else go (holdAccess i s)

/-- A host access to a unit that Drowse gates: it is held, and the module leaves Drowse (R418). -/
def hostAccess (i : Instr) (f : State → State) (s : State) : Out :=
  if !hostUp s then go s
  else if s.active then go (f s)
  else go (holdAccess i { s with
    power := { s.power with phase := if s.power.phase = .drowse then .leavingDrowse else s.power.phase } })

end Sys2Proof.Machine
end

