-- ==== Sys2Proof/Machine/Flags.lean ====
section
/-! DEFINITION. Guards and predicates: the lanes an instruction acts on (R91, R93, R98). -/

namespace Sys2Proof.Machine

open Sys2Proof

/-- The predicate with one bit for each logical lane (R91, R98). -/
def laneMask (lanes : Nat) : Word := BitVec.ofNat 64 (2 ^ lanes - 1)

/-- Predicate p of a task: p0 is the logical lanes, and bits from lane L upward read as zero (R91, R98). -/
def Task.pred (t : Task) (p : Fin 8) : Word :=
  if p = 0 then laneMask t.lanes else t.preds.get 0 p.val &&& laneMask t.lanes

/-- Bit l of the guard, after its sense: bit 1 of `sense` acts where the predicate is 0 (Table 4.4). p0 with sense 0
there acts on every logical lane and with sense 1 on none (R91). -/
def Task.guardBit (t : Task) (g : Guard) (l : Nat) : Bool :=
  decide (l < t.lanes) && ((t.pred g.pred).getLsbD l != g.sense)

/-- The guard of a scalar, branch, stream, sampling, sync or system instruction: bit 0 (R93). -/
def Task.acts (t : Task) (g : Guard) : Bool := t.guardBit g 0

/-- The guard as one bit for each lane. -/
def Task.guardMask (t : Task) (g : Guard) : Word :=
  if g.sense then ~~~ t.pred g.pred &&& laneMask t.lanes else t.pred g.pred

/-- Writes a predicate in the lanes the guard admits; a write of p0 is ignored (R91, R93). -/
def Task.setPred (t : Task) (g : Guard) (p : Fin 8) (v : Word) : Task :=
  if p = 0 then t
  else
    let m := t.guardMask g
    { t with preds := t.preds.put p.val ((v &&& m) ||| (t.pred p &&& ~~~ m)) }

/-- Number of set bits of a word (R100, POPC and PCOUNT). -/
def popCount {n : Nat} (w : BitVec n) : Nat := ((List.range n).filter fun i => w.getLsbD i).length

/-- The lowest set bit alone (PFIRST). -/
def lowestBit (w : Word) : Word := w &&& (0 - w)

/-- A truth value as a number: SLT, SLTU and SEQ give 1 or 0 (Table 4.7). -/
def boolWord {n : Nat} (b : Bool) : BitVec n := if b then 1 else 0

/-- Signed minimum (R101). -/
def sMin {n : Nat} (a b : BitVec n) : BitVec n := if a.slt b then a else b

/-- Signed maximum (R101). -/
def sMax {n : Nat} (a b : BitVec n) : BitVec n := if a.slt b then b else a

/-- Upper half of the signed product (Tables 4.7 and 4.8). -/
def sMulHigh {n : Nat} (a b : BitVec n) : BitVec n := BitVec.ofInt n (a.toInt * b.toInt / 2 ^ n)

/-- Shifts whose count is taken modulo the width (R101, Table 4.8). -/
def shlMod {n : Nat} (a b : BitVec n) : BitVec n := a <<< (b.toNat % n)
def shrMod {n : Nat} (a b : BitVec n) : BitVec n := a >>> (b.toNat % n)
def sraMod {n : Nat} (a b : BitVec n) : BitVec n := a.sshiftRight (b.toNat % n)

/-! ### The integer operations, on words of any width (Tables 4.7 and 4.8) -/

def aluAdd {w : Nat} (a b : BitVec w) : BitVec w := a + b
def aluSub {w : Nat} (a b : BitVec w) : BitVec w := a - b
def aluMul {w : Nat} (a b : BitVec w) : BitVec w := a * b
def aluMulh {w : Nat} (a b : BitVec w) : BitVec w := sMulHigh a b
def aluAnd {w : Nat} (a b : BitVec w) : BitVec w := a &&& b
def aluOr {w : Nat} (a b : BitVec w) : BitVec w := a ||| b
def aluXor {w : Nat} (a b : BitVec w) : BitVec w := a ^^^ b
def aluShl {w : Nat} (a b : BitVec w) : BitVec w := shlMod a b
def aluShr {w : Nat} (a b : BitVec w) : BitVec w := shrMod a b
def aluSra {w : Nat} (a b : BitVec w) : BitVec w := sraMod a b
def aluMin {w : Nat} (a b : BitVec w) : BitVec w := sMin a b
def aluMax {w : Nat} (a b : BitVec w) : BitVec w := sMax a b
def aluSlt {w : Nat} (a b : BitVec w) : BitVec w := boolWord (a.slt b)
def aluSltu {w : Nat} (a b : BitVec w) : BitVec w := boolWord (a.ult b)
def aluSeq {w : Nat} (a b : BitVec w) : BitVec w := boolWord (a == b)

end Sys2Proof.Machine
end

