-- ==== Sys2Proof/Machine/Operands.lean ====
section
/-! DEFINITION. Operands of Selod instructions and how an instruction issues: registers, lanes, tiles and
descriptors, the checks every instruction meets first, and the shapes instructions share (R89 to R102). -/

namespace Sys2Proof.Machine

open Sys2Proof

/-! ### Registers (Table 4.2) -/

/-- Scalar register n. -/
def Task.sreg (t : Task) (n : Fin 64) : Word := t.sregs.get 0 n.val
def Task.setS (t : Task) (n : Fin 64) (v : Word) : Task := { t with sregs := t.sregs.put n.val v }

/-- Lane l of vector register n; lanes from L upward read as zero (R98). -/
def Task.lane (t : Task) (n : Fin 32) (l : Nat) : W32 := if l < t.lanes then t.vregs.get 0 (64 * n.val + l) else 0

/-- The logical lanes of a vector register. -/
def Task.vec (t : Task) (n : Fin 32) : List W32 := (List.range t.lanes).map (t.lane n)

/-- Writes the lanes of a vector register that the guard admits (R93). -/
def putLanes (vregs : Tab W32) (n : Nat) (on : Nat → Bool) (f : Nat → W32) : Nat → Tab W32
  | 0 => vregs
  | l + 1 => if on l then (putLanes vregs n on f l).put (64 * n + l) (f l) else putLanes vregs n on f l

def Task.setVec (t : Task) (g : Guard) (n : Fin 32) (f : Nat → W32) : Task :=
  { t with vregs := putLanes t.vregs n.val (t.guardBit g) f t.lanes }

/-- Element (r, c) of accumulator tile a (Table 4.2). -/
def Task.elem (t : Task) (a r c : Nat) : W32 := t.tiles.get 0 (4096 * a + 256 * r + c)

/-- Descriptor register d. -/
def Task.desc (t : Task) (d : Fin 16) : Rec := t.descs.get 0 d.val
def Task.setDesc (t : Task) (d : Fin 16) (v : Rec) : Task := { t with descs := t.descs.put d.val v }

/-- Bytes of a descriptor or record. -/
def recBytes (r : Rec) : List Byte := leBytes 64 r.toNat
def bytesRec (bs : List Byte) : Rec := BitVec.ofNat 512 (leNat bs)

/-- Running RNG state of lane l; before RINIT it is the free value of log entry 11 (R92). -/
def Task.rngLane (t : Task) (l : Nat) : Mix := t.rng.get (Config.freeRng t.rngFree l) l

/-! ### Issue (R89, R90, R96) -/

/-- The task moves to its next instruction. -/
def Task.advance (t : Task) : Task := { t with pc := t.pc + 8, status := .ready }

/-- Slot k of a core holds a task that is ready: it waits for nothing, and no free value keeps its next instruction (R89, log
entry 20). -/
def slotReady (s : State) (core k : Nat) : Bool :=
  match s.task ⟨core, k⟩ with
  | some t => t.status = .ready && !(s.core core).stalled.getLsbD k
  | none => false

/-- Slots of the core that go before slot w in the current issue round: ready ones that issued less recently. One that has
yielded goes before none, and after every other (R89, Table 4.16). -/
def rivals (s : State) (w : Who) : List Nat :=
  let c := s.core w.core
  (List.range 4).filter fun k => k ≠ w.slot && slotReady s w.core k && !c.yields.getLsbD k
    && (c.yields.getLsbD w.slot || decide (c.order.idxOf k < c.order.idxOf w.slot))

/-- A task's slot can issue: the module is active, the task waits for nothing, its slot is the ready one that issued least
recently, neither the debug window nor a save holds the core's issue, and in fixed-rate mode the core holds a pacer token (R42,
R89, R113, R118, R394). A single step of the debug window takes the slot that the window names. -/
def canIssue (s : State) (w : Who) (t : Task) : Bool :=
  s.active && t.status = .ready
    && (if (s.core w.core).halted then (s.core w.core).stepOne && (s.core w.core).window = w.slot else (rivals s w).isEmpty)
    && (!(s.die (Who.die w)).fixed || (s.core w.core).token) && !(s.core w.core).saving

/-- An issue round of a core is over: no slot is kept out any more, and the slots' readiness is drawn anew (R89, log
entry 20). -/
def Core.nextRound (c : Core) (core : Nat) : Core :=
  { c with yields := 0, stalled := Config.notReady core c.rounds, rounds := c.rounds + 1 }

/-- What an instruction's issue leaves with its core: its slot has issued most recently, and a single step of the debug window
or a pacer's token is used up (R42, R89, R118). -/
def issued (w : Who) (s : State) : State :=
  s.modCore w.core fun c => { c.nextRound w.core with
    order := c.order.filter (fun k => k ≠ w.slot) ++ [w.slot], issues := c.issues + 1
    stepOne := c.stepOne && !c.halted, token := c.token && !(s.die (Who.die w)).fixed }

/-- Every core's issue round goes by (R89). -/
def passRounds (s : State) : State := { s with cores := s.cores.map fun e => (e.1, e.2.nextRound e.1) }

/-- R96: the parcel ends with ACCESS_VIOLATION, access 2, cause 4, at the instruction's address. -/
def malformed (w : Who) (t : Task) (s : State) : State :=
  failParcel t.ctx t.hostSeq (some w) t.pc (Who.die w) (.violation 2 4 t.pc.toNat) s

/-- An instruction of a task: it is issued if it can be, it is malformed if the task has not executed ENTRY or `ok`
fails (R96, R97), and else it has the effect `body`. -/
def issue (w : Who) (ok : Task → Bool) (body : Task → State → State) (s : State) : Out :=
  match s.task w with
  | none => go s
  | some t =>
    if canIssue s w t then
      if t.entered && ok t then go (body t (issued w s)) else go (malformed w t (issued w s))
    else go s

/-- Every word the typed operands spell is well formed at both levels. -/
def anyLevel : Task → Bool := fun _ => true

/-- Level 2 instructions are malformed at level 1 (R96). -/
def level2 : Task → Bool := fun t => t.level ≠ 1

/-- An instruction that changes only its own task. -/
def onTask (w : Who) (ok : Task → Bool) (f : Task → Task) (s : State) : Out :=
  issue w ok (fun t s => s.setTask w (f t).advance) s

/-- A scalar instruction: guarded by bit 0, it writes rd. -/
def scalarOp (w : Who) (g : Guard) (rd : Fin 64) (f : Task → Word) (s : State) : Out :=
  onTask w anyLevel (fun t => if t.acts g then t.setS rd (f t) else t) s

/-- A lane instruction: it writes vd in the lanes the guard admits. -/
def laneOp (w : Who) (g : Guard) (ok : Task → Bool) (vd : Fin 32) (f : Task → Nat → W32) (s : State) : Out :=
  onTask w ok (fun t => t.setVec g vd (f t)) s

/-- A predicate instruction: it writes pd in the lanes the guard admits. -/
def predOp (w : Who) (g : Guard) (pd : Fin 8) (f : Task → Word) (s : State) : Out :=
  onTask w anyLevel (fun t => t.setPred g pd (f t)) s

/-- An instruction that changes its task and adds to the counters of R238. -/
def countedOp (w : Who) (ok : Task → Bool) (f : Task → Task × Counts) (s : State) : Out :=
  issue w ok (fun t s => countNum t.ctx t.hostSeq (Who.die w) (f t).2 (s.setTask w (f t).1.advance)) s

/-- A scalar FP32 instruction: rd takes the result with bits [63:32] zero, and an infinity or NaN is counted
(Table 4.7, R224, R238). -/
def scalarFp (w : Who) (g : Guard) (rd : Fin 64) (f : Task → W32) (s : State) : Out :=
  countedOp w anyLevel (fun t =>
    if t.acts g then (t.setS rd ((f t).zeroExtend 64), ⟨0, b2n (nonfin (f t))⟩) else (t, Counts.zero)) s

/-- Lanes that the guard admits and that satisfy a test. -/
def Task.countLanes (t : Task) (g : Guard) (p : Nat → Bool) : Nat :=
  ((List.range t.lanes).filter fun l => t.guardBit g l && p l).length

/-- A lane FP32 instruction: every infinity or NaN it writes is counted (R224, R238). -/
def laneFp (w : Who) (g : Guard) (vd : Fin 32) (f : Task → Nat → W32) (s : State) : Out :=
  countedOp w anyLevel (fun t => (t.setVec g vd (f t), ⟨0, t.countLanes g fun l => nonfin (f t l)⟩)) s

/-- An instruction guarded by bit 0 with an effect on the whole state, which may end its parcel. `f` is given the task
and the state in which the task has moved on. One that needs a missing part of the flash map stays at issue (R315). -/
def guarded (w : Who) (g : Guard) (ok : Task → Bool) (f : Task → State → Except Bad State) (s : State) : Out :=
  issue w ok (fun t x =>
    if t.acts g then
      match f t (x.setTask w t.advance) with
      | .ok s' => s'
      | .error .wait => s
      | .error b => failParcel t.ctx t.hostSeq (some w) t.pc (Who.die w) b x
    else x.setTask w t.advance) s

/-! ### Asynchronous instructions (R90) -/

/-- A record of an asynchronous instruction with nothing left to decide. -/
def AsyncOp.of (id : Nat) (w : Who) (t : Task) (grp : Nat) (name : String) : AsyncOp :=
  { id := id, who := w, ctx := t.ctx, hostSeq := t.hostSeq, group := grp, name := name, tile := none, deadline := 0,
    fallback := 0, openPos := [], valid := [], validAddr := 0, report := 0, dropped := 0, lates := 0, desc := 0,
    nextPos := 0, cut := false, needs := [], posOpen := [], reads := [], spoiled := false, outs := [], watch := [],
    binds := [], uses := [], bound := [], ats := [], data := [], place := t.groups.get 0 grp + 1, minor := 0, steps := 0,
    cells := [], reach := List.replicate 16 (2 ^ 256 - 1), key := 0, before := [] }

/-- The record of an unfinished instruction, and a change of it. -/
def findOp (s : State) (id : Nat) : Option AsyncOp := s.ops.find? fun o => o.id = id

def modOp (id : Nat) (f : AsyncOp → AsyncOp) (s : State) : State :=
  { s with ops := s.ops.map fun o => if o.id = id then f o else o }

/-- What an instruction names: the ranges of device memory that it reads or writes, and those that its results take, in the
cistern or in device memory. -/
structure Named where
  ranges : List (Nat × Nat)
  outs : List (Bool × Nat × Nat)

/-- Addresses at which a range can enter a window of its own: the least window holds 2^24 bytes (R299). -/
def windowStarts (a n : Nat) : List Nat :=
  a :: (List.range ((a % 2 ^ 24 + n - 1) / 2 ^ 24)).map fun k => (a / 2 ^ 24 + 1 + k) * 2 ^ 24

/-- What a range meets in one stash window: the record with its bytes, the storage of the slots that the range's addresses name,
and the parts of it that they lead to. -/
structure StashPart where
  record : Nat
  bytes : List Byte
  storage : List (Nat × Nat)
  places : List (Nat × Nat)
  deriving DecidableEq, Repr

/-- The stash windows that a range meets (R263, R264). -/
def stashOf (s : State) (ctx : Nat) (r : Nat × Nat) : List StashPart :=
  if r.2 = 0 then []
  else (windowStarts r.1 r.2).filterMap fun x =>
    match walkFrom s ctx useRead x with
    | .ok (.window true l rec) =>
      match readAt s ctx rec 64 with
      | .ok bs =>
        let w := leNat bs
        let k := bitsN w 29 24
        let win := x / 2 ^ l * 2 ^ l
        let slots := (List.range 4).filterMap fun i =>
          let from' := win + bitsN w (39 + 8 * i) (32 + 8 * i) * 2 ^ k
          let lo := max r.1 from'
          let hi := min (r.1 + r.2) (from' + 2 ^ k)
          let base := bitsN w (191 + 64 * i) (128 + 64 * i)
          if bitN w (16 + i) && decide (lo < hi) then some ((base, 2 ^ k), (base + (lo - from'), hi - lo)) else none
        some ⟨rec, bs, slots.map (·.1), slots.map (·.2)⟩
      | .error _ => none
    | _ => none

/-- Host ranges under ATS that a device range leads to, as its entries give them (R303). -/
def atsRanges (s : State) (ctx : Nat) (r : Nat × Nat) : List (Nat × Nat) :=
  (List.range ((r.1 % 65536 + r.2 + 65535) / 65536)).filterMap fun k =>
    let lo := max r.1 ((r.1 / 65536 + k) * 65536)
    let hi := min (r.1 + r.2) ((r.1 / 65536 + k + 1) * 65536)
    [0, 1].findSome? fun access => match walkFrom s ctx (Use.of access anyTier) lo with
      | .ok (.page .host a true) => some (a, hi - lo)
      | _ => none

/-- Binds an instruction to what it names, and to the stash records there; a write of a bound slot's storage leaves its results
undefined (R264, R266, R302). A schedule translates the rest of what it names as its positions start. -/
def AsyncOp.bind (o : AsyncOp) (s : State) (n : Named) : AsyncOp :=
  let found := n.ranges.map fun r => (r, stashOf s o.ctx r)
  let parts := (found.flatMap (·.2)).dedup
  let ranges := if o.name = "PFSCHED" then [] else n.ranges
  let bound := (found.filter fun f => !f.2.isEmpty).map (·.1) ++ parts.flatMap fun p => (p.record, 64) :: p.places
  { o with
    uses := o.uses ++ ranges, bound := bound, ats := (ranges ++ bound).flatMap (atsRanges s o.ctx)
    binds := (parts.map fun p => (p.record, p.bytes)).dedup, watch := (parts.flatMap (·.storage)).dedup
    outs := if parts.isEmpty then [] else n.outs }

/-- An access of the instruction after its issue, by the records it is bound to. -/
def AsyncOp.use (o : AsyncOp) (access : Nat) (tiers : List Tier) : Use := ⟨access, tiers, o.binds⟩

/-! ### Array steps (R204, R379, R390) -/

/-- Array steps of a minor class counted at a die (R379). -/
def countSteps (d minor n : Nat) (s : State) : State :=
  s.modDie d fun x => { x with acts := x.acts.bump minor n }

/-- The quadrant of a core has its array issue withheld (R389, R390). -/
def withheld (s : State) (core : Nat) : Bool := (s.die (core / 64)).droop.getLsbD (core % 64 / 16)

/-- An MXM has had the array: its steps are counted, unless they are counted already. -/
def startSteps (o : AsyncOp) (s : State) : State :=
  if o.steps = 0 then s
  else
    countSteps (Who.die o.who) o.minor o.steps
      { s with ops := s.ops.map fun x => if x.id = o.id then { x with steps := 0 } else x }

/-- The MXM at the head of a core's queue starts its array steps, all of them at once, unless its quadrant withholds them (R204,
R390, R394). -/
def startArray (core : Nat) (s : State) : State :=
  if withheld s core then s
  else
    match (s.core core).mxmQueue.head?.bind fun i => s.ops.find? fun o => o.id = i with
    | some o => startSteps o s
    | none => s

/-! ### Outstanding reads of the engines (R156, R157, Table 6.1) -/

/-- Reads of 64 bytes in the near and far tiers, of 512 bytes in the host tier, and pages of the flash tier. -/
def lineReads (ps : List Piece) : Nat :=
  (ps.map fun p => if p.1 = .near || p.1 = .far then (p.2.1 % 64 + p.2.2 + 63) / 64 else 0).sum
def hostReads (ps : List Piece) : Nat := (ps.map fun p => if p.1 = .host then (p.2.1 % 512 + p.2.2 + 511) / 512 else 0).sum
def flashPages (ps : List Piece) : List Nat :=
  (ps.flatMap fun p => if p.1 = .flash then
    (List.range ((p.2.1 % 4096 + p.2.2 + 4095) / 4096)).map (p.2.1 / 4096 + ·) else []).dedup

/-- What the engines' outstanding reads name, each with its engine. -/
def openReads (s : State) : List (Nat × List Piece) :=
  s.tags.filterMap fun t => match t.use with
    | .engine _ unit src => some (unit, src)
    | _ => none

/-- The pieces that one engine has outstanding. -/
def engineReads (s : State) (unit : Nat) : List Piece := ((openReads s).filter fun r => r.1 = unit).flatMap (·.2)

/-- Outstanding reads of an engine (SL_E_STATUS): reads of one flash page share a slot (R157). -/
def readsOpen (s : State) (unit : Nat) : Nat :=
  let ps := engineReads s unit
  lineReads ps + hostReads ps + (flashPages ps).length

/-- The module's outstanding non-posted requests (Table 3.1). -/
def hostTags (s : State) : Nat := if s.hg.flitMode then 4096 else 768

/-- A read of these pieces passes no bound of Table 6.1, of Table 3.1 and of R157. -/
def readFits (s : State) (unit : Nat) (src : List Piece) : Bool :=
  let mine := engineReads s unit
  let host := hostReads mine + hostReads src
  let flash := (flashPages (mine ++ src)).length
  decide (lineReads mine + lineReads src + host + flash ≤ 8192) && decide (flash ≤ 4096)
    && (hostReads src = 0
      || (decide (host ≤ 1024) && decide (hostReads ((openReads s).flatMap (·.2)) + hostReads src ≤ hostTags s)))

/-- A position's read goes out under its tag, and binds its row. One that has waited adds the ticks it waited, which are free, to
its engine's starvation (Table 6.18). -/
def issueRead (waited : Bool) (o : AsyncOp) (p : Position) (s : State) : State :=
  let s1 := { s with
    tags := s.tags ++ [⟨p.tag, o.ctx, o.hostSeq, .engine o.id p.unit p.slots, 0, false⟩]
    ops := s.ops.map fun x => if x.id = o.id then
      { x with openPos := x.openPos.map fun q => if q.tag = p.tag then { p with issued := true, lookup := none } else q } else x }
  if waited then
    { s1 with
      sl := { s1.sl with starve := s1.sl.starve.bump p.unit (Config.freeWord s.freeCount p.unit).toNat }
      freeCount := s1.freeCount + 1 }
  else s1

/-- The read of a position goes out no earlier than the one that brings its tile (R169). -/
def AsyncOp.mayRead (o : AsyncOp) (p : Position) : Bool :=
  p.share = 0 || !(o.openPos.any fun q => decide (q.tag = p.share) && !q.issued)

/-- The reads of an instruction's positions go out as far as the bounds let them, in their order. -/
def issueReads (id : Nat) (ps : List Position) (s : State) : State :=
  ps.foldl (fun (x : State) p =>
    match findOp x id with
    | some y => if !p.issued && y.mayRead p && readFits x p.unit p.slots then issueRead false y p x else x
    | none => x) s

/-- One more unfinished instruction of a group. -/
def Task.join (t : Task) (grp : Fin 8) : Task := { t with groups := t.groups.put grp.val (t.groups.get 0 grp.val + 1) }

/-- The writes that are held from the nth on are an asynchronous instruction's own. -/
def ownHeld (n id : Nat) (s : State) : State :=
  { s with dg := { s.dg with held := s.dg.held.take n ++ (s.dg.held.drop n).map fun w => { w with op := some id } } }

/-- An asynchronous instruction guarded by bit 0. It waits to issue while its group's counter stands at 255; guarded
off it adds nothing to its group (R90, R93). `f` is given the identity of its record, the task and the state in which
it is accepted, and answers the state it leaves, with its record or with what ends the parcel. One that needs a missing part of the
flash map stays at issue (R315). -/
def async (w : Who) (g : Guard) (grp : Fin 8) (ok : Task → Bool)
    (f : Nat → Task → State → State × Except Bad AsyncOp) (s : State) : Out :=
  match s.task w with
  | none => go s
  | some t =>
    if t.entered && ok t && t.acts g && decide (t.groups.get 0 grp.val ≥ 255) then go s
    else
      issue w ok (fun t x =>
        if t.acts g then
          let (s1, r) := f s.nextOp t { x.setTask w (t.join grp).advance with nextOp := s.nextOp + 1 }
          match r with
          | .ok op => issueReads op.id op.openPos (ownHeld s.dg.held.length op.id { s1 with ops := s1.ops ++ [op] })
          | .error .wait => s
          | .error b => failParcel t.ctx t.hostSeq (if b.byEngine then none else some w) t.pc (Who.die w) b s1
        else x.setTask w t.advance) s

/-- An instruction whose memory effects are all applied at its issue (log entry 9), or none of them where it ends its
parcel. `named` says what it names. -/
def plainOp (w : Who) (grp : Fin 8) (name : String) (named : Task → State → Named) (f : Task → State → Except Bad State)
    (id : Nat) (t : Task) (s : State) : State × Except Bad AsyncOp :=
  match f t s with
  | .ok s' => (s', .ok ((AsyncOp.of id w t grp.val name).bind s (named t s)))
  | .error b => (s, .error b)

/-- Runs a list of effects in order; the effects before one that fails stay. -/
def inOrder {α : Type} (f : State → α → Except Bad State) : List α → State → State × Except Bad Unit
  | [], s => (s, .ok ())
  | x :: r, s =>
    match f s x with
    | .ok s' => inOrder f r s'
    | .error b => (s, .error b)

/-- The writer an instruction of a task is. -/
def Task.writer (t : Task) (w : Who) : Writer := ⟨t.ctx, some t.hostSeq, some w, none⟩

/-- An unfinished MXM of the task writes this tile (R203). -/
def mxmInto (s : State) (w : Who) (tile : Nat) : Bool :=
  s.ops.any fun o => decide (o.who = w) && o.name == "MXM" && o.tile == some tile

/-- An unfinished accumulator move of the task reads or writes this tile (R203). -/
def moveOn (s : State) (w : Who) (tile : Nat) : Bool :=
  s.ops.any fun o => decide (o.who = w) && o.name != "MXM" && o.tile == some tile

/-- An instruction that waits to issue while a condition holds: its command then changes nothing (R89). -/
def waiting (held : Bool) (s : State) (out : Out) : Out := if held then go s else out

/-! ### Cistern accesses of one task (R99, R102) -/

/-- n bytes of the cistern after the checks of R102. -/
def cisRead (s : State) (w : Who) (t : Task) (a n align : Nat) : Except Bad (List Byte) := do
  cisCheck t.footprint 0 a n align
  cisParity s w.core a n
  return Memory.bytes (s.cis w.core) a n

/-- Writes the cistern after the checks of R102. -/
def cisWrite (s : State) (w : Who) (t : Task) (a align : Nat) (bs : List Byte) : Except Bad State := do
  cisCheck t.footprint 1 a bs.length align
  return cisPut w.core a bs s

/-- Fault of a range of the cistern that passes the footprint: the first byte outside it (log entry 24). -/
def cisOutside (foot access a : Nat) : Bad := cisFault access 0 (max a foot)

/-- Bytes of a long operand in the cistern or in device memory. -/
def readLoc (s : State) (w : Who) (t : Task) (isCis : Bool) (u : Use) (a n : Nat) : Except Bad (List Byte) :=
  if isCis then
    if a + n > t.footprint then .error (cisOutside t.footprint u.access a)
    else (cisParity s w.core a n).map fun _ => Memory.bytes (s.cis w.core) a n
  else devRead s t.ctx u a n

/-- Writes a long operand in the cistern or in device memory. -/
def writeLoc (s : State) (w : Who) (t : Task) (isCis : Bool) (u : Use) (a : Nat) (bs : List Byte) : Except Bad State :=
  if isCis then
    if a + bs.length > t.footprint then .error (cisOutside t.footprint u.access a)
    else .ok (cisPut w.core a bs s)
  else devWrite s (t.writer w) u a bs

/-- A device access naturally aligned to its size (R102). -/
def alignCheck (access a n : Nat) : Except Bad Unit :=
  if a % n ≠ 0 then .error (.violation access 1 a) else .ok ()

end Sys2Proof.Machine
end

