-- ==== Sys2Proof/Machine/Rng.lean ====
section
/-! DEFINITION. The cellular-automaton mixer, the keyed block, the running automaton and the keyed permutation
(08_numerics.md R242, R243, R245; 05_graph_sampling.md R131). -/

namespace Sys2Proof.Machine

open Sys2Proof

/-- The 256-bit value whose bit i is `f i`. -/
def mixOf (f : Nat → Bool) : Mix :=
  BitVec.ofNat 256 ((List.range 256).foldr (fun i acc => acc * 2 + b2n (f i)) 0)

/-- The round constant k(r) (R242). -/
def mixK (r : Nat) : Mix := BitVec.ofNat 256 ((r + 1) * 0x9E3779B9 % 2 ^ 32)

/-- A mixer round (R242): rule 30, the round constant, and the placing of bit i at 29 × i mod 256.
Bit j of the result is bit 53 × j mod 256 of the sum, since 29 × 53 leaves 1 modulo 256. -/
def mixround (x : Mix) (r : Nat) : Mix :=
  let t := (x.rotateLeft 1 ^^^ (x ||| x.rotateRight 1) ^^^ mixK r).toNat
  mixOf fun j => t.testBit (53 * j % 256)

/-- The keyed block of seed, stream identity and element index (R243). -/
def keyed (seed : Word) (stream : BitVec 40) (e : BitVec 24) : Mix :=
  let x0 : Mix := BitVec.ofNat 256
    (seed.toNat + stream.toNat * 2 ^ 64 + e.toNat * 2 ^ 104 + 0x5A5A5A5A5A5A5A5A5A5A5A5A5A5A5A5A * 2 ^ 128)
  ((List.range 8).foldl mixround x0) ^^^ x0

/-- Bits [63:0] of the keyed block: mix of R131. -/
def mix64 (seed : Word) (stream : Nat) (e : Nat) : Nat :=
  (keyed seed (BitVec.ofNat 40 stream) (BitVec.ofNat 24 e)).toNat % 2 ^ 64

/-- Parity of the number of set bits of i, for i below 256. -/
def parity8 (i : Nat) : Bool := (List.range 8).foldl (fun p k => p != i.testBit k) false

/-- Cells whose own value takes part (R245). -/
def autoMask : Mix := mixOf parity8

/-- One generation of the running automaton (R245). -/
def autoStep (x : Mix) : Mix := (x <<< 1) ^^^ (x >>> 1) ^^^ (autoMask &&& x)

/-- A linear map of 256-bit values as the images of the 256 single bits. -/
def linApply (cols : List Mix) (x : Mix) : Mix :=
  (cols.zip (List.range 256)).foldl (fun acc c => if x.getLsbD c.2 then acc ^^^ c.1 else acc) 0

/-- The map applied twice. -/
def linSquare (cols : List Mix) : List Mix := cols.map (linApply cols)

/-- One generation as a linear map. -/
def autoCols : List Mix := (List.range 256).map fun i => autoStep (BitVec.ofNat 256 (2 ^ i))

/-- 2^n generations as a linear map. -/
def autoPow : Nat → List Mix
  | 0 => autoCols
  | n + 1 => linSquare (autoPow n)

/-- The states of `n` lanes, each 2^64 generations past the one before (R245). -/
def autoLanes (jump : List Mix) : Nat → Mix → List Mix
  | 0, _ => []
  | n + 1, x => x :: autoLanes jump n (linApply jump x)

/-- The state RINIT starts lane 0 from (R245). -/
def autoSeed (ra : Word) : Mix :=
  let x := keyed ra 0xFFFFFFFFFF 0
  if x = 0 then 1 else x

/-- A draw of the running mode: the new state and its 32 bits (R245, RDR). -/
def autoDraw (x : Mix) : Mix × W32 :=
  let x' := autoStep x
  (x', (mixround (mixround x' 0) 1).truncate 32)

/-- Half width of the shuffle network for n positions (R131). -/
def feistelHalf (n : Nat) : Nat := max 1 ((clog2 n + 1) / 2)

/-- The six-round network (R131). -/
def feistel (key : Word) (epoch h x : Nat) : Nat :=
  let r := (List.range 6).foldl (fun (p : Nat × Nat) k =>
    let f := mix64 key epoch ((k <<< 20) ||| p.2) % 2 ^ h
    (p.2, (p.1 ^^^ f))) (x >>> h, x % 2 ^ h)
  (r.1 <<< h) ||| r.2

/-- The cycle walk: the first value below n, and how many evaluations it took. The domain has 2^(2h) values, so a
walk of that many steps always ends (R131). -/
def cycleWalk (key : Word) (epoch h n : Nat) : Nat → Nat → Nat → Nat × Nat
  | 0, y, k => (y, k)
  | fuel + 1, y, k => if y < n then (y, k) else cycleWalk key epoch h n fuel (feistel key epoch h y) (k + 1)

/-- π(i) with the number of Feistel evaluations (R131). -/
def shufflePi (key : Word) (epoch n i : Nat) : Nat × Nat :=
  let h := feistelHalf n
  cycleWalk key epoch h n (2 ^ (2 * h)) (feistel key epoch h i) 1

end Sys2Proof.Machine
end

