-- ==== Sys2Proof/Machine/Convert.lean ====
section
/-! DEFINITION. Conversion between registers, plane instructions and random numbers
(08_numerics.md R226 to R237, R243 to R246; 04_selod_isa.md Tables 4.13 and 4.15). -/

namespace Sys2Proof.Machine

open Sys2Proof

/-! ### Widening and narrowing one element -/

/-- Widens an element by a pair of Table 8.3: its code in the destination, and whether a finite element became
infinite (R226). -/
def widenTo (src dst code scale : Nat) : Nat × Bool :=
  if dst = 0 then ((widen32 src code scale).1.toNat, (widen32 src code scale).2)
  else if dst = 1 then widenBf src code scale
  else (code, false)

/-- The 16-bit draw of R234 for draw number n of a task. -/
def drawOf (t : Task) (n : Nat) : Nat :=
  let seed := t.keySeed ^^^ t.step.zeroExtend 64
  let stream := t.keyStream ^^^ BitVec.ofNat 40 (n / 2 ^ 28)
  (keyed seed stream (BitVec.ofNat 24 (n / 16))).toNat >>> (16 * (n % 16)) % 65536

/-- The rounding in force for draw number n (R227, R233). -/
def roundingOf (t : Task) (sr : Bool) (n : Nat) : Rounding := if sr then .stochastic (drawOf t n) else .nearest

/-- The low bits of a lane that hold an element of a format. -/
def lowCode (src : Nat) (w : W32) : Nat := w.toNat % 2 ^ codeBits src

/-- One lane of CVTN: the narrowed code and its counts (R227 to R229, R234). -/
def cvtnLane (t : Task) (src dst : Nat) (sr : Bool) (base : Word) (w : W32) (l : Nat) : Nat × Counts :=
  narrow dst (roundingOf t sr ((base.toNat + l) % 2 ^ 64)) (elVal src (lowCode src w) 0)

/-- The sum of the counts of the lanes the guard admits. -/
def Task.sumCounts (t : Task) (g : Guard) (f : Nat → Counts) : Counts :=
  ((List.range t.lanes).filter (t.guardBit g)).foldl (fun c l => c.add (f l)) Counts.zero

/-- A lane instruction with counts of its own for each lane. -/
def laneCounted (w : Who) (g : Guard) (ok : Task → Bool) (vd : Fin 32) (f : Task → Nat → Nat × Counts) (s : State) :
    Out :=
  countedOp w ok (fun t =>
    (t.setVec g vd (fun l => BitVec.ofNat 32 (f t l).1), t.sumCounts g fun l => (f t l).2)) s

/-- func of a conversion from its operands. -/
def cvtFunc (src dst : BitVec 4) (block : BitVec 2) (sr : Bool) : Nat :=
  src.toNat + 16 * dst.toNat + 256 * block.toNat + 1024 * b2n sr

/-- CVTN, register form (R229). -/
def execCvtnRegister (t : Who) (g : Guard) (vd va : Fin 32) (rc : Fin 64) (src dst : BitVec 4) (sr : Bool) (s : State) :
    Out :=
  laneCounted t g (fun x => cvtRegFunc (decide (x.level ≠ 1)) true (cvtFunc src dst 0 sr)) vd
    (fun x l => cvtnLane x src.toNat dst.toNat sr (x.sreg rc) (x.lane va l) l) s

/-- CVTW, register form (R226, R229). -/
def execCvtwRegister (t : Who) (g : Guard) (vd va : Fin 32) (src dst : BitVec 4) (s : State) : Out :=
  laneCounted t g (fun x => cvtRegFunc (decide (x.level ≠ 1)) false (cvtFunc src dst 0 false)) vd
    (fun x l =>
      let r := widenTo src.toNat dst.toNat (lowCode src.toNat (x.lane va l)) 0
      (r.1, ⟨0, b2n r.2⟩)) s

/-! ### Planes (R236, R237) -/

/-- SPLIT (R237). The head of each lane, or its tail. -/
def execSplit (t : Who) (g : Guard) (vd va : Fin 32) (tail : Bool) (s : State) : Out :=
  laneOp t g anyLevel vd (fun x l =>
    if tail then x.lane va l &&& 0xFFFF else x.lane va l >>> 16) s

/-- JOIN (R237). -/
def execJoin (t : Who) (g : Guard) (vd va vb : Fin 32) (s : State) : Out :=
  laneOp t g anyLevel vd (fun x l => (x.lane va l <<< 16) ||| (x.lane vb l &&& 0xFFFF)) s

/-- The 40-bit extended master of an FP32 word and a fringe (R236). -/
def master (w fringe : W32) : Nat := w.toNat * 256 + fringe.toNat % 256

/-- The exact sum of a master and an FP32 value, rounded to the 40-bit format (R237). -/
def masterAdd (w fringe c : W32) : Nat := fmt40.enc false ((fmt40.val (master w fringe)).add (f32 c))

/-- SPLITX (R237). The FP32 word of the sum, whose infinities and NaNs are counted, or its fringe. -/
def execSplitx (t : Who) (g : Guard) (vd va vb vc : Fin 32) (fringe : Bool) (s : State) : Out :=
  laneCounted t g level2 vd (fun x l =>
    let m := masterAdd (x.lane va l) (x.lane vb l) (x.lane vc l)
    if fringe then (m % 256, Counts.zero) else (m / 256, ⟨0, b2n (nonfin (toW (m / 256)))⟩)) s

/-- JOINX (R237, R238). A finite master past the largest FP32 value saturates. -/
def execJoinx (t : Who) (g : Guard) (vd va vb : Fin 32) (s : State) : Out :=
  laneCounted t g level2 vd (fun x l =>
    narrowFmt fmt32 .nearest (fmt40.val (master (x.lane va l) (x.lane vb l)))) s

/-! ### Random numbers (R244, R245) -/

/-- RKEY (R244, level 2). -/
def execRkey (t : Who) (g : Guard) (ra rb : Fin 64) (s : State) : Out :=
  onTask t level2 (fun x =>
    if x.acts g then { x with keySeed := x.sreg ra, keyStream := (x.sreg rb).truncate 40 } else x) s

/-- RDK (R244, level 2). -/
def execRdk (t : Who) (g : Guard) (vd : Fin 32) (ra : Fin 64) (s : State) : Out :=
  laneOp t g level2 vd (fun x l =>
    (keyed x.keySeed x.keyStream ((x.sreg ra).truncate 24 + BitVec.ofNat 24 l)).truncate 32) s

/-- Running states written in the lanes the guard admits. -/
def Task.setRng (t : Task) (g : Guard) (xs : List Mix) : Task :=
  { t with rng := ((List.range t.lanes).zip xs).foldl (fun r e => if t.guardBit g e.1 then r.put e.1 e.2 else r) t.rng }

/-- RINIT (R245). -/
def execRinit (t : Who) (g : Guard) (ra : Fin 64) (s : State) : Out :=
  onTask t anyLevel (fun x =>
    x.setRng g (autoLanes (autoPow 64) x.lanes (autoSeed (x.sreg ra)))) s

/-- RDR (R245). An excluded lane does not advance. -/
def execRdr (t : Who) (g : Guard) (vd : Fin 32) (s : State) : Out :=
  onTask t anyLevel (fun x =>
    let d := fun l => autoDraw (x.rngLane l)
    (x.setVec g vd fun l => (d l).2).setRng g ((List.range x.lanes).map fun l => (d l).1)) s

end Sys2Proof.Machine
end

