-- ==== Sys2Proof/Machine/Matrix.lean ====
section
/-! DEFINITION. The cube array, the accumulator moves and the conversions in memory
(07_cube_array.md R196 to R211; 08_numerics.md R230 to R234). -/

namespace Sys2Proof.Machine

open Sys2Proof

/-! ### The weight panel descriptor (R197, R200) -/

/-- An MXM with its descriptor's fields (Tables 4.5, 7.1 and 7.3). -/
structure MxmOp where
  minor : Nat
  ra : Nat
  depth : Nat
  span : Nat
  acc : Bool
  wt : Bool
  desc : Nat
  deriving DecidableEq, Repr

/-- Minors whose operands carry block scales. -/
def MxmOp.mx (o : MxmOp) : Bool := o.minor = 4 || o.minor = 7 || o.minor = 8
/-- Ks: the depth of one step (R103). -/
def MxmOp.ks (o : MxmOp) : Nat := if o.minor = 5 then 16 else 32
def MxmOp.k (o : MxmOp) : Nat := o.depth * o.ks
def MxmOp.cols (o : MxmOp) : Nat := 32 * o.span
def MxmOp.isLocal (o : MxmOp) : Bool := bitN o.desc 8
def MxmOp.statT (o : MxmOp) : Bool := bitN o.desc 9
/-- Elements of a block along K (Table 7.3). -/
def MxmOp.block (o : MxmOp) : Nat := 16 * 2 ^ bitsN o.desc 11 10
def MxmOp.advance (o : MxmOp) : Nat := bitsN o.desc 15 14
def MxmOp.pStride (o : MxmOp) : Nat := 64 * bitsN o.desc 31 16
def MxmOp.sStride (o : MxmOp) : Nat := 64 * bitsN o.desc 47 32
def MxmOp.sOff (o : MxmOp) : Nat := bitsN o.desc 79 64
def MxmOp.panel (o : MxmOp) : Nat := bitsN o.desc 191 128
def MxmOp.pScale (o : MxmOp) : Nat := bitsN o.desc 255 192
def MxmOp.psStride (o : MxmOp) : Nat := bitsN o.desc 271 256
def MxmOp.ssStride (o : MxmOp) : Nat := bitsN o.desc 287 272
def MxmOp.sScale (o : MxmOp) : Nat := bitsN o.desc 351 288

/-- Format of an operand's elements as a code of Table 8.1; block-scaled elements are read with scale 2^0. -/
def MxmOp.fmt (o : MxmOp) (panel : Bool) : Nat :=
  let alt := if panel then bitN o.desc 13 else bitN o.desc 12
  match o.minor with
  | 0 => 3
  | 1 => if panel then 4 else 3
  | 2 => if panel then 3 else 4
  | 3 => 4
  | 4 => if alt then 7 else 6
  | 5 => 1
  | 6 => 5
  | 7 => if alt then 9 else 8
  | _ => 10

/-- Packed length of n elements of the operands' width (R198, off). -/
def MxmOp.packed (o : MxmOp) (n : Nat) : Nat := packedBytes (o.fmt false) n

/-- The checks of R200 on the descriptor, ra and the instruction's fields. A version 1 descriptor holds block = 1 where
the minor has blocks (DEDUCED, log entry 23). -/
def MxmOp.ok (o : MxmOp) : Bool :=
  let v := bitsN o.desc 3 0
  let z := fun hi lo => bitsN o.desc hi lo = 0
  bitsN o.desc 7 4 = 0xB && (v = 1 || v = 2) && z 63 48 && z 127 80 && z 511 352
    && (o.mx || z 11 10) && (o.minor = 4 || o.minor = 7 || z 13 12)
    && o.advance ≠ 3 && bitsN o.desc 31 16 ≠ 0 && bitsN o.desc 47 32 ≠ 0
    && (if o.mx then o.psStride ≠ 0 && o.ssStride ≠ 0 else z 255 192 && z 351 256)
    && (v = 2 || (o.sOff = 0 && (!o.mx || bitsN o.desc 11 10 = 1)))
    && (!o.mx || (o.k % o.block = 0 && !o.wt && !o.statT))
    && o.ra % 64 = 0 && o.panel % 8 = 0
    && o.sStride ≥ o.packed (o.sOff + if o.statT then 16 else o.k)
    && o.pStride ≥ o.packed (if o.wt then o.k else o.cols)

/-- The fault address of a descriptor (R159, R200). -/
def descFault (d : Nat) : Bad := .violation 5 4 (0xD000000000000000 + d)

/-! ### Operands (R198) -/

/-- Rows of n bytes at a stride, read in order. -/
def readRows (rd : Nat → Nat → Except Bad (List Byte)) (base stride n : Nat) : Nat → Except Bad (List (List Byte))
  | 0 => .ok []
  | k + 1 => do
    let r ← readRows rd base stride n k
    let b ← rd (base + stride * k) n
    return r ++ [b]

/-- Bytes of a stationary row that lie wholly before its first element. -/
def MxmOp.skip (o : MxmOp) : Nat := o.sOff * codeBits (o.fmt false) / 8
/-- Bytes of a stationary row that an MXM reads, and its rows. -/
def MxmOp.statBytes (o : MxmOp) : Nat := o.packed (o.sOff + if o.statT then 16 else o.k) - o.skip
def MxmOp.statRows (o : MxmOp) : Nat := if o.statT then o.k else 16

/-- The rows an MXM reads: stationary rows, stationary scales, panel rows, panel scales. -/
structure MxmData where
  stat : List (List Byte)
  sScale : List (List Byte)
  pan : List (List Byte)
  pScale : List (List Byte)

/-- Reads every operand (Table 7.4). The panel lies in the near or far tier where it is not local (R200). -/
def MxmOp.read (o : MxmOp) (s : State) (w : Who) (t : Task) : Except Bad MxmData := do
  let cis := readLoc s w t true useRead
  let pan := readLoc s w t o.isLocal (Use.of 0 nearFar)
  let blocks := o.k / o.block
  let a ← readRows cis (o.ra + o.skip) o.sStride o.statBytes o.statRows
  let b ← if o.mx then readRows cis o.sScale o.ssStride blocks 16 else .ok []
  let c ← readRows pan o.panel o.pStride (o.packed (if o.wt then o.k else o.cols)) (if o.wt then o.cols else o.k)
  let d ← if o.mx then readRows pan o.pScale o.psStride o.cols blocks else .ok []
  return ⟨a.map (List.replicate o.skip 0 ++ ·), b, c, d⟩

/-- The value of an element of a packed row, with no scale. -/
def elemVal (fmt : Nat) (row : List Byte) (i : Nat) : Val := elVal fmt (unpack fmt row i) 127

/-- Stationary element (r, k). -/
def MxmOp.statVal (o : MxmOp) (m : MxmData) (r k : Nat) : Val :=
  if o.statT then elemVal (o.fmt false) (m.stat.getD k []) (o.sOff + r)
  else elemVal (o.fmt false) (m.stat.getD r []) (o.sOff + k)

/-- Panel element (k, n). -/
def MxmOp.panVal (o : MxmOp) (m : MxmData) (k n : Nat) : Val :=
  if o.wt then elemVal (o.fmt true) (m.pan.getD n []) k else elemVal (o.fmt true) (m.pan.getD k []) n

/-- The scales of a block: their exponents' sum less 254, none where a code is 0xFF (R208). -/
def MxmOp.scale (_o : MxmOp) (m : MxmData) (r c b : Nat) : Option Int :=
  let ea := ((m.sScale.getD r []).getD b 0).toNat
  let eb := ((m.pScale.getD b []).getD c 0).toNat
  if ea = 255 || eb = 255 then none else some ((ea : Int) + eb - 254)

/-- A value of the tree that covers whole blocks, scaled (R208). -/
def scaleNode (x : W32) : Option Int → W32
  | none => nan32
  | some k => round32 ((f32 x).scale k)

/-- tree(k, r, c) (R207 to R209). -/
def MxmOp.tree (o : MxmOp) (m : MxmData) (k r c : Nat) : W32 :=
  let q := (List.range o.ks).map fun j =>
    (o.statVal m r (k * o.ks + j)).mul (o.panVal m (k * o.ks + j) c)
  if o.minor = 6 then round32 (q.foldl Val.add (.fin false 0 0))
  else
    let p := q.map round32
    if !o.mx then treeSum 5 p
    else if o.block = 16 then
      fadd (scaleNode (treeSum 4 (p.take 16)) (o.scale m r c (2 * k)))
        (scaleNode (treeSum 4 (p.drop 16)) (o.scale m r c (2 * k + 1)))
    else scaleNode (treeSum 5 p) (o.scale m r c (k * 32 / o.block))

/-- One element of the tile after the MXM (R201): depth steps in increasing order. -/
def MxmOp.elem (o : MxmOp) (m : MxmData) (old : W32) (r c : Nat) : W32 :=
  (List.range o.depth).foldl (fun x k => if k = 0 && !o.acc then o.tree m k r c else fadd x (o.tree m k r c)) old

/-- The descriptor after the MXM has issued (R199). Along N, p_scale grows for every minor, as the rule has it (log entry
23). -/
def MxmOp.advanced (o : MxmOp) : Rec :=
  let grow := fun (p sc : Nat) =>
    let d := o.desc - o.panel * 2 ^ 128 - o.pScale * 2 ^ 192
    BitVec.ofNat 512 (d + (o.panel + p) % 2 ^ 64 * 2 ^ 128 + (o.pScale + sc) % 2 ^ 64 * 2 ^ 192)
  match o.advance with
  | 1 => grow (if o.wt then o.pStride * o.cols else o.packed o.cols) o.cols
  | 2 => grow (if o.wt then o.packed o.k else o.pStride * o.k) (if o.mx then o.psStride * (o.k / o.block) else 0)
  | _ => BitVec.ofNat 512 o.desc

/-- Rows of a panel and of its scales. -/
def MxmOp.panelRows (o : MxmOp) : List (Nat × Nat) :=
  let rows := fun (base stride n k : Nat) => (List.range k).map fun i => (base + stride * i, n)
  rows o.panel o.pStride (o.packed (if o.wt then o.k else o.cols)) (if o.wt then o.cols else o.k)
    ++ if o.mx then rows o.pScale o.psStride o.cols (o.k / o.block) else []

/-- The ranges an MXM reads, for R203. A panel in device memory is given piece by piece. -/
def MxmOp.reads (o : MxmOp) (s : State) (t : Task) : List (Option Tier × Nat × Nat) :=
  let rows := fun (base stride n k : Nat) => (List.range k).map fun i => (base + stride * i, n)
  let blocks := o.k / o.block
  let st := rows (o.ra + o.skip) o.sStride o.statBytes o.statRows
  let ss := if o.mx then rows o.sScale o.ssStride blocks 16 else []
  let dev := fun (l : List (Nat × Nat)) => l.flatMap fun r =>
    match range s t.ctx (Use.of 0 nearFar) r.1 r.2 with
    | .ok ps => ps.map fun p => (some p.1, p.2.1, p.2.2)
    | .error _ => []
  (st ++ ss).map (fun r => (none, r.1, r.2))
    ++ (if o.isLocal then o.panelRows.map (fun r => (none, r.1, r.2)) else dev o.panelRows)

/-- Four MXMs of the core are unfinished (R204). -/
def arrayFull (s : State) (core : Nat) : Bool := decide ((s.core core).mxmQueue.length ≥ 4)

/-- An MXM finds the array idle and its quadrant's array issue permitted: its array steps start at once (R204, R390, R394). -/
def arrayIdle (s : State) (core : Nat) : Bool := (s.core core).mxmQueue.isEmpty && !withheld s core

/-- MXM (R103, R197 to R211). Guarded per tile row: a guard that permits no row still takes the array. The tile takes
its result at issue and the record stays until the finish (log entry 9). Its array steps start when it has the array. -/
def execMxm (t : Who) (g : Guard) (grp : Fin 8) (minor : Fin 9) (tile : Fin 8) (ra : Fin 64) (d : Fin 16)
    (depthM1 : Fin 64) (spanM1 : Fin 8) (acc wt : Bool) (s : State) : Out :=
  match s.task t with
  | none => go s
  | some x =>
    if x.groups.get 0 grp.val ≥ 255 || arrayFull s t.core || moveOn s t tile.val then go s
    else
      issue t (fun x => decide (minor.val < 7) || level2 x) (fun x s =>
        let o : MxmOp := ⟨minor.val, (x.sreg ra).toNat, depthM1.val + 1, spanM1.val + 1, acc, wt, (x.desc d).toNat⟩
        if !o.ok then failParcel x.ctx x.hostSeq (some t) x.pc (Who.die t) (descFault d.val) s
        else
          match o.read s t x with
          | .error b => failParcel x.ctx x.hostSeq (some t) x.pc (Who.die t) b s
          | .ok m =>
            let x' := x.setTile tile.val fun r c =>
              if c < o.cols && x.guardBit g r then some (o.elem m (x.elem tile.val r c) r c) else none
            let mine := fun (r : Nat) => if x.guardBit g r then 2 ^ o.cols - 1 else 0
            let op := AsyncOp.bind { AsyncOp.of s.nextOp t x grp.val "MXM" with
              tile := some tile.val, reads := o.reads s x, cells := (List.range 16).map mine
              minor := minor.val, steps := if arrayIdle s t.core then 0 else o.depth * o.span } s ⟨if o.isLocal then [] else o.panelRows, []⟩
            let s0 := if acc then s else overwrite t tile.val mine s
            let s1 := s0.setTask t ((x'.setDesc d o.advanced).join grp).advance
            let s2 := s1.modCore t.core fun c => { c with mxmQueue := c.mxmQueue ++ [s.nextOp] }
            let s3 := if arrayIdle s t.core then countSteps (Who.die t) minor.val (o.depth * o.span) s2 else s2
            { s3 with ops := s3.ops ++ [op], nextOp := s.nextOp + 1 }) s

/-! ### Accumulator moves (Table 4.10, R210, R231) -/

/-- The columns of a row that a move of whole rows writes, as bits. -/
def wholeRows (x : Task) (g : Guard) (r : Nat) : Nat := if x.guardBit g r then 2 ^ 256 - 1 else 0

/-- AZERO (Table 4.10). Zeroes the rows of the tile that the guard admits, at once. -/
def execAzero (t : Who) (g : Guard) (tile : Fin 8) (s : State) : Out :=
  waiting (mxmInto s t tile.val) s <| issue t anyLevel (fun x s =>
    overwrite t tile.val (wholeRows x g)
      (s.setTask t (x.setTile tile.val fun r _ => if x.guardBit g r then some 0 else none).advance)) s

/-- An accumulator move: guarded per tile row, asynchronous, it waits for the task's MXMs into its tile (R203). -/
def moveOp (w : Who) (grp : Fin 8) (tile : Fin 8) (name : String) (ok : Task → Bool)
    (f : Task → State → Except Bad State) (s : State) : Out :=
  match s.task w with
  | none => go s
  | some x =>
    if x.groups.get 0 grp.val ≥ 255 || mxmInto s w tile.val then go s
    else
      issue w ok (fun t s =>
        match f t (s.setTask w (t.join grp).advance) with
        | .error b => failParcel t.ctx t.hostSeq (some w) t.pc (Who.die w) b s
        | .ok s1 =>
          { s1 with ops := s1.ops ++ [{ AsyncOp.of s.nextOp w t grp.val name with tile := some tile.val }],
                    nextOp := s.nextOp + 1 }) s

/-- Bytes of one row of a whole FP32 tile. -/
def tileRowBytes (t : Task) (tile r : Nat) : List Byte :=
  (List.range 256).flatMap fun c => leBytes 4 (t.elem tile r c).toNat

/-- Rows of a tile that the guard admits. -/
def Task.onRows (t : Task) (g : Guard) : List Nat := (List.range 16).filter (t.guardBit g)

/-- The 16 KiB of a tile in the cistern: 4-byte aligned and within the footprint (R102; DEDUCED, log entry 24). -/
def tileCheck (t : Task) (access a : Nat) : Except Bad Unit :=
  if a + 16384 > t.footprint then .error (cisOutside t.footprint access a)
  else if a % 4 ≠ 0 then .error (cisFault access 1 a)
  else .ok ()

/-- ALOAD (R210). Row r at ra + 1,024 × r, exactly. -/
def execAload (t : Who) (g : Guard) (grp : Fin 8) (tile : Fin 8) (ra : Fin 64) (s : State) : Out :=
  moveOp t grp tile "ALOAD" anyLevel (fun x s => do
    let a := (x.sreg ra).toNat
    tileCheck x 0 a
    cisParity s t.core a 16384
    let m := s.cis t.core
    return overwrite t tile.val (wholeRows x g) (s.modTask t fun y => y.setTile tile.val fun r c =>
      if x.guardBit g r then some (BitVec.ofNat 32 (leNat (Memory.bytes m (a + 1024 * r + 4 * c) 4))) else none)) s

/-- ASTORE (R210). -/
def execAstore (t : Who) (g : Guard) (grp : Fin 8) (tile : Fin 8) (ra : Fin 64) (s : State) : Out :=
  moveOp t grp tile "ASTORE" anyLevel (fun x s => do
    let a := (x.sreg ra).toNat
    tileCheck x 1 a
    return (x.onRows g).foldl (fun s r => cisPut t.core (a + 1024 * r) (tileRowBytes x tile.val r) s) s) s

/-- Elements of a block from its code (Table 4.10, R230, R231). -/
def blockOf (b : BitVec 2) : Nat := 16 * 2 ^ b.toNat

/-- The block size and the formats of a narrowing into memory. -/
structure Narrowing where
  dst : Nat
  block : Nat
  sr : Bool
  deriving DecidableEq, Repr

/-- Draw number of element i of a packed array at a cistern or device byte address (R234). -/
def drawNumber (dst : Nat) (base i : Nat) : Nat := (8 * base + i * codeBits dst) / 4

/-- Narrows values whose first lies at `base` for its draws: element codes, scale codes and counts (R227, R228, R232).
The values form whole blocks where the format is block-scaled. -/
def narrowList (t : Task) (nw : Narrowing) (base : Nat) (xs : List Val) : List Nat × List Nat × Counts :=
  let rs := (List.range xs.length).map fun i => roundingOf t nw.sr (drawNumber nw.dst base i)
  match fmtCode nw.dst with
  | .mx f =>
    let bs := (List.range (xs.length / nw.block)).map fun b =>
      narrowBlock f ((rs.drop (b * nw.block)).take nw.block) ((xs.drop (b * nw.block)).take nw.block)
    (bs.flatMap (·.1), bs.map (·.2.1), bs.foldl (fun c b => c.add b.2.2) Counts.zero)
  | _ =>
    let ys := List.zipWith (fun r v => narrow nw.dst r v) rs xs
    (ys.map (·.1), [], ys.foldl (fun c y => c.add y.2) Counts.zero)

/-- ASTN (R231). Narrows the rows the guard admits into the cistern, scales after the sixteen packed rows. -/
def execAstn (t : Who) (g : Guard) (grp : Fin 8) (tile : Fin 8) (ra : Fin 64) (fmt : BitVec 4) (block : BitVec 2)
    (sr : Bool) (s : State) : Out :=
  moveOp t grp tile "ASTN"
    (fun x => 1 ≤ fmt.toNat && fmt.toNat ≤ 10 && (level2 x || !codeLevel2 fmt.toNat))
    (fun x s => do
      let a := (x.sreg ra).toNat
      let nw : Narrowing := ⟨fmt.toNat, blockOf block, sr⟩
      let row := packedBytes nw.dst 256
      let scales := if isBlock nw.dst then 256 / nw.block else 0
      let total := 16 * row + 16 * scales
      if a + total > x.footprint then .error (cisOutside x.footprint 1 a)
      else if a % 64 ≠ 0 then .error (cisFault 1 1 a)
      else
        let one := fun (p : State × Counts) (r : Nat) =>
          let n := narrowList x nw (2 ^ 57 + a + r * row) ((List.range 256).map fun c => f32 (x.elem tile.val r c))
          let s1 := cisPut t.core (a + r * row) (packEls nw.dst n.1) p.1
          let s2 := if scales = 0 then s1
            else cisPut t.core (a + 16 * row + r * scales) (n.2.1.map (BitVec.ofNat 8)) s1
          (s2, p.2.add n.2.2)
        let p := (x.onRows g).foldl one (s, Counts.zero)
        return countNum x.ctx x.hostSeq (Who.die t) p.2 p.1) s

/-! ### Conversions in memory (R230) -/

/-- Address of the scales of a block-scaled array of n elements at a (R223): the next 64-byte boundary. -/
def scalesAt (c a n : Nat) : Nat := roundUp (a + packedBytes c n) 64

/-- An array's element codes and, per element, its scale code. -/
def readArray (s : State) (w : Who) (t : Task) (isCis : Bool) (c a n block : Nat) :
    Except Bad (List (Nat × Nat)) := do
  let bs ← readLoc s w t isCis (Use.of 0 nearFarHost) a (packedBytes c n)
  let sc ← if isBlock c then readLoc s w t isCis (Use.of 0 nearFarHost) (scalesAt c a n) (n / block) else .ok []
  return (List.range n).map fun i => (unpack c bs i, ((sc.getD (i / block) 127)).toNat)

/-- Writes an array's elements and scales. -/
def writeArray (s : State) (w : Who) (t : Task) (isCis : Bool) (c a : Nat) (els scales : List Nat) :
    Except Bad State := do
  let s1 ← writeLoc s w t isCis useWrite a (packEls c els)
  if isBlock c then writeLoc s1 w t isCis useWrite (scalesAt c a els.length) (scales.map (BitVec.ofNat 8))
  else .ok s1

/-- rc of a memory-form conversion is well formed (R230). -/
def cvtCountOk (rc block : Nat) (blocked : Bool) : Bool :=
  bitsN rc 31 0 ≠ 0 && bitsN rc 60 32 = 0 && bitsN rc 63 63 = 0 && (!blocked || bitsN rc 31 0 % block = 0)

/-- Natural alignment of an array's elements (R102). -/
def arrayAlign (isCis : Bool) (access c a : Nat) : Except Bad Unit :=
  let n := max 1 (codeBits c / 8)
  if a % n = 0 then .ok ()
  else if isCis then .error (cisFault access 1 a) else .error (.violation access 1 a)

/-- The bytes of an array, and those of its scales. -/
def arrayRanges (c a n block : Nat) : List (Nat × Nat) :=
  (a, packedBytes c n) :: if isBlock c then [(scalesAt c a n, n / block)] else []

/-- What a memory-form conversion names. -/
def cvtNamed (ra rb rc : Fin 64) (src dst : BitVec 4) (block : BitVec 2) (t : Task) (_s : State) : Named :=
  let n := (t.sreg rc).toNat
  let from' := arrayRanges src.toNat (t.sreg ra).toNat (bitsN n 31 0) (blockOf block)
  let into := arrayRanges dst.toNat (t.sreg rb).toNat (bitsN n 31 0) (blockOf block)
  ⟨(if bitN n 61 then [] else from') ++ (if bitN n 62 then [] else into), into.map fun r => (bitN n 62, r.1, r.2)⟩

/-- What a memory-form conversion does to the state: `f` maps the elements of the source, given the draw base of the
destination, to the destination's elements, scales and counts. -/
def cvtEffect (w : Who) (ra rb rc : Fin 64) (src dst : BitVec 4) (block : BitVec 2)
    (f : Task → Nat → List (Nat × Nat) → List Nat × List Nat × Counts) (t : Task) (s : State) : Except Bad State := do
  let n := (t.sreg rc).toNat
  let cnt := bitsN n 31 0
  let b := blockOf block
  if !cvtCountOk n b (isBlock src.toNat || isBlock dst.toNat) then .error (.violation 2 4 t.pc.toNat)
  else
    let a := (t.sreg ra).toNat
    let o := (t.sreg rb).toNat
    let sc := bitN n 61
    let dc := bitN n 62
    arrayAlign sc 0 src.toNat a
    arrayAlign dc 1 dst.toNat o
    let xs ← readArray s w t sc src.toNat a cnt b
    let y := f t (if dc then 2 ^ 57 + o else o) xs
    let s1 ← writeArray s w t dc dst.toNat o y.1 y.2.1
    return countNum t.ctx t.hostSeq (Who.die w) y.2.2 s1

/-- The elements that CVTN makes in memory (R230). A raw pair keeps the low bits of each element and counts nothing. -/
def cvtnElems (src dst : BitVec 4) (block : BitVec 2) (sr : Bool) (x : Task) (base : Nat) (xs : List (Nat × Nat)) :
    List Nat × List Nat × Counts :=
  if isRaw src.toNat then (xs.map fun e => e.1 % 2 ^ codeBits dst.toNat, [], Counts.zero)
  else narrowList x ⟨dst.toNat, blockOf block, sr⟩ base (xs.map fun e => elVal src.toNat e.1 e.2)

/-- The elements that CVTW makes in memory (R226, R230). -/
def cvtwElems (src dst : BitVec 4) (_x : Task) (_base : Nat) (xs : List (Nat × Nat)) : List Nat × List Nat × Counts :=
  let ys := xs.map fun e => widenTo src.toNat dst.toNat e.1 e.2
  (ys.map (·.1), [], ⟨0, (ys.filter (·.2)).length⟩)

/-- CVTN, memory form (R230). -/
def execCvtnMemory (t : Who) (g : Guard) (grp : Fin 8) (ra rb rc : Fin 64) (src dst : BitVec 4) (block : BitVec 2)
    (sr : Bool) (s : State) : Out :=
  async t g grp (fun x => cvtMemFunc (decide (x.level ≠ 1)) true (cvtFunc src dst block sr))
    (plainOp t grp "CVTN" (cvtNamed ra rb rc src dst block) (cvtEffect t ra rb rc src dst block (cvtnElems src dst block sr))) s

/-- CVTW, memory form (R226, R230). -/
def execCvtwMemory (t : Who) (g : Guard) (grp : Fin 8) (ra rb rc : Fin 64) (src dst : BitVec 4) (block : BitVec 2)
    (s : State) : Out :=
  async t g grp (fun x => cvtMemFunc (decide (x.level ≠ 1)) false (cvtFunc src dst block false))
    (plainOp t grp "CVTW" (cvtNamed ra rb rc src dst block) (cvtEffect t ra rb rc src dst block (cvtwElems src dst))) s

end Sys2Proof.Machine
end

