-- ==== Sys2Proof/Machine/Cistern.lean ====
section
/-! DEFINITION. Scalar and vector accesses to the cistern (04_selod_isa.md Tables 4.7 and 4.9, R99, R102). -/

namespace Sys2Proof.Machine

open Sys2Proof

/-- The address ra + imm (Table 4.7). -/
def Task.addr (t : Task) (ra : Fin 64) (imm : W32) : Nat := (t.sreg ra + sext imm).toNat

/-- A scalar load of n bytes from the cistern, zero-extended. -/
def cisLoad (w : Who) (g : Guard) (rd ra : Fin 64) (imm : W32) (n : Nat) (s : State) : Out :=
  guarded w g anyLevel (fun t s => do
    let bs ← cisRead s w t (t.addr ra imm) n n
    return s.modTask w fun x => x.setS rd (BitVec.ofNat 64 (leNat bs))) s

/-- A scalar store of the n low bytes of rd to the cistern. -/
def cisStore (w : Who) (g : Guard) (rd ra : Fin 64) (imm : W32) (n : Nat) (s : State) : Out :=
  guarded w g anyLevel (fun t s => cisWrite s w t (t.addr ra imm) n (leBytes n (t.sreg rd).toNat)) s

/-- CLD8 (R105). -/
def execCld8 (t : Who) (g : Guard) (rd ra : Fin 64) (imm : W32) (s : State) : Out := cisLoad t g rd ra imm 1 s
/-- CLD16 (R105). -/
def execCld16 (t : Who) (g : Guard) (rd ra : Fin 64) (imm : W32) (s : State) : Out := cisLoad t g rd ra imm 2 s
/-- CLD32 (R105). -/
def execCld32 (t : Who) (g : Guard) (rd ra : Fin 64) (imm : W32) (s : State) : Out := cisLoad t g rd ra imm 4 s
/-- CLD64 (R105). -/
def execCld64 (t : Who) (g : Guard) (rd ra : Fin 64) (imm : W32) (s : State) : Out := cisLoad t g rd ra imm 8 s
/-- CST8 (R105). -/
def execCst8 (t : Who) (g : Guard) (rd ra : Fin 64) (imm : W32) (s : State) : Out := cisStore t g rd ra imm 1 s
/-- CST16 (R105). -/
def execCst16 (t : Who) (g : Guard) (rd ra : Fin 64) (imm : W32) (s : State) : Out := cisStore t g rd ra imm 2 s
/-- CST32 (R105). -/
def execCst32 (t : Who) (g : Guard) (rd ra : Fin 64) (imm : W32) (s : State) : Out := cisStore t g rd ra imm 4 s
/-- CST64 (R105). -/
def execCst64 (t : Who) (g : Guard) (rd ra : Fin 64) (imm : W32) (s : State) : Out := cisStore t g rd ra imm 8 s

/-! ### Vector accesses (Table 4.9) -/

/-- The lanes the guard admits, in increasing order. -/
def Task.onLanes (t : Task) (g : Guard) : List Nat := (List.range t.lanes).filter (t.guardBit g)

/-- Every lane's address is checked in increasing lane order, the footprint first (R102); a word that is read passes its
parity (R316). -/
def laneChecks (s : State) (core foot access : Nat) (addr : Nat → Nat) : List Nat → Except Bad Unit
  | [] => .ok ()
  | l :: r => do
    cisCheck foot access (addr l) 4 4
    if access = 0 then cisParity s core (addr l) 4 else .ok ()
    laneChecks s core foot access addr r

/-- A vector instruction on memory: lane checks first, then its effect. -/
def laneMem (w : Who) (g : Guard) (access : Nat) (addr : Task → Nat → Nat) (f : Task → State → State) (s : State) :
    Out :=
  issue w anyLevel (fun t s =>
    match laneChecks s w.core t.footprint access (addr t) (t.onLanes g) with
    | .ok _ => f t (s.setTask w t.advance)
    | .error b => failParcel t.ctx t.hostSeq (some w) t.pc (Who.die w) b s) s

/-- A vector load: the lanes the guard admits. -/
def laneLoad (w : Who) (g : Guard) (vd : Fin 32) (addr : Task → Nat → Nat) (s : State) : Out :=
  laneMem w g 0 addr (fun t s =>
    s.modTask w fun x => x.setVec g vd fun l => BitVec.ofNat 32 (leNat (Memory.bytes (s.cis w.core) (addr t l) 4))) s

/-- A vector store in increasing lane order: where two lanes name one address the highest lane's value stays. -/
def laneStore (w : Who) (g : Guard) (vd : Fin 32) (addr : Task → Nat → Nat) (s : State) : Out :=
  laneMem w g 1 addr (fun t s =>
    (t.onLanes g).foldl (fun s l => cisPut w.core (addr t l) (leBytes 4 (t.lane vd l).toNat) s) s) s

/-- Addresses of the contiguous form. -/
def addrLine (ra : Fin 64) (imm : W32) (t : Task) (l : Nat) : Nat :=
  (t.sreg ra + sext imm + BitVec.ofNat 64 (4 * l)).toNat
/-- Addresses of the strided form. -/
def addrStride (ra rb : Fin 64) (t : Task) (l : Nat) : Nat := (t.sreg ra + BitVec.ofNat 64 l * t.sreg rb).toNat
/-- Addresses of the indexed form. -/
def addrIndex (ra : Fin 64) (vb : Fin 32) (t : Task) (l : Nat) : Nat :=
  (t.sreg ra + (t.lane vb l).zeroExtend 64).toNat

/-- VLD (Table 4.9). -/
def execVld (t : Who) (g : Guard) (vd : Fin 32) (ra : Fin 64) (imm : W32) (s : State) : Out :=
  laneLoad t g vd (addrLine ra imm) s
/-- VST (Table 4.9). -/
def execVst (t : Who) (g : Guard) (vd : Fin 32) (ra : Fin 64) (imm : W32) (s : State) : Out :=
  laneStore t g vd (addrLine ra imm) s
/-- VLDS (Table 4.9). -/
def execVlds (t : Who) (g : Guard) (vd : Fin 32) (ra rb : Fin 64) (s : State) : Out :=
  laneLoad t g vd (addrStride ra rb) s
/-- VSTS (Table 4.9). -/
def execVsts (t : Who) (g : Guard) (vd : Fin 32) (ra rb : Fin 64) (s : State) : Out :=
  laneStore t g vd (addrStride ra rb) s
/-- VLDX (Table 4.9). -/
def execVldx (t : Who) (g : Guard) (vd : Fin 32) (ra : Fin 64) (vb : Fin 32) (s : State) : Out :=
  laneLoad t g vd (addrIndex ra vb) s
/-- VSTX (Table 4.9). -/
def execVstx (t : Who) (g : Guard) (vd : Fin 32) (ra : Fin 64) (vb : Fin 32) (s : State) : Out :=
  laneStore t g vd (addrIndex ra vb) s

end Sys2Proof.Machine
end

