-- ==== Sys2Proof/Machine/Net.lean ====
section
/-! DEFINITION. Flits and their layout, routes, bundles and the sending side of a link port (13_utgor_links.md R355 to R357, R359,
R363 to R366). -/

namespace Sys2Proof.Machine

open Sys2Proof

/-! ### The die-to-die fabric (R18, R20) -/

/-- The fourteen edges of Table 1.3 in its order, each by the two dies it joins; IOD0 is die 8 and IOD1 die 9. -/
def fabricEdges : List (Nat × Nat) :=
  [(0, 1), (1, 2), (2, 3), (4, 5), (5, 6), (6, 7), (0, 4), (1, 5), (2, 6), (3, 7), (8, 0), (8, 4), (9, 3), (9, 7)]

/-- Row and column of a compute die. -/
def dieRow (d : Nat) : Nat := d / 4
def dieColumn (d : Nat) : Nat := d % 4

/-- Steps along a row from one column to another, the last included. -/
def alongRow (row a b : Nat) : List Nat :=
  if a ≤ b then (List.range (b - a)).map fun i => 4 * row + a + i + 1
  else (List.range (a - b)).map fun i => 4 * row + (a - i - 1)

/-- The column of the compute dies next to an I/O die. -/
def ioColumn (d : Nat) : Nat := if d = 8 then 0 else 3

/-- The dies that a flit passes from one die to another, both included: along its row to the column of its destination, then
along the column; an I/O die by the edge in the row of the compute die, and between the I/O dies along a whole row (R20). -/
def fabricPath (a b : Nat) : List Nat :=
  if a = b then [a]
  else if a < 8 && b < 8 then
    a :: alongRow (dieRow a) (dieColumn a) (dieColumn b) ++ (if dieRow a = dieRow b then [] else [b])
  else if a < 8 then a :: alongRow (dieRow a) (dieColumn a) (ioColumn b) ++ [b]
  else if b < 8 then a :: (4 * dieRow b + ioColumn a) :: alongRow (dieRow b) (ioColumn a) (dieColumn b)
  else if a = 8 then [8, 0, 1, 2, 3, 9]
  else [9, 7, 6, 5, 4, 8]

/-- The edge that joins two dies, by its number. -/
def edgeOf (a b : Nat) : Option Nat := fabricEdges.findIdx? fun e => e = (a, b) || e = (b, a)

/-- The edges of a path. -/
def pathEdges : List Nat → List Nat
  | a :: b :: r => (edgeOf a b).toList ++ pathEdges (b :: r)
  | _ => []

/-! ### Routes (R364, Table 13.8) -/

/-- The map entry of a port: bit 0 direction, bits 2:1 dimension, bit 3 assigned. -/
def Links.mapEntry (l : Links) (p : Nat) : Nat :=
  if p < 16 then l.portMap0.toNat >>> (4 * p) % 16 else l.portMap1.toNat >>> (4 * (p - 16)) % 16

/-- Bundle of a port: 2 × dimension + direction. -/
def Links.bundleOf (l : Links) (p : Nat) : Option Nat :=
  let e := l.mapEntry p
  if bitN e 3 then some (2 * bitsN e 2 1 + e % 2) else none

/-- Coordinate d of an address. -/
def coord (a : W32) (d : Nat) : Nat := bitsN a.toNat (8 * d + 7) (8 * d)

def Links.routing (l : Links) : Bool := bitN l.route.toNat 0
def Links.dims (l : Links) : Nat := bitsN l.route.toNat 2 1 + 1
/-- Low bit of the size field of dimension d. -/
def sizeBit (d : Nat) : Nat := if d = 0 then 8 else 8 + 12 * d
def Links.size (l : Links) (d : Nat) : Nat := bitsN l.route.toNat (sizeBit d + 7) (sizeBit d) + 1
def Links.ring (l : Links) (d : Nat) : Bool := bitN l.route.toNat (sizeBit d + 8)

/-- Where a flit goes next: it is delivered here, it takes a bundle (crossing the ring's end or not), or nowhere. -/
inductive Hop where
  | deliver
  | bundle (b : Nat) (crosses : Bool)
  | nowhere
  deriving DecidableEq, Repr

/-- An address lies within the configured sizes. -/
def Links.inside (l : Links) (a : W32) : Bool :=
  (List.range 4).all fun d => if d < l.dims then coord a d < l.size d else coord a d = 0

/-- The routing pseudocode of R364, from dimension d; `fuel` is the dimensions left. -/
def Links.hopFrom (l : Links) (dst : W32) : Nat → Nat → Hop
  | 0, _ => .deliver
  | fuel + 1, d =>
    let a := coord l.modAddr d
    let b := coord dst d
    if a = b then l.hopFrom dst fuel (d + 1)
    else
      let n := l.size d
      let plus := if l.ring d then decide ((b + n - a) % n ≤ n - (b + n - a) % n) else decide (b > a)
      .bundle (2 * d + b2n (!plus)) (l.ring d && (if plus then a = n - 1 else a = 0))

def Links.hop (l : Links) (dst : W32) : Hop :=
  if !l.routing || !l.inside dst then .nowhere else l.hopFrom dst l.dims 0

/-! ### Flits and ports -/

/-- Flits that a message takes (R357). -/
def Payload.flits : Payload → Nat
  | .reply _ data => if data.isEmpty then 1 else (data.length + 16 + 231) / 232
  | .contribution _ _ _ v => (v.length + 16 + 231) / 232
  | .directWrite _ _ _ d => (d.length + 16 + 231) / 232
  | _ => 1

/-- The kind of a message's flits (Table 13.5). -/
def Payload.kind : Payload → Nat
  | .request .. => 1
  | .reply .. => 2
  | .contribution .. => 3
  | .directWrite .. => 3
  | .withdrawal .. => 3
  | .check .. => 4
  | .pace .. => 5

/-- The payload of a whole message: 16 bytes, and the row where it carries one (R357). -/
def Payload.bytes : Payload → List Byte
  | .request record row span => leBytes 16 (Config.payloadHead [0, record.toNat, row, span]).toNat
  | .reply status data => leBytes 16 status.toNat ++ data
  | .contribution record row rank v => leBytes 16 (Config.payloadHead [1, record.toNat, row, rank]).toNat ++ v
  | .directWrite record row off d => leBytes 16 (Config.payloadHead [2, record.toNat, row, off]).toNat ++ d
  | .withdrawal record rank => leBytes 16 (Config.payloadHead [3, record.toNat, rank]).toNat
  | .check group gen wave => leBytes 16 (group.toNat + gen.toNat * 2 ^ 32 + wave.toNat * 2 ^ 64)
  | .pace group level duration =>
    leBytes 16 (group.toNat + level % 64 * 2 ^ 32 + duration % 2 ^ 32 * 2 ^ 64)

/-- The header of a flit at a version and with a sequence number (Table 13.3). -/
def Flit.header (version : Nat) (seq : BitVec 12) (f : Flit) : BitVec 128 :=
  BitVec.ofNat 128 (version % 16 + f.payload.kind * 2 ^ 4 + f.cls % 4 * 2 ^ 8 + b2n f.vc * 2 ^ 10 + 2 ^ 11 + seq.toNat * 2 ^ 16
    + f.dst.toNat * 2 ^ 32 + f.src.toNat * 2 ^ 64 + f.tag.toNat * 2 ^ 96 + f.context % 1024 * 2 ^ 112)

/-- The low half of its trailer: ack_seq, with ack_valid set (R356). -/
def Flit.trailer (f : Flit) : BitVec 32 := BitVec.ofNat 32 (f.ack.toNat + 2 ^ 12)

/-- The 256 bytes of a flit on a port (R355, R356). -/
def Flit.bytes (version : Nat) (seq : BitVec 12) (f : Flit) : List Byte :=
  let body := leBytes 16 (f.header version seq).toNat ++ takePad 0 232 (f.payload.bytes.drop (232 * f.part))
    ++ leBytes 4 f.trailer.toNat
  body ++ leBytes 4 (crc32c body).toNat

/-- The head that a message's flits have when they arrive together, here on the module that sent it to itself. -/
def Flit.head (f : Flit) : FlitHead := ⟨f.header 2 0, f.trailer, f.payload.flits⟩

/-- A message to be sent, by its first flit. -/
def Flit.first (cls : Nat) (dst src : W32) (tag : BitVec 16) (context : Nat) (payload : Payload) : Flit :=
  { cls := cls, vc := false, dst := dst, src := src, tag := tag, context := context, payload := payload, part := 0, ack := 0,
    held := none }

/-- The flits of a message (R357). -/
def Flit.all (f : Flit) : List Flit := (List.range f.payload.flits).map fun i => { f with part := i }

/-- A port that carries flits; a retrain keeps version, width and replay buffer (R352, R361). -/
def Port.live (p : Port) : Bool := p.state = .active || p.state = .retrain

/-- Weight of a live port in its bundle (R365). -/
def Port.weight (p : Port) : Nat :=
  if p.version = 2 then (if p.half then 2 else 4) else (if p.half then 1 else 2)

/-- Live ports of a bundle with their weights, in increasing number. -/
def Links.livePorts (l : Links) (b : Nat) : List (Nat × Nat) :=
  (List.range 32).filterMap fun p =>
    let x := l.ports.get Port.reset p
    if l.bundleOf p = some b && x.live then some (p, x.weight) else none

/-- The port whose slot a number names. -/
def slotPort : List (Nat × Nat) → Nat → Option Nat
  | [], _ => none
  | (p, w) :: r, n => if n < w then some p else slotPort r (n - w)

/-- The hash of R365: CRC-32C over source, destination and class, in little-endian bytes. -/
def pathHash (f : Flit) : Nat := (crc32c (leBytes 4 f.src.toNat ++ leBytes 4 f.dst.toNat ++ leBytes 1 f.cls)).toNat

def Links.pickPort (l : Links) (b : Nat) (f : Flit) : Option Nat :=
  let ps := l.livePorts b
  slotPort ps (pathHash f % max 1 ((ps.map (·.2)).sum))

/-- Virtual channel of a flit (R363). -/
def Flit.channel (f : Flit) : Nat := 2 * f.cls + b2n f.vc

/-- Priority of a class: 3, then 1, then 2, then 0 (R363). -/
def classRank (c : Nat) : Nat :=
  match c with
  | 3 => 0 | 1 => 1 | 2 => 2 | _ => 3

/-- Order in which flits are served: by class, and within a class the vc that the last flit of the class did not take
(R363). -/
def Port.turn (p : Port) (f : Flit) : Nat := 2 * classRank f.cls + b2n (p.lastVc.getLsbD f.cls = f.vc)

/-- The waiting flit to send next: the first in turn among those whose channel holds a credit, the oldest of them. -/
def Port.nextFlit (p : Port) : Option Nat :=
  let ready := p.waiting.zipIdx.filter fun e => p.credits.get 32 e.1.channel > 0
  (ready.foldl (fun (b : Option (Flit × Nat)) e => match b with
    | none => some e
    | some x => if p.turn e.1 < p.turn x.1 then some e else some x) none).map (·.2)

/-- The vc of each class's last flit, once a flit has gone. -/
def Port.tookVc (p : Port) (f : Flit) : BitVec 4 :=
  if f.vc then p.lastVc ||| BitVec.twoPow 4 f.cls else p.lastVc &&& ~~~ BitVec.twoPow 4 f.cls

/-- Last number received in order: the ack_seq of what the port sends (R356). -/
def Port.lastIn (p : Port) : BitVec 12 := p.rxNext - 1

/-- Sends waiting flits against credits, at most `fuel`, keeping 512 unacknowledged at most (R359, R363). -/
def Port.pump : Nat → Port → Port
  | 0, p => p
  | fuel + 1, p =>
    if p.state ≠ .active || p.replay.length ≥ 512 then p
    else
      match p.nextFlit with
      | none => p
      | some i =>
        match p.waiting[i]? with
        | none => p
        | some f =>
          Port.pump fuel { p with
            waiting := p.waiting.eraseIdx i
            credits := p.credits.put f.channel (p.credits.get 32 f.channel - 1)
            lastVc := p.tookVc f
            replay := p.replay ++ [(p.txSeq, { f with ack := p.lastIn }, 1)]
            txSeq := p.txSeq + 1
            tx := satAdd top48 p.tx 1 }

/-- Pumps as much as the port can take. -/
def Port.drain (p : Port) : Port := p.pump p.waiting.length

/-- Sends a control flit: 0 ack, 1 nak, 2 credit, 3 capability. A credit's number holds the channel in its low three
bits and the count above them; a capability's the versions and half width in its low three bits, the module address in bits 34:3
and the port number above them (R353). -/
def sendControl (p subtype n : Nat) (s : State) : State :=
  s.modPort p fun x => { x with control := x.control ++ [(subtype, n)] }

/-- Returns the buffer places of a channel to the sender at the other end of a port (R363). -/
def sendCredit (p channel n : Nat) (s : State) : State :=
  if (s.port p).live && 0 < n then sendControl p 2 (channel + 8 * n) s else s

/-- Flits in transit leave the module, or are lost here: the places they kept at their ports of arrival are free (R363). -/
def freeHeld (fs : List Flit) (s : State) : State :=
  fs.foldl (fun (x : State) f => match f.held with
    | some (p, c) => sendCredit p c 1 x
    | none => x) s

/-- A port sends what it can. -/
def drainPort (p : Nat) (s : State) : State :=
  let x := s.port p
  if x.waiting.isEmpty then s
  else
    let y := x.drain
    freeHeld ((y.replay.drop x.replay.length).map fun e => e.2.1) (s.modPort p fun _ => y)

/-- Hands a message to a port: each of its flits takes a place. -/
def handTo (p : Nat) (f : Flit) (s : State) : State :=
  drainPort p (s.modPort p fun x => { x with waiting := x.waiting ++ f.all })

/-- Sends a message on a bundle: it waits while the bundle is stopped (R365); with no live port it has no route. -/
def sendBundle (b : Nat) (f : Flit) (s : State) : Option State :=
  match s.links.pickPort b f with
  | none => none
  | some p =>
    if s.links.stopped.contains b then some { s with links := { s.links with queued := s.links.queued ++ [(b, f)] } }
    else some (handTo p f s)

/-- A message has no route: its flits are counted, and the places they keep are free (R366). -/
def unroutable (f : Flit) (s : State) : State :=
  freeHeld f.all { s with links := { s.links with unroutable := satAdd top48 s.links.unroutable f.payload.flits } }

/-- A message for this module is delivered here (R364). -/
def Links.here (l : Links) (dst : W32) : Bool := dst = l.modAddr || l.hop dst = .deliver

/-- Routes a message of this module (R364, R366). The answer says that it has a route; the flits of one without are counted. One
for this module itself waits to be delivered. -/
def sendFlit (f : Flit) (s : State) : State × Bool :=
  if s.links.here f.dst then ({ s with links := { s.links with toSelf := s.links.toSelf ++ [f] } }, true)
  else
    match s.links.hop f.dst with
    | .bundle b crosses =>
      match sendBundle b { f with vc := crosses } s with
      | some s' => (s', true)
      | none => (unroutable f s, false)
    | _ => (unroutable f s, false)

/-- Sends a check or pace flit on the exact port that a slot names (R368): dst from the peer's address. -/
def sendOn (port ctx : Nat) (pl : Payload) (s : State) : State :=
  handTo port (Flit.first 3 (s.port port).peerAddr s.links.modAddr 0 ctx pl) s

/-! ### Ports that come up or stop (R352, R362) -/

/-- The port enters Detect; the version of its last Negotiate and the width of its last Train hold on (R353, R354). -/
def Port.detect (p : Port) : Port :=
  { p with state := .detect, downCause := 0, peerValid := false, trainedUl2 := false, trainFails := 0 }

/-- The port carries flits no more: those unacknowledged are lost and counted (R362). -/
def Port.stopped (p : Port) : Port :=
  { p with lost := satAdd top48 p.lost (p.replay.length), replay := [], waiting := [], nakSent := false, trainedUl2 := false,
           trainFails := 0 }

/-- What a port in Negotiate or later meets on its lanes while the module idles: codewords corrected, and symbol errors by lane
since its last Train, saturating at 255 (Table 13.9; the counts are free, log entry 19). -/
def Port.noise (n p : Nat) (x : Port) : Port :=
  match x.state with
  | .down => x
  | .detect => x
  | .fenced => x
  | _ => { x with
      fecCorr := satAdd top48 x.fecCorr (Config.corrected n p)
      lanesErr := (List.range 8).foldl (fun (t : Tab Nat) i =>
        t.put i (min 255 (t.get 0 i + bitsN (Config.symbolErrors n p).toNat (8 * i + 7) (8 * i)))) x.lanesErr }

/-- Every port's lanes while the module idles. -/
def linkNoise (s : State) : State :=
  { s with links := { s.links with ports := s.links.ports.map fun e => (e.1, e.2.noise s.freeCount e.1) } }

/-! ### Tags (R87, R158) -/

/-- Takes a new tag. -/
def newTag (ctx : Nat) (h : W32) (u : TagUse) (window : Word) (s : State) : Nat × State :=
  (s.nextTag, { s with nextTag := s.nextTag + 1, tags := s.tags ++ [⟨s.nextTag, ctx, h, u, window, false⟩] })

/-- Returns a tag to its pool. -/
def dropTag (tag : Nat) (s : State) : State := { s with tags := s.tags.filter fun t => t.tag ≠ tag }

end Sys2Proof.Machine
end

