-- ==== Sys2Proof/Machine/Embed.lean ====
section
/-! DEFINITION. Embedding records, homes, lookups, direct writes and contributions: what the merge unit does for every
use of a window (10_embedding_tables.md R271 to R281, R291). -/

namespace Sys2Proof.Machine

open Sys2Proof

/-- The fields of an embedding record (Table 10.1). -/
structure Emb where
  addr : Nat
  rowFmt : Nat
  span : Nat
  hasPresence : Bool
  update : Nat
  members : Nat
  rank : Nat
  shard : Nat
  hotLog2 : Nat
  closeGroup : W32
  rows : Nat
  hot : Nat
  cold : Nat
  presence : Nat
  log : Nat
  logEntries : Nat
  scale : W32
  merged : Nat
  memberTab : Nat
  deriving DecidableEq, Repr

/-- Bytes of a row. -/
def Emb.rowBytes (e : Emb) : Nat := 2 ^ e.span
/-- Elements of a row: E of R271. -/
def Emb.elems (e : Emb) : Nat := 2 ^ e.span / (if e.rowFmt = 1 then 2 else 4)

/-- The record from its bytes. -/
def embOf (a w : Nat) : Emb :=
  { addr := a, rowFmt := bitsN w 11 8, span := bitsN w 15 12, hasPresence := bitN w 16, update := bitsN w 18 17,
    members := bitsN w 44 32, rank := bitsN w 59 48, shard := bitsN w 69 64, hotLog2 := bitsN w 76 72,
    closeGroup := BitVec.ofNat 32 (bitsN w 127 96), rows := bitsN w 175 128, hot := bitsN w 255 192,
    cold := bitsN w 319 256, presence := bitsN w 383 320, log := bitsN w 447 384, logEntries := bitsN w 479 448,
    scale := BitVec.ofNat 32 (bitsN w 511 480), merged := bitsN w 575 512, memberTab := bitsN w 639 576 }

/-- The fields of a record are in range and its reserved fields are zero (R271, Table 10.1). -/
def embFieldsOk (w : Nat) : Bool :=
  let e := embOf 0 w
  let z := fun hi lo => bitsN w hi lo = 0
  bitsN w 3 0 = 2 && z 7 4 && e.rowFmt ≤ 1 && 6 ≤ e.span && e.span ≤ 12 && e.update ≤ 1 && z 31 19
    && 1 ≤ e.members && e.members ≤ 4096 && z 47 45 && e.rank < e.members && z 63 60 && e.shard ≤ 40 && z 71 70
    && e.hotLog2 ≤ 28 && z 95 77 && 1 ≤ e.rows && z 191 176 && e.hot % 128 = 0 && e.cold % 2 ^ e.span = 0
    && e.presence % 8 = 0 && (e.hasPresence || e.presence = 0) && e.log % 64 = 0 && 1 ≤ e.logEntries
    && e.merged % 64 = 0 && e.memberTab % 8 = 0 && z 1023 640

/-- An address that a record names lies in a page of one of the tiers; what the page permits is left to its use. A window is
no page (R271, R299). -/
def inTiers (s : State) (ctx access : Nat) (tiers : List Tier) (a : Nat) : Except Bad Bool :=
  let look := fun (k : Nat) => walkFrom s ctx (Use.of k tiers) a
  let permitted := [0, 1, 2].find? fun k => match look k with
    | .error (.violation _ 1 _) => false
    | _ => true
  match permitted.map look with
  | none => .ok true
  | some (.ok (.page ..)) => .ok true
  | some (.ok (.window ..)) => .error (.violation access 4 a)
  | some (.error (.violation ..)) => .ok false
  | some (.error b) => .error b

/-- Both halves of the merge unit are out of service (R291). -/
def mergeDown (s : State) : Bool := (List.range 2).all fun m => s.merge.fenced.getLsbD m || s.inBist 5 m

/-- The half that serves what belongs to half m: that half, or the other where it is out of service (R276, R291). -/
def mergeHalf (s : State) (m : Nat) : Nat := if s.merge.fenced.getLsbD m || s.inBist 5 m then 1 - m else m

/-- The buffer of the half that serves what belongs to half m passes its parity (R276, R424). -/
def halfCheck (s : State) (m : Nat) : Except Bad Unit :=
  let k := mergeHalf s (m % 2)
  if bufferBad s 5 k then .error (.detected (bufferErr 5 k (8 + k))) else .ok ()

/-- Reads a record for a use (R271, R291, R299). -/
def embRead (s : State) (ctx access a : Nat) : Except Bad Emb := do
  if mergeDown s then .error (.status 13 0) else .ok ()
  if a % 64 ≠ 0 then .error (.violation access 4 a) else .ok ()
  let w := leNat (← pageRead s ctx (Use.of 0 nearFar) a 128)
  let e := embOf a w
  if embFieldsOk w && (← inTiers s ctx access [.near] e.hot) && (← inTiers s ctx access nearFar e.log)
      && (← inTiers s ctx access nearFar e.merged)
  then return e
  else .error (.violation access 4 a)

/-- A context has used a record: it writes an empty merged list when its group completes without a round (R282; log entry
26). -/
def noteRecord (ctx record : Nat) (s : State) : State :=
  if s.merge.seen.contains (ctx, record) then s
  else { s with merge := { s.merge with seen := s.merge.seen ++ [(ctx, record)] } }

/-! ### Owners and homes (R273 to R275) -/

def Emb.owner (e : Emb) (j : Nat) : Nat := j / 2 ^ e.shard % e.members
def Emb.localIdx (e : Emb) (j : Nat) : Nat := j / 2 ^ e.shard / e.members * 2 ^ e.shard + j % 2 ^ e.shard
/-- Bucket of a row (R274). -/
def Emb.bucket (e : Emb) (j : Nat) : Nat :=
  if e.hotLog2 = 0 then 0 else j * 0x9E3779B97F4A7C15 % 2 ^ 64 / 2 ^ (64 - e.hotLog2)
def Emb.bucketAddr (e : Emb) (b : Nat) : Nat := e.hot + 128 * b
/-- Merge-unit half that serves a row, as the die of its IOD (R276). -/
def Emb.die (e : Emb) (j : Nat) : Nat := 8 + e.bucket j % 2

/-- A hot-set entry (Table 10.2) with its slot. -/
structure HotEntry where
  slot : Nat
  row : Nat
  epoch : Nat
  state : Nat
  home : Nat
  dest : Nat
  deriving DecidableEq, Repr

def hotEntryOf (slot w : Nat) : HotEntry :=
  ⟨slot, bitsN w 47 0, bitsN w 55 48, bitsN w 57 56, bitsN w 127 64, bitsN w 191 128⟩

/-- The 32 bytes of an entry. -/
def HotEntry.bytes (h : HotEntry) : List Byte :=
  leBytes 32 (h.row + h.epoch * 2 ^ 48 + h.state * 2 ^ 56 + h.home * 2 ^ 64 + h.dest * 2 ^ 128)

/-- The four entries of a bucket, checked (R275). -/
def readBucket (s : State) (ctx : Nat) (e : Emb) (b : Nat) : Except Bad (List HotEntry) := do
  let bs ← pageRead s ctx (Use.of 0 [.near]) (e.bucketAddr b) 128
  let es := (List.range 4).map fun i => hotEntryOf i (leNat ((bs.drop (32 * i)).take 32))
  let bad := es.find? fun h => h.state = 3 || (h.state ≠ 0 && (e.bucket h.row ≠ b
    || es.any fun k => k.slot < h.slot && k.state ≠ 0 && k.row = h.row))
  match bad with
  | some h => .error (.emMeta (e.bucketAddr b + 32 * h.slot))
  | none => return es

/-- What a row resolves to (R275). -/
inductive Home where
  | invalid
  | remote (rank : Nat)
  | missing
  | at (a epoch : Nat)
  deriving DecidableEq, Repr

/-- An address of the cold store ends at no window (R299). -/
def noWindow (s : State) (ctx a : Nat) : Except Bad Unit :=
  match walkFrom s ctx useRead a with
  | .ok (.window ..) => .error (.violation 0 4 a)
  | _ => .ok ()

/-- Where the cold store keeps a row. -/
def Emb.coldAddr (e : Emb) (j : Nat) : Nat := e.cold + e.localIdx j * e.rowBytes

/-- The cold home of a row on its owner, if it has one (R275). -/
def coldHome (s : State) (ctx : Nat) (e : Emb) (j : Nat) : Except Bad (Option Nat) := do
  let i := e.localIdx j
  let here ← if e.cold = 0 then .ok false
    else if e.hasPresence then
      (pageRead s ctx useRead (e.presence + 8 * (i / 64)) 8).map fun bs => bitN (leNat bs) (i % 64)
    else .ok true
  if here then
    noWindow s ctx (e.coldAddr j)
    return some (e.coldAddr j)
  else return none

/-- The home of row j, resolved by the half of its bucket where the row is this module's (R275, R276). -/
def homeOf (s : State) (ctx : Nat) (e : Emb) (j : Nat) : Except Bad Home := do
  if j ≥ e.rows then return .invalid
  else if e.owner j ≠ e.rank then return .remote (e.owner j)
  else
    halfCheck s (e.bucket j)
    let es ← readBucket s ctx e (e.bucket j)
    match es.find? fun h => h.state ≠ 0 && h.row = j with
    | some h => return .at h.home h.epoch
    | none =>
      match ← coldHome s ctx e j with
      | some a => return .at a 0
      | none => return .missing

/-- The member table's entry of a rank: module address and context (R273). -/
def memberOf (s : State) (ctx : Nat) (e : Emb) (rank : Nat) : Except Bad (W32 × Nat) := do
  let n := leNat (← pageRead s ctx useRead (e.memberTab + 8 * rank) 8)
  return (BitVec.ofNat 32 n, bitsN n 41 32)

/-! ### Counting -/

/-- A position dropped as invalid or missing, in the module that resolved it (R277). -/
def emDrop (invalid : Bool) (s : State) : State :=
  if invalid then { s with merge := { s.merge with dropInvalid := satAdd top48 s.merge.dropInvalid 1 } }
  else { s with merge := { s.merge with dropMissing := satAdd top48 s.merge.dropMissing 1 } }

/-- n dropped positions of a parcel (R163, R277). -/
def countDropped (ctx : Nat) (h : W32) (n : Nat) (s : State) : State :=
  { s.modParcel ctx h (fun p => { p with dropped := p.dropped + n }) with
    sl := { s.sl with dropped := satAdd top48 s.sl.dropped n } }

/-! ### Direct writes (R279) -/

/-- The row is on the move and not yet committed (R287, M1 and M2). -/
def movingRow (s : State) (ctx record row : Nat) : Bool :=
  s.merge.moves.any fun m => m.ctx = ctx && m.record.toNat = record && m.row = row && m.phase = .copying

/-- Changes the uncommitted move of a row. -/
def modMove (ctx record row : Nat) (f : Move → Move) (s : State) : State :=
  { s with merge := { s.merge with moves := s.merge.moves.map fun m =>
      if m.ctx = ctx && m.record.toNat = record && m.row = row && m.phase = .copying then f m else m } }

/-- A direct write on the owner: applied at the row's current home, queued while the row moves, or dropped where the
row has no home. The flag says that it was dropped. `va` is the row's window address, `head` the flit of another module. -/
def directWrite (by' : Writer) (head : Option FlitHead) (e : Emb) (va row off : Nat) (bs : List Byte) (s : State) :
    Except Bad (State × Bool) := do
  match ← homeOf s by'.ctx e row with
  | .invalid => return (emDrop true s, true)
  | .missing => return (emDrop false s, true)
  | .remote _ => .error (.violation 1 4 va)
  | .at h _ =>
    if movingRow s by'.ctx e.addr row then
      return (modMove by'.ctx e.addr row (fun m => { m with writes := m.writes ++ [⟨off, bs, va, by'.hostSeq, by'.who, head⟩] }) s,
        false)
    else
      match devWrite s by' (Use.of 1 nearFar) (h + off) bs with
      | .ok s' => return (s', false)
      | .error (.violation _ 2 _) => .error (.violation 1 2 va)
      | .error b => .error b

/-! ### Contributions (R280, R281) -/

/-- The open-round slot of a record in a context, if its round is open. -/
def openRound (s : State) (ctx record : Nat) : Option Nat :=
  (s.merge.rounds.find? fun r => r.2.isOpen && r.2.ctx = ctx && r.2.record.toNat = record).map (·.1)

/-- The slot a new round takes: the record's own, an empty one, or one with no open round (R280, Table 10.9). -/
def freeRound (s : State) (ctx record : Nat) : Option Nat :=
  let get := fun n => s.merge.rounds.get Round.reset n
  let own := (List.range 64).find? fun n => !(get n).isOpen && (get n).ctx = ctx && (get n).record.toNat = record
  let empty := (List.range 64).find? fun n => (get n).record = 0
  let idle := (List.range 64).find? fun n => !(get n).isOpen
  own.orElse fun _ => empty.orElse fun _ => idle

def modRound (n : Nat) (f : Round → Round) (s : State) : State :=
  { s with merge := { s.merge with rounds := s.merge.rounds.put n (f (s.merge.rounds.get Round.reset n)) } }

/-- Bytes of a log entry (R280). -/
def Emb.entryBytes (e : Emb) : Nat := 64 + e.rowBytes

/-- Row and rank of the k first log entries. -/
def logHeads (s : State) (ctx : Nat) (e : Emb) : Nat → Except Bad (List (Nat × Nat))
  | 0 => .ok []
  | k + 1 => do
    let r ← logHeads s ctx e k
    let n := leNat (← pageRead s ctx (Use.of 0 nearFar) (e.log + k * e.entryBytes) 8)
    return r ++ [(bitsN n 47 0, bitsN n 59 48)]

/-- What became of a contribution: logged, refused with the log full or at the round limit, or dropped where its row
has no home (R277). -/
inductive Logged where
  | logged
  | refused (full : Bool)
  | dropped
  deriving DecidableEq, Repr

/-- A contribution on the owner. A refusal changes nothing here: its caller counts it. -/
def contribute (by' : Writer) (e : Emb) (va row rank : Nat) (values : List Byte) (s : State) :
    Except Bad (State × Logged) := do
  match ← homeOf s by'.ctx e row with
  | .invalid => return (emDrop true s, .dropped)
  | .missing => return (emDrop false s, .dropped)
  | .remote _ => .error (.violation 1 4 va)
  | .at .. =>
    match (openRound s by'.ctx e.addr).orElse fun _ => freeRound s by'.ctx e.addr with
    | none => return (s, .refused false)
    | some n =>
      let r := s.merge.rounds.get Round.reset n
      let k := if r.isOpen then r.logged else 0
      if k ≥ e.logEntries then return (s, .refused true)
      else
        let heads ← logHeads s by'.ctx e k
        let a := e.log + k * e.entryBytes
        let s1 ← pageWrite s by' (Use.of 1 nearFar) a (leBytes 8 (row + rank * 2 ^ 48))
        let s2 ← pageWrite s1 by' (Use.of 1 nearFar) (a + 64) values
        let rounds := if r.ctx = by'.ctx && r.record.toNat = e.addr then r.rounds else 0
        let s3 := modRound n (fun _ => ⟨BitVec.ofNat 64 e.addr, by'.ctx, true, k + 1, rounds⟩) s2
        return ({ s3 with merge := { s3.merge with
          contrib := satAdd top48 s3.merge.contrib 1
          repeats := satAdd top48 s3.merge.repeats (b2n (heads.contains (row, rank))) } }, .logged)

/-! ### Remote rows (R276, R279, R280) -/

/-- Answers a message: its reply goes back to its source with its tag. -/
def replyTo (h : FlitHead) (status : Nat) (data : List Byte) (s : State) : State :=
  (sendFlit (Flit.first 1 h.src s.links.modAddr h.tag h.context (.reply (BitVec.ofNat 4 status) data)) s).1

/-- The reply to a write that has been applied or dropped: one byte tells the sender of a drop (log entry 28). -/
def replyWrite (h : FlitHead) (dropped : Bool) (s : State) : State := replyTo h 0 (if dropped then [1] else []) s

/-- A failure of the merge unit's own work, which no parcel of this module asked for, in a context (R275, R424). -/
def unitFails (ctx : Nat) (b : Bad) (s : State) : State :=
  match b with
  | .detected e => foundError ctx 0 e s
  | _ => noteBad ctx 8 b s

/-- What a failure at a row's owner makes of the message that met it. Table 13.6 has no code for a row whose home lies in the
host or flash tier, nor for a metadata fault, which are answered with 5 and 6; data in error, and a part of the flash map that
is not there, give no answer, so that the sender's tag times out (DESIGN CHOICE, log entry 39). -/
def ownerFails (h : FlitHead) (b : Bad) (s : State) : State :=
  match b with
  | .wait => s
  | .detected _ => unitFails h.context b s
  | .emMeta a => replyTo h 6 (leBytes 8 a) (unitFails h.context b s)
  | .violation _ 2 _ => replyTo h 5 [] s
  | .status .. => replyTo h 4 [] s
  | _ => replyTo h 1 [] (unitFails h.context b s)

/-- Records the rounds this module opened at owners (R284). -/
def noteRound (ctx : Nat) (e : Emb) (addr : W32) (rctx : Nat) (s : State) : State :=
  let k := (ctx, BitVec.ofNat 64 e.addr, addr.toNat, rctx)
  if s.merge.remoteRounds.contains k then s
  else { s with merge := { s.merge with remoteRounds := s.merge.remoteRounds ++ [k] } }

/-- Sends a message to the owner of a row with a new tag, through the half of the owner's rank; without a route its flits are
counted and the parcel ends with FENCED_RESOURCE (R276, R366). Answers the tag. -/
def sendOwner (ctx : Nat) (h : W32) (e : Emb) (rank : Nat) (va : Nat) (use' : TagUse) (cls : Nat) (pl : Payload)
    (s : State) : Except Bad (Nat × State) := do
  halfCheck s rank
  let (addr, rctx) ← memberOf s ctx e rank
  let (tag, s1) := newTag ctx h use' (BitVec.ofNat 64 va) s
  let (s2, sent) := sendFlit (Flit.first cls addr s.links.modAddr (BitVec.ofNat 16 tag) rctx pl) s1
  if sent then
    return (tag, match pl with | .contribution .. => noteRound ctx e addr rctx s2 | _ => s2)
  else .error (.unrouted pl.flits)

/-- A window: its record, base and size. -/
structure Window where
  record : Nat
  base : Nat
  log2 : Nat
  deriving DecidableEq, Repr

/-- The embedding window an address lies in, if it lies in one (R272). -/
def windowOf (s : State) (ctx : Nat) (u : Use) (a : Nat) : Option Window :=
  match walkFrom s ctx u a with
  | .ok (.window false l r) => some ⟨r, a / 2 ^ l * 2 ^ l, l⟩
  | _ => none

/-- Window address of a row. -/
def Window.rowAddr (w : Window) (e : Emb) (row : Nat) : Nat := w.base + row * e.rowBytes

/-- The row lies within the window; an address past it is none of the window's (R272). -/
def Window.holds (w : Window) (e : Emb) (row : Nat) : Bool := decide ((row + 1) * e.rowBytes ≤ 2 ^ w.log2)

/-- A range cut where what it leads to changes; `fuel` bounds its 64 KiB blocks, of which a window holds whole ones. -/
def sectionsFrom (s : State) (ctx : Nat) (u : Use) : Nat → Nat → Nat → List (Option Window × Nat × Nat)
  | 0, _, _ => []
  | fuel + 1, a, n =>
    if n = 0 then []
    else
      let k := min n (65536 - a % 65536)
      let w := windowOf s ctx u a
      match sectionsFrom s ctx u fuel (a + k) (n - k) with
      | [] => [(w, a, k)]
      | x :: r => if x.1 = w then (w, a, k + x.2.2) :: r else (w, a, k) :: x :: r

/-- The sections of a range: the window that each lies in, if it lies in one, its address and bytes (R272). -/
def sections (s : State) (ctx : Nat) (u : Use) (a n : Nat) : List (Option Window × Nat × Nat) :=
  sectionsFrom s ctx u (n / 65536 + 2) a n

/-- The bytes of a window range: each row's part on this module, or a place that waits for its owner (R272). -/
def windowParts (e : Emb) : Nat → Nat → Nat → Nat → List (Nat × Nat × Nat × Nat)
  | 0, _, _, _ => []
  | fuel + 1, rel, n, dst =>
    if n = 0 then []
    else
      let off := rel % e.rowBytes
      let k := min n (e.rowBytes - off)
      (rel / e.rowBytes, off, k, dst) :: windowParts e fuel (rel + k) (n - k) (dst + k)

/-- A write of a row or part of one through a window: applied on this module, dropped, or sent to the owner with the
tag use given. `add` makes it a contribution (R279, R280). -/
def windowWrite (by' : Writer) (h : W32) (e : Emb) (va row off : Nat) (add : Bool) (bs : List Byte) (use' : TagUse)
    (s : State) : Except Bad State := do
  if row ≥ e.rows then return countDropped by'.ctx h 1 (emDrop true s)
  else if e.owner row ≠ e.rank then
    let pl := if add then Payload.contribution (BitVec.ofNat 64 e.addr) row e.rank bs
      else Payload.directWrite (BitVec.ofNat 64 e.addr) row off bs
    return (← sendOwner by'.ctx h e (e.owner row) va use' 2 pl s).2
  else if add then
    match ← contribute by' e va row e.rank bs s with
    | (s', .logged) => return s'
    | (s', .dropped) => return countDropped by'.ctx h 1 s'
    | (_, .refused full) => .error (.refused va e.addr e.rank (e.die row) full)
  else
    let (s', drop) ← directWrite by' none e va row off bs s
    return if drop then countDropped by'.ctx h 1 s' else s'

/-- A read of part of a row on its owner: its bytes, or zeros where the row is dropped (R277). -/
def windowRead (by' : Writer) (h : W32) (e : Emb) (row off n : Nat) (s : State) : Except Bad (State × List Byte) := do
  match ← homeOf s by'.ctx e row with
  | .invalid => return (countDropped by'.ctx h 1 (emDrop true s), List.replicate n 0)
  | .missing => return (countDropped by'.ctx h 1 (emDrop false s), List.replicate n 0)
  | .remote _ => .error (.status 13 0)
  | .at a _ => return (s, ← devRead s by'.ctx useRead (a + off) n)

end Sys2Proof.Machine
end

