-- ==== Sys2Proof/Machine/Memory.lean ====
section
/-! DEFINITION. Scalar and descriptor accesses to device memory (04_selod_isa.md Tables 4.7 and 4.11, R102, R105;
10_embedding_tables.md R272, R277, R279). -/

namespace Sys2Proof.Machine

open Sys2Proof

/-- The task of an instruction that waits for a reply of another module, or for a first-touch copy. -/
def hold (w : Who) (st : Status) (s : State) : State := s.modTask w fun t => { t with status := st }

/-- The task waits while a write of it is held (R437). -/
def holdIfHeld (w : Who) (s : State) : State := if heldBy s w then hold w .storeHeld s else s

/-- A load of n bytes from an aligned device address, into rd. A remote row is asked of its owner, and the task waits
for the reply. -/
def devLoad (w : Who) (t : Task) (rd : Fin 64) (a n : Nat) (s : State) : Except Bad State := do
  let u : Use := Use.of 0 nearFarHost
  let put := fun (s : State) (bs : List Byte) => s.modTask w fun x => x.setS rd (BitVec.ofNat 64 (leNat bs))
  match windowOf s t.ctx u a with
  | none => return put s (← devRead s t.ctx u a n)
  | some win =>
    let e ← embRead s t.ctx 0 win.record
    let row := (a - win.base) / e.rowBytes
    let off := (a - win.base) % e.rowBytes
    if row < e.rows && e.owner row ≠ e.rank then
      let (_, s1) ← sendOwner t.ctx t.hostSeq e (e.owner row) (win.rowAddr e row) (.remoteLoad w rd.val n off) 0
        (.request (BitVec.ofNat 64 e.addr) row e.span) (noteRecord t.ctx e.addr s)
      return hold w .remoteWait s1
    else
      let (s1, bs) ← windowRead (t.writer w) t.hostSeq e row off n (noteRecord t.ctx e.addr s)
      return put s1 bs

/-- A store of bytes at an aligned device address. -/
def devStore (w : Who) (t : Task) (a : Nat) (bs : List Byte) (s : State) : Except Bad State := do
  match windowOf s t.ctx useWrite a with
  | none => return holdIfHeld w (← devWrite s (t.writer w) useWrite a bs)
  | some win =>
    let e ← embRead s t.ctx 1 win.record
    let row := (a - win.base) / e.rowBytes
    let s1 ← windowWrite (t.writer w) t.hostSeq e (win.rowAddr e row) row ((a - win.base) % e.rowBytes) false bs
      (.remoteStore w) (noteRecord t.ctx e.addr s)
    return if row < e.rows && e.owner row ≠ e.rank then hold w .remoteWait s1 else holdIfHeld w s1

/-- A scalar load of n bytes at ra + imm, zero-extended (Table 4.7). -/
def loadOp (w : Who) (g : Guard) (rd ra : Fin 64) (imm : W32) (n : Nat) (s : State) : Out :=
  guarded w g anyLevel (fun t s => do
    alignCheck 0 (t.addr ra imm) n
    devLoad w t rd (t.addr ra imm) n s) s

/-- A scalar store of the n low bytes of rd at ra + imm. -/
def storeOp (w : Who) (g : Guard) (rd ra : Fin 64) (imm : W32) (n : Nat) (s : State) : Out :=
  guarded w g anyLevel (fun t s => do
    alignCheck 1 (t.addr ra imm) n
    devStore w t (t.addr ra imm) (leBytes n (t.sreg rd).toNat) s) s

/-- LD8 (R105). -/
def execLd8 (t : Who) (g : Guard) (rd ra : Fin 64) (imm : W32) (s : State) : Out := loadOp t g rd ra imm 1 s
/-- LD16 (R105). -/
def execLd16 (t : Who) (g : Guard) (rd ra : Fin 64) (imm : W32) (s : State) : Out := loadOp t g rd ra imm 2 s
/-- LD32 (R105). -/
def execLd32 (t : Who) (g : Guard) (rd ra : Fin 64) (imm : W32) (s : State) : Out := loadOp t g rd ra imm 4 s
/-- LD64 (R105). -/
def execLd64 (t : Who) (g : Guard) (rd ra : Fin 64) (imm : W32) (s : State) : Out := loadOp t g rd ra imm 8 s
/-- ST8 (R105). -/
def execSt8 (t : Who) (g : Guard) (rd ra : Fin 64) (imm : W32) (s : State) : Out := storeOp t g rd ra imm 1 s
/-- ST16 (R105). -/
def execSt16 (t : Who) (g : Guard) (rd ra : Fin 64) (imm : W32) (s : State) : Out := storeOp t g rd ra imm 2 s
/-- ST32 (R105). -/
def execSt32 (t : Who) (g : Guard) (rd ra : Fin 64) (imm : W32) (s : State) : Out := storeOp t g rd ra imm 4 s
/-- ST64 (R105). -/
def execSt64 (t : Who) (g : Guard) (rd ra : Fin 64) (imm : W32) (s : State) : Out := storeOp t g rd ra imm 8 s

/-! ### Descriptors (Table 4.11) -/

/-- DLD (Table 4.11). The 64 bytes as they stand. -/
def execDld (t : Who) (g : Guard) (d : Fin 16) (ra : Fin 64) (s : State) : Out :=
  guarded t g anyLevel (fun x s => do
    let a := (x.sreg ra).toNat
    alignCheck 0 a 64
    let bs ← devRead s x.ctx (Use.of 0 nearFarHost) a 64
    return s.modTask t fun y => y.setDesc d (bytesRec bs)) s

/-- DST (Table 4.11). The register's 64 bytes, valid or not. -/
def execDst (t : Who) (g : Guard) (d : Fin 16) (ra : Fin 64) (s : State) : Out :=
  guarded t g anyLevel (fun x s => do
    let a := (x.sreg ra).toNat
    alignCheck 1 a 64
    return holdIfHeld t (← devWrite s (x.writer t) useWrite a (recBytes (x.desc d)))) s

/-- DINV (Table 4.11). All 64 bytes zero: the register is invalid. -/
def execDinv (t : Who) (g : Guard) (d : Fin 16) (s : State) : Out :=
  onTask t anyLevel (fun x => if x.acts g then x.setDesc d 0 else x) s

end Sys2Proof.Machine
end

