-- ==== Sys2Proof/Machine/Rows.lean ====
section
/-! DEFINITION. What the stream instructions share: descriptor fields, index lists, rows and their formats, engines,
and feature stores (06_gather_aggregate.md R155 to R169, R191, R192). -/

namespace Sys2Proof.Machine

open Sys2Proof

/-! ### Engines (R155, R191) -/

/-- Compute-die engine k of die n is in service. -/
def engineUp (s : State) (e : Nat) : Bool :=
  !(if e < 64 then s.sl.fenced.getLsbD e else s.sl.fencedIo.getLsbD (e - 64)) && !s.inBist 3 e

/-- Engines in service of a compute die. -/
def dieEngines (s : State) (d : Nat) : List Nat := ((List.range 8).map (8 * d + ·)).filter (engineUp s)

/-- Engines in service of I/O die m. -/
def ioEngines (s : State) (m : Nat) : List Nat := ((List.range 4).map (64 + 4 * m + ·)).filter (engineUp s)

/-- I/O die behind which a page of the far or flash tier lies. -/
def ioDie (s : State) (t : Tier) (a : Nat) : Option Nat :=
  match t with
  | .far => some (a / 2 ^ 36 / 32 % 2)
  | .flash => some (sectorChannel s (a / 4096) / 16)
  | _ => none

/-- Engine of the die that carries position i: groups of 256 are dealt in turn, from the lowest engine in service on (R155; which
engine takes which group is the model's choice, log entry 16). -/
def engineOf (s : State) (d i : Nat) : Nat := (dieEngines s d).getD (i / 256 % max 1 (dieEngines s d).length) (8 * d)

/-- The instruction's die has an engine in service (R191). -/
def enginesCheck (s : State) (d : Nat) : Except Bad Unit :=
  if (dieEngines s d).isEmpty then .error (.status 13 0) else .ok ()

/-- A page of the far or flash tier behind an I/O die with no engine in service cannot be reached (R191). -/
def reachCheck (s : State) (ps : List Piece) : Except Bad Unit :=
  if ps.any fun p => match ioDie s p.1 p.2.1 with
      | some m => (ioEngines s m).isEmpty
      | none => false
  then .error (.status 13 0) else .ok ()

/-- Engine that carries position i with its pieces: an engine of the I/O die that owns the channel of a far or flash page,
whichever of those in service, and else one of the issuing die's (R155; log entry 16). -/
def unitFor (s : State) (d i : Nat) (ps : List Piece) : Nat :=
  match ps.head?.bind fun p => ioDie s p.1 p.2.1 with
  | some m => (ioEngines s m).getD ((Config.freeWord s.freeCount i).toNat % max 1 (ioEngines s m).length) (64 + 4 * m)
  | none => engineOf s d i

/-- The pieces of a range that engines read or write. -/
def engPieces (s : State) (ctx : Nat) (u : Use) (a n : Nat) : Except Bad (List Piece) := do
  let ps ← range s ctx u a n
  reachCheck s ps
  return ps

/-- Reads for an engine. -/
def engRead (s : State) (ctx : Nat) (u : Use) (a n : Nat) : Except Bad (List Byte) := do
  let ps ← engPieces s ctx u a n
  checkPieces s a ps
  return piecesBytes s.mem ps

/-- Reads for an engine from the cistern or device memory. -/
def engLoc (s : State) (w : Who) (t : Task) (isCis : Bool) (u : Use) (a n : Nat) : Except Bad (List Byte) :=
  if isCis then readLoc s w t true u a n else engRead s t.ctx u a n

/-- Writes for an engine in the cistern or in device memory. -/
def engWrite (s : State) (w : Who) (t : Task) (isCis : Bool) (u : Use) (a : Nat) (bs : List Byte) : Except Bad State := do
  if isCis then .ok () else reachCheck s (← range s t.ctx u a bs.length)
  writeLoc s w t isCis u a bs

/-! ### Descriptors (R159, R160) -/

/-- A check of a descriptor: its failure ends the parcel (R160). -/
def descCheck (ok : Bool) (d : Nat) : Except Bad Unit := if ok then .ok () else .error (descFault d)

/-- Version, type and level of a format code a descriptor field holds. -/
def verOk (v : Nat) : Bool := v = 1 || v = 2

/-- A format code of the task's level (R220). -/
def fmtOk (t : Task) (c : Nat) : Bool := fmtAtLevel (decide (t.level ≠ 1)) c

/-- Bytes of an index entry and the bits that hold the index (Tables 6.3, 6.8 and 5.9); `keys` takes the src field of an
edge entry. -/
def entryBytes (kind : Nat) : Nat := if kind = 0 then 4 else if kind = 1 then 8 else 16
def entryIndex (kind : Nat) (keys : Bool) (n : Nat) : Nat :=
  if kind = 0 then n else if kind = 2 && keys then bitsN n 79 48 else bitsN n 47 0

/-- The entries of an index list. -/
def readIndices (s : State) (ctx kind : Nat) (keys : Bool) (a count : Nat) : Except Bad (List Nat) := do
  let bs ← engRead s ctx (Use.of 0 nearFar) a (count * entryBytes kind)
  return (List.range count).map fun i =>
    entryIndex kind keys (leNat ((bs.drop (i * entryBytes kind)).take (entryBytes kind)))

/-! ### Rows -/

/-- Elements of a row: code and scale code. A block-scaled row carries a scale for every 32 elements (R223). -/
def rowEls (c n : Nat) (bs : List Byte) : List (Nat × Nat) :=
  (List.range n).map fun i =>
    (unpack c bs i, if isBlock c then ((bs.drop (packedBytes c n)).getD (i / 32) 0).toNat else 127)

/-- A row delivered in another format, and the elements that widening made infinite (R162, R226). -/
def convertRow (src dst n : Nat) (bs : List Byte) : List Byte × Nat :=
  if src = dst then (bs, 0)
  else
    let ys := (rowEls src n bs).map fun e => widenTo src dst e.1 e.2
    (takePad 0 (rowStride dst n) (packEls dst (ys.map (·.1))), (ys.filter (·.2)).length)

/-- The FP32 values of a row in FP32 or BF16. -/
def rowFp (c n : Nat) (bs : List Byte) : List W32 := (rowEls c n bs).map fun e => (widen32 c e.1 e.2).1

/-- A row of FP32 values narrowed to FP32 or BF16 with its counts (R162, R227, R238). -/
def narrowRow (c : Nat) (xs : List W32) : List Byte × Counts :=
  if c = 0 then
    (packEls 0 (xs.map (·.toNat)), ⟨0, (xs.filter nonfin).length⟩)
  else
    let ys := xs.map fun x => narrow c .nearest (f32 x)
    (takePad 0 (rowStride c xs.length) (packEls c (ys.map (·.1))), ys.foldl (fun a y => a.add y.2) Counts.zero)

/-- The size of rows: the packed elements rounded up to four bytes, with scales where the format has them (R161). -/
def blockRowOk (c n : Nat) : Bool := !isBlock c || n % 32 = 0

/-! ### Feature stores (R166 to R169) -/

/-- A feature-store header (Table 6.4). -/
structure Store where
  addr : Nat
  codec : Nat
  crc : Bool
  tileLog2 : Nat
  rows : Nat
  tiles : Nat
  data : Nat
  dictId : Nat
  dict : Nat
  dictBytes : Nat
  stride : Nat
  deriving DecidableEq, Repr

/-- Dense size of tile t (R166). -/
def Store.dense (st : Store) (t : Nat) : Nat := min (2 ^ st.tileLog2) (st.rows - 2 ^ st.tileLog2 * t) * st.stride

/-- Reads and checks a header against the gather's fields (R166). Reserved fields are ignored (R8). -/
def readStore (s : State) (ctx a fmt elems rows unit : Nat) : Except Bad Store := do
  let w := leNat (← engRead s ctx useRead a 64)
  let st : Store := ⟨a, bitsN w 9 8, bitN w 10, bitsN w 27 24, bitsN w 111 64, bitsN w 191 128, bitsN w 255 192,
    bitsN w 287 256, bitsN w 383 320, bitsN w 415 384, rowStride fmt elems⟩
  if bitsN w 3 0 = 2 && (st.codec = 1 || st.codec = 2) && bitsN w 19 16 = fmt && st.tileLog2 ≤ 10
      && bitsN w 47 32 = elems && st.rows = rows && st.tiles % 16 = 0
      && (if st.dictId = 0 then st.dictBytes = 0 else 1 ≤ st.dictBytes && st.dictBytes ≤ 131072)
      && st.dense 0 ≤ 262144
  then return st
  else .error (.slMeta 4 a unit)

/-- Decompressor m is in service. -/
def decompUp (s : State) (m : Nat) : Bool := !s.sl.decompFenced.getLsbD m && !s.inBist 4 m

/-- Decompressor that serves a tile: that of its tier's I/O die, or the other where it is fenced (R169). -/
def decompressor (s : State) (t : Tier) (a die : Nat) : Option Nat :=
  let m := match ioDie s t a with
    | some m => m
    | none => if die = 0 || die = 1 || die = 4 || die = 5 then 0 else 1
  if decompUp s m then some m else if decompUp s (1 - m) then some (1 - m) else none

/-- A tile opened: where it is stored and whether dense; of a compressed one the pieces, the bytes it opens to, and the
decompressor with the 64-byte units it produces; or the detected error met on the way. -/
structure Opened where
  tile : Nat
  dense : Bool
  stored : Nat
  src : List Piece
  bytes : List Byte
  unit : Nat
  output : Nat
  bad : Option DataErr
  deriving DecidableEq, Repr

/-- A tile opened (R167 to R169). The rows of a dense tile are read one by one. -/
def openStored (st : Store) (ctx die unit t : Nat) (s : State) : Except Bad Opened := do
  let da := st.tiles + 16 * t
  let w := leNat (← engRead s ctx useRead da 16)
  let stored := bitsN w 71 48
  let dense := bitN w 72
  let a := st.data + bitsN w 47 0
  let size := st.dense t
  if dense ≠ decide (stored = size) || (!dense && stored ≥ size) then .error (.slMeta 4 da unit)
  else if dense then return ⟨t, true, a, [], [], 0, 0, none⟩
  else
    let ps ← engPieces s ctx useRead a stored
    checkPieces s a ps
    match ps.head?.bind fun p => decompressor s p.1 p.2.1 die with
    | none => .error (.status 13 0)
    | some m =>
      if bufferBad s 4 m then .error (.detected (bufferErr 4 m (8 + m))) else .ok ()
      let dict ← if st.dictId = 0 then .ok [] else engRead s ctx useRead st.dict st.dictBytes
      match decompress st.codec st.dictId dict (piecesBytes s.mem ps) size with
      | none => .error (.slMeta 5 a (72 + m))
      | some out =>
        if st.crc && (crc32c out).toNat ≠ bitsN w 127 96 then .error (.slMeta 6 a (72 + m))
        else return ⟨t, false, a, ps, out, m, (size + 63) / 64, none⟩

/-- A tile opened; a detected error on the way is left to the rows that name the tile (R172). -/
def openTile (st : Store) (ctx die unit : Nat) (s : State) (t : Nat) : Except Bad Opened :=
  match openStored st ctx die unit t s with
  | .error (.detected e) => .ok ⟨t, false, e.va, [], [], 0, 0, some e⟩
  | r => r

/-- The tiles that rows name, each opened once, in the order in which they are named. -/
def openTiles (st : Store) (ctx die unit : Nat) (s : State) : List Nat → List Opened → Except Bad (List Opened)
  | [], acc => .ok acc
  | t :: r, acc =>
    if acc.any fun e => e.tile = t then openTiles st ctx die unit s r acc
    else do
      let o ← openTile st ctx die unit s t
      openTiles st ctx die unit s r (acc ++ [o])

/-- Counts the tiles that are stored dense (SL_DENSE). -/
def countDense (tiles : List Opened) (s : State) : State :=
  { s with sl := { s.sl with dense := satAdd top48 s.sl.dense (tiles.filter (·.dense)).length } }

/-- Counts what a decompressor produces (SL_DX_OUT). -/
def countOutput (t : Opened) (s : State) : State :=
  { s with sl := if t.unit = 0 then { s.sl with dxOut0 := s.sl.dxOut0 + t.output } else { s.sl with dxOut1 := s.sl.dxOut1 + t.output } }

/-- Place of row j in its dense tile. -/
def Store.offset (st : Store) (j : Nat) : Nat := j % 2 ^ st.tileLog2 * st.stride

end Sys2Proof.Machine
end

