-- ==== Sys2Proof/Machine/Gather.lean ====
section
/-! DEFINITION. GATHER and SCATTER (06_gather_aggregate.md R161 to R165, R170 to R174). -/

namespace Sys2Proof.Machine

open Sys2Proof

/-- The gather and scatter descriptor (Table 6.3). -/
structure GatherDesc where
  version : Nat
  kind : Nat
  rowFmt : Nat
  outFmt : Nat
  idxKind : Nat
  drop : Bool
  isLocal : Bool
  fallback : Nat
  add : Bool
  compressed : Bool
  elems : Nat
  deadline : Nat
  count : Nat
  rows : Nat
  altFmt : Nat
  table : Nat
  index : Nat
  data : Nat
  alt : Nat
  report : Nat
  deriving DecidableEq, Repr

def gatherDescOf (w : Nat) : GatherDesc :=
  { version := bitsN w 3 0, kind := bitsN w 7 4, rowFmt := bitsN w 11 8, outFmt := bitsN w 15 12,
    idxKind := bitsN w 17 16, drop := bitN w 18, isLocal := bitN w 19, fallback := bitsN w 22 20, add := bitN w 23,
    compressed := bitN w 24, elems := bitsN w 47 32, deadline := bitsN w 63 48, count := bitsN w 88 64,
    rows := bitsN w 143 96, altFmt := bitsN w 147 144, table := bitsN w 223 160, index := bitsN w 287 224,
    data := bitsN w 351 288, alt := bitsN w 415 352, report := bitsN w 479 416 }

/-- Fields that both instructions check alike (R160, R161). -/
def gatherCommon (t : Task) (w : Nat) : Bool :=
  let g := gatherDescOf w
  let z := fun hi lo => bitsN w hi lo = 0
  verOk g.version && z 31 25 && z 95 89 && z 159 148 && z 511 480 && g.idxKind ≤ 2 && 1 ≤ g.elems
    && 1 ≤ g.count && g.count ≤ 2 ^ 24 && 1 ≤ g.rows && g.index % entryBytes g.idxKind = 0 && g.data % 64 = 0
    && fmtOk t g.rowFmt && fmtOk t g.outFmt && blockRowOk g.rowFmt g.elems
    && (g.version = 2 || (g.fallback = 0 && !g.compressed && g.deadline = 0 && g.altFmt = 0 && g.alt = 0
        && g.report = 0))

/-- A format's rows can be delivered in another (R162). -/
def deliverOk (src dst : Nat) : Bool := src = dst || (dst ≤ 1 && widenPair src dst)

/-- The checks of a GATHER's descriptor (R160 to R162, R171). -/
def gatherOk (t : Task) (w : Nat) : Bool :=
  let g := gatherDescOf w
  g.kind = 1 && gatherCommon t w && !g.add && deliverOk g.rowFmt g.outFmt && g.fallback ≤ 4
    && (g.deadline = 0 || g.fallback ≠ 0)
    && (g.fallback ≠ 2 || (fmtOk t g.altFmt && deliverOk g.altFmt g.outFmt && blockRowOk g.altFmt g.elems))

/-- Where a fallback's alt lies (R165, R171): a source in the near tier, the valid bitmap in the near or far tier. `bad` is
what an alt elsewhere makes of the descriptor or entry that names it. A source page of the host or flash tier faults with
cause 2, and whatever else keeps alt from being reached is the instruction's own failure. -/
def altCheck (s : State) (ctx : Nat) (binds : List (Nat × List Byte)) (bad : Bad) (bitmap : Bool) (alt n : Nat) :
    Except Bad Unit :=
  match range s ctx ⟨if bitmap then 1 else 0, nearFar, binds⟩ alt n with
  | .ok ps => if bitmap then reachCheck s ps else if ps.any fun p => p.1 ≠ .near then .error bad else .ok ()
  | .error b => match b with
    | .violation _ 2 _ => .error (if bitmap then bad else b)
    | _ => .error b

/-- Stride of the rows at alt (Table 6.6). -/
def GatherDesc.altStride (g : GatherDesc) : Nat :=
  if g.fallback = 3 then rowStride g.outFmt g.elems else rowStride (if g.fallback = 2 then g.altFmt else g.rowFmt) g.elems

/-- The ranges at alt that a GATHER of these rows can use: the bitmap, the default row, or its first row and those it names. -/
def GatherDesc.altRanges (g : GatherDesc) (js : List Nat) : List (Nat × Nat) :=
  match g.fallback with
  | 0 => []
  | 4 => [(g.alt, (g.count + 63) / 64 * 8)]
  | 3 => [(g.alt, g.altStride)]
  | _ => (g.alt, g.altStride) :: (js.filter fun j => j < g.rows).map fun j => (g.alt + j * g.altStride, g.altStride)

/-- What a GATHER or SCATTER names. -/
def GatherDesc.named (g : GatherDesc) (js : List Nat) : Named :=
  let data := (g.data, g.count * rowStride g.outFmt g.elems)
  let row := rowStride g.rowFmt g.elems
  ⟨(g.index, g.count * entryBytes g.idxKind) :: (if g.isLocal then [] else [data])
      ++ (if g.report = 0 then [] else [(g.report, 16)]) ++ g.altRanges js
      ++ (if g.compressed then [(g.table, 64)] else (js.filter fun j => j < g.rows).map fun j => (g.table + j * row, row)),
    if g.kind = 1 then [(g.isLocal, data)] else js.map fun j => (false, g.table + j * row, row)⟩

/-- The checks of a SCATTER's descriptor (R160 to R162). -/
def scatterOk (t : Task) (w : Nat) : Bool :=
  let g := gatherDescOf w
  g.kind = 2 && gatherCommon t w && g.fallback = 0 && !g.compressed && g.deadline = 0 && g.outFmt = g.rowFmt
    && (!g.add || g.rowFmt ≤ 1)

/-- The window a table lies in, with its record, and the row its base names; malformed uses of R272 end the parcel. -/
def tableWindow (s : State) (t : Task) (access d table fmt elems : Nat) (compressed : Bool) :
    Except Bad (Option (Window × Emb × Nat)) := do
  match windowOf s t.ctx (Use.of access anyTier) table with
  | none => return none
  | some win =>
    let e ← embRead s t.ctx access win.record
    descCheck (fmt = e.rowFmt && elems = e.elems && !compressed) d
    return some (win, e, (table - win.base) / e.rowBytes)

/-- Notes the record of a table that is a window (R282). -/
def noteWindow (ctx : Nat) (win : Option (Window × Emb × Nat)) (s : State) : State :=
  match win with
  | some (_, e, _) => noteRecord ctx e.addr s
  | none => s

/-- Positions that a parcel has dropped so far. -/
def droppedBy (s : State) (t : Task) : Nat :=
  match s.parcel t.ctx t.hostSeq with
  | some p => p.dropped
  | none => 0

/-- One position of a GATHER as it is issued: decided at once (dropped), or open with its row. -/
structure Picked where
  dropped : Bool
  pos : Position
  deriving DecidableEq, Repr

/-- The row written for a late position (Table 6.6), with the elements widening made infinite. Its source is read by the
records that the instruction is bound to. -/
def fallbackRow (s : State) (o : AsyncOp) (g : GatherDesc) (j : Nat) : Except Bad (List Byte × Nat) := do
  let u := o.use 0 [.near]
  match g.fallback with
  | 1 => return convertRow g.rowFmt g.outFmt g.elems (← engRead s o.ctx u (g.alt + j * g.altStride) g.altStride)
  | 2 => return convertRow g.altFmt g.outFmt g.elems (← engRead s o.ctx u (g.alt + j * g.altStride) g.altStride)
  | 3 => return (← engRead s o.ctx u g.alt g.altStride, 0)
  | _ => return (List.replicate (rowStride g.outFmt g.elems) 0, 0)

/-- A zero row (R163, R171). -/
def zeroRow (g : GatherDesc) : List Byte := List.replicate (rowStride g.outFmt g.elems) 0

/-- What a GATHER reads its rows from. -/
inductive Source where
  | table
  | store (st : Store) (tiles : List Opened)
  | window (win : Window) (e : Emb) (first : Nat)

/-- A position before its row is known. -/
def Position.blank (i dst : Nat) (dstLocal : Bool) (bytes : List Byte) (row unit : Nat) : Position :=
  { index := i, dst := dst, dstLocal := dstLocal, bytes := bytes, row := row, tag := 0, off := 0, len := 0, unit := unit,
    nonfin := 0, home := 0, src := [], issued := true, slots := [], share := 0, bad := none, lookup := none, ats := [] }

/-- A tag set aside for a read that has not gone out yet. -/
def reserveTag (s : State) : Nat × State := (s.nextTag, { s with nextTag := s.nextTag + 1 })

/-- A position whose row an engine reads from pieces at an address: its read has still to go out (R155, R156). -/
def Position.reads (p : Position) (w : Who) (g : GatherDesc) (s : State) (a : Nat) (ps : List Piece) (row : List Byte) :
    Position :=
  let r := convertRow g.rowFmt g.outFmt g.elems row
  { p with bytes := r.1, nonfin := r.2, off := a, src := ps, slots := ps, issued := false,
           unit := unitFor s (Who.die w) p.index ps }

/-- That of a lookup's position at the home that its row has now (R276). -/
def Position.atHome (p : Position) (w : Who) (ctx : Nat) (g : GatherDesc) (s : State) (a : Nat) : Except Bad Position := do
  let ps ← engPieces s ctx useRead a (rowStride g.rowFmt g.elems)
  return { p.reads w g s a ps (piecesBytes s.mem ps) with home := a, ats := atsRanges s ctx (a, rowStride g.rowFmt g.elems) }

/-- Position i of a GATHER with index j: it takes a tag, and what it reads is known. A lookup's row is bound as its read goes
out, here or later (R170, R276). -/
def pickRow (w : Who) (t : Task) (g : GatherDesc) (src : Source) (op i j : Nat) (s : State) :
    Except Bad (State × Picked) := do
  let unit := engineOf s (Who.die w) i
  let dst := g.data + i * rowStride g.outFmt g.elems
  let pos := Position.blank i dst g.isLocal (zeroRow g) j unit
  if j ≥ g.rows then
    if g.drop then return (s, ⟨true, pos⟩)
    else .error (.slMeta 1 (g.index + i * entryBytes g.idxKind) unit)
  else
    let (tag, s1) := reserveTag s
    let mine := { pos with tag := tag }
    let read := fun (a : Nat) => do
      let ps ← engPieces s t.ctx useRead a (rowStride g.rowFmt g.elems)
      return (s1, (⟨false, mine.reads w g s a ps (piecesBytes s.mem ps)⟩ : Picked))
    match src with
    | .table => read (g.table + j * rowStride g.rowFmt g.elems)
    | .store st tiles =>
      match tiles.find? fun e => e.tile = j / 2 ^ st.tileLog2 with
      | none => return (s, ⟨true, pos⟩)
      | some o =>
        if o.dense then read (o.stored + st.offset j)
        else return (s1, ⟨false, { mine.reads w g s o.stored o.src ((o.bytes.drop (st.offset j)).take st.stride) with bad := o.bad }⟩)
    | .window win e first =>
      let row := first + j
      if !win.holds e row then read (win.rowAddr e row)
      else
      match ← homeOf s t.ctx e row with
      | .invalid => return (emDrop true s, ⟨true, pos⟩)
      | .missing => return (emDrop false s, ⟨true, pos⟩)
      | .at a _ => return (s1, ⟨false, { ← mine.atHome w t.ctx g s a with lookup := some ⟨e.addr, row, win.rowAddr e row⟩ }⟩)
      | .remote rank =>
        let (tag, s1) ← sendOwner t.ctx t.hostSeq e rank (win.rowAddr e row) (.remoteRow op) 0
          (.request (BitVec.ofNat 64 e.addr) row e.span) s
        return (s1, ⟨false, { pos with tag := tag, len := e.rowBytes }⟩)

/-- All positions of a GATHER in list order. -/
def pickRows (w : Who) (t : Task) (g : GatherDesc) (src : Source) (op : Nat) :
    List (Nat × Nat) → State → Except Bad (State × List Picked)
  | [], s => .ok (s, [])
  | (i, j) :: r, s => do
    let (s1, p) ← pickRow w t g src op i j s
    let (s2, ps) ← pickRows w t g src op r s1
    return (s2, p :: ps)

/-- An engine opens a tile once for all the positions that are out together: the first of them brings it, and the read of the others
takes nothing more of the engine's (R169). -/
def shareTiles : List Position → List Position → List Position
  | [], acc => acc
  | p :: r, acc =>
    match acc.find? fun q => q.unit = p.unit && q.off = p.off && q.share = 0 && !p.src.isEmpty with
    | some q => shareTiles r (acc ++ [{ p with slots := [], share := q.tag }])
    | none => shareTiles r (acc ++ [p])

/-- The positions of a compressed store with their shared tiles, and what the decompressors produce for them. -/
def openShared (src : Source) (ps : List Position) (s : State) : State × List Position :=
  match src with
  | .store _ tiles =>
    let compressed := fun (p : Position) => tiles.any fun t => !t.dense && t.bad.isNone && t.stored = p.off
    let qs := shareTiles (ps.filter compressed) []
    ((qs.filter fun q => q.share = 0).foldl (fun (x : State) q =>
        match tiles.find? fun t => !t.dense && t.stored = q.off with
        | some t => countOutput t x
        | none => x) (countDense tiles s),
      ps.map fun p => (qs.find? fun q => q.tag = p.tag).getD p)
  | _ => (s, ps)

/-- Rows delivered or written by an engine (Table 6.18). -/
def countRows (unit n : Nat) (s : State) : State := { s with sl := { s.sl with rows := s.sl.rows.bump unit n } }

/-- Writes a row of a GATHER or a part of a copy at its place; the source of a mask is gathered in its record. -/
def putRow (o : AsyncOp) (p : Position) (bs : List Byte) (s : State) : Except Bad State :=
  if o.name = "MASK" then
    .ok { s with ops := s.ops.map fun x => if x.id = o.id then
      { x with data := x.data.take p.dst ++ bs ++ x.data.drop (p.dst + bs.length) } else x }
  else if p.dstLocal then .ok (cisPut o.who.core p.dst bs s)
  else devWrite s o.writer (o.use 1 nearFarHost) p.dst bs

/-! ### Reads that go out after the issue (R156, R276) -/

/-- Ends the parcel of an instruction with a fault that an engine met. No task is named, but for the core that the record of
a stale version holds (R82, R265). -/
def opFails (o : AsyncOp) (b : Bad) (s : State) : State :=
  let who := match b with
    | .stale .. => some o.who
    | _ => none
  failParcel o.ctx o.hostSeq who 0 (Who.die o.who) b s

/-- The bit of a position in the valid bitmap falls. -/
def clearValid (i : Nat) (o : AsyncOp) : AsyncOp := { o with valid := o.valid.set i false }

/-- A position of a GATHER is decided with zeros before its read has gone out. -/
def zeroPosition (o : AsyncOp) (p : Position) (s : State) : State :=
  match putRow o p (List.replicate p.bytes.length 0) s with
  | .error b => opFails o b s
  | .ok s1 => modOp o.id (fun x => { x with openPos := x.openPos.filter fun q => q.tag ≠ p.tag }) s1

/-- The position of a lookup whose row has no home is dropped: a zero row, and no bit in the valid bitmap (R276, R277). -/
def dropPosition (o : AsyncOp) (p : Position) (s : State) : State :=
  match putRow o p (List.replicate p.bytes.length 0) s with
  | .error b => opFails o b s
  | .ok s1 =>
    countDropped o.ctx o.hostSeq 1 (modOp o.id (fun x =>
      { clearValid p.index x with
        openPos := x.openPos.filter fun q => q.tag ≠ p.tag, dropped := x.dropped + 1 }) s1)

/-- The position of a lookup whose row is another module's by now asks that module for it (R276). -/
def askOwner (o : AsyncOp) (p : Position) (l : Lookup) (e : Emb) (rank : Nat) (s : State) : Except Bad State := do
  let (tag, s1) ← sendOwner o.ctx o.hostSeq e rank l.va (.remoteRow o.id) 0 (.request (BitVec.ofNat 64 e.addr) l.row e.span) s
  return modOp o.id (fun x => { x with openPos := x.openPos.map fun q =>
    if q.tag = p.tag then { Position.blank p.index p.dst p.dstLocal p.bytes p.row p.unit with tag := tag, len := e.rowBytes }
    else q }) s1

/-- A lookup's position is bound to its row's home, and its read goes out, where the bounds let it (R156, R276). -/
def bindRow (o : AsyncOp) (p : Position) (l : Lookup) (s : State) : Except Bad State := do
  let e ← embRead s o.ctx 0 l.record
  match ← homeOf s o.ctx e l.row with
  | .invalid => return dropPosition o p (emDrop true s)
  | .missing => return dropPosition o p (emDrop false s)
  | .remote rank => askOwner o p l e rank s
  | .at a _ =>
    let q ← p.atHome o.who o.ctx (gatherDescOf o.desc.toNat) s a
    return if readFits s q.unit q.slots then issueRead true o q s else s

/-- A position whose read waits: it goes out as far as the bounds let it. A lookup that cannot be bound for a detected error is a
row in error, and one that needs a missing part of the flash map goes on waiting (R172, R315). -/
def lateRead (id : Nat) (s : State) (p : Position) : State :=
  match findOp s id with
  | none => s
  | some o =>
    if p.issued || !o.mayRead p then s
    else
      match p.lookup with
      | none => if readFits s p.unit p.slots then issueRead true o p s else s
      | some l =>
        match bindRow o p l s with
        | .ok s' => s'
        | .error .wait => s
        | .error (.detected e) => foundError o.ctx o.hostSeq e (zeroPosition o p s)
        | .error b => opFails o b s

/-- The reads that wait go out as far as the bounds let them, in the order of their instructions and positions. -/
def lateReads (s : State) : State :=
  s.ops.foldl (fun (x : State) o => o.openPos.foldl (lateRead o.id) x) s

/-! ### The instructions -/

/-- What GATHER does to the state at its issue, with its record or with what ends its parcel. A header or tile descriptor that fails a
check latches the engine of position 0 (DESIGN CHOICE, log entry 16). -/
def gatherEffect (t : Who) (grp : Fin 8) (d : Fin 16) (id : Nat) (x : Task) (s : State) : State × Except Bad AsyncOp :=
  let w := (x.desc d).toNat
  let gd := gatherDescOf w
  let r : Except Bad (State × AsyncOp) := do
    descCheck (gatherOk x w) d.val
    enginesCheck s (Who.die t)
    if gd.compressed && !decompUp s 0 && !decompUp s 1 then .error (.status 13 0) else .ok ()
    let total := gd.count * rowStride gd.outFmt gd.elems
    if gd.isLocal then
      if gd.data + total > x.footprint then .error (cisOutside x.footprint 1 gd.data) else .ok ()
    else
      reachCheck s (← range s x.ctx useWrite gd.data total)
    if gd.report ≠ 0 then reachCheck s (← range s x.ctx (Use.of 1 nearFar) gd.report 16) else .ok ()
    let js ← readIndices s x.ctx gd.idxKind false gd.index gd.count
    (gd.altRanges js).forM fun r => altCheck s x.ctx [] (descFault d.val) (gd.fallback = 4) r.1 r.2
    let unit := engineOf s (Who.die t) 0
    let win ← tableWindow s x 0 d.val gd.table gd.rowFmt gd.elems gd.compressed
    let (s1, src) ← match win with
      | some (wn, e, first) => .ok (noteWindow x.ctx win s, Source.window wn e first)
      | none =>
        if gd.compressed then do
          let st ← readStore s x.ctx gd.table gd.rowFmt gd.elems gd.rows unit
          let tiles ← openTiles st x.ctx (Who.die t) unit s ((js.filter fun j => j < gd.rows).map fun j => j / 2 ^ st.tileLog2) []
          .ok (s, Source.store st tiles)
        else .ok (s, Source.table)
    let (s2', ps) ← pickRows t x gd src id ((List.range js.length).zip js) s1
    let (s2, open') := openShared src ((ps.filter fun p => !p.dropped).map (·.pos)) s2'
    let op0 := AsyncOp.bind { AsyncOp.of id t x grp.val "GATHER" with
      deadline := gd.deadline, fallback := gd.fallback, openPos := open',
      valid := ps.map fun p => !p.dropped, validAddr := if gd.fallback = 4 then gd.alt else 0,
      report := gd.report, dropped := (ps.filter (·.dropped)).length, desc := x.desc d } s (gd.named js)
    let s3 ← (ps.filter (·.dropped)).foldlM (fun s p => putRow op0 p.pos p.pos.bytes s) s2
    return (countDropped x.ctx x.hostSeq op0.dropped s3, op0)
  match r with
  | .ok (s', op) => (s', .ok op)
  | .error b => (s, .error b)

/-- GATHER (R161 to R174). Every position takes its tag at issue; dropped positions are written as zero rows at once,
the others when their replies arrive or their deadline passes. -/
def execGather (t : Who) (g : Guard) (grp : Fin 8) (d : Fin 16) (s : State) : Out :=
  async t g grp anyLevel (gatherEffect t grp d) s

/-! ### SCATTER (R161 to R165) -/

/-- The row a SCATTER with add leaves: the FP32 sum narrowed once (R162). -/
def addRow (fmt elems : Nat) (old new : List Byte) : List Byte × Counts :=
  narrowRow fmt (List.zipWith fadd (rowFp fmt elems old) (rowFp fmt elems new))

/-- One position of a SCATTER. -/
def scatterRow (w : Who) (t : Task) (g : GatherDesc) (win : Option (Window × Emb × Nat)) (id : Nat) (rows : List Byte)
    (s : State) (ij : Nat × Nat) : Except Bad State := do
  let stride := rowStride g.rowFmt g.elems
  let bs := (rows.drop (ij.1 * stride)).take stride
  if ij.2 ≥ g.rows then
    if g.drop then return countDropped t.ctx t.hostSeq 1 s
    else .error (.slMeta 1 (g.index + ij.1 * entryBytes g.idxKind) (engineOf s (Who.die w) ij.1))
  else
    match win.filter fun x => x.1.holds x.2.1 (x.2.2 + ij.2) with
    | some (wn, e, first) =>
      let s := countRows (engineOf s (Who.die w) ij.1) 1 s
      windowWrite (t.writer w) t.hostSeq e (wn.rowAddr e (first + ij.2)) (first + ij.2) 0 g.add bs (.write id) s
    | none =>
      let a := g.table + ij.2 * stride
      let u : Use := Use.of (if g.add then 3 else 1) nearFarHost
      let ps ← engPieces s t.ctx u a stride
      let s := countRows (unitFor s (Who.die w) ij.1 ps) 1 s
      if g.add then
        let old ← devReadNew s t.ctx (Use.of 3 nearFarHost) a stride
        let r := addRow g.rowFmt g.elems old bs
        return countNum t.ctx t.hostSeq (Who.die w) r.2 (← devWrite s (t.writer w) u a r.1)
      else devWrite s (t.writer w) u a bs

/-- What SCATTER does to the state at its issue, with its record or with what ends its parcel. -/
def scatterEffect (t : Who) (grp : Fin 8) (d : Fin 16) (id : Nat) (x : Task) (s : State) : State × Except Bad AsyncOp :=
  let w := (x.desc d).toNat
  let gd := gatherDescOf w
  let pre : Except Bad (Option (Window × Emb × Nat) × List Nat × List Byte) := do
    descCheck (scatterOk x w) d.val
    enginesCheck s (Who.die t)
    if gd.report ≠ 0 then reachCheck s (← range s x.ctx (Use.of 1 nearFar) gd.report 16) else .ok ()
    let win ← tableWindow s x (if gd.add then 3 else 1) d.val gd.table gd.rowFmt gd.elems false
    let js ← readIndices s x.ctx gd.idxKind false gd.index gd.count
    let rows ← engLoc s t x gd.isLocal useRead gd.data (gd.count * rowStride gd.outFmt gd.elems)
    return (win, js, rows)
  match pre with
  | .error b => (s, .error b)
  | .ok (win, js, rows) =>
    let (s1, r) := inOrder (scatterRow t x gd win id rows) ((List.range js.length).zip js) (noteWindow x.ctx win s)
    (s1, r.map fun _ => AsyncOp.bind { AsyncOp.of id t x grp.val "SCATTER" with
      report := gd.report, dropped := droppedBy s1 x - droppedBy s x, desc := x.desc d } s (gd.named js))

/-- SCATTER (R164). Positions take effect in increasing order; those before one that fails stay. -/
def execScatter (t : Who) (g : Guard) (grp : Fin 8) (d : Fin 16) (s : State) : Out :=
  async t g grp anyLevel (scatterEffect t grp d) s

end Sys2Proof.Machine
end

