-- ==== Sys2Proof/Machine/Rounds.lean ====
section
/-! DEFINITION. Closing and withdrawing merge rounds (10_embedding_tables.md R282 to R284). -/

namespace Sys2Proof.Machine

open Sys2Proof

/-- A logged entry: row, rank and its bytes. -/
structure LogEntry where
  row : Nat
  rank : Nat
  bytes : List Byte
  deriving DecidableEq, Repr

/-- The k first entries of a record's log. -/
def readLog (s : State) (ctx : Nat) (e : Emb) (k : Nat) : Except Bad (List LogEntry) := do
  let bs ← pageRead s ctx (Use.of 0 nearFar) e.log (k * e.entryBytes)
  return (List.range k).map fun i =>
    let b := (bs.drop (i * e.entryBytes)).take e.entryBytes
    ⟨bitsN (leNat (b.take 8)) 47 0, bitsN (leNat (b.take 8)) 59 48, b⟩

/-- Values of a logged entry, widened to FP32. -/
def LogEntry.values (e : Emb) (x : LogEntry) : List W32 := rowFp e.rowFmt e.elems (x.bytes.drop 64)

/-- Runs of equal rows in the stable order of row and rank, each with its sum (R282). -/
def rowSums (e : Emb) (log : List LogEntry) : List (Nat × List W32) :=
  let sorted := log.mergeSort fun a b => a.row < b.row || (a.row = b.row && a.rank ≤ b.rank)
  let runs := sorted.foldl (fun (acc : List (Nat × List W32)) x =>
    match acc with
    | (j, sum) :: r => if j = x.row then (j, List.zipWith fadd sum (x.values e)) :: r else (x.row, x.values e) :: acc
    | [] => [(x.row, x.values e)]) []
  runs.reverse

/-- narrow(fma(scale, s, widen(row))) for each element, with its counts (R282). -/
def updateRow (e : Emb) (sum : List W32) (old : List Byte) : List Byte × Counts :=
  narrowRow e.rowFmt (List.zipWith (fun x r => ffma e.scale x r) sum (rowFp e.rowFmt e.elems old))

/-- Adds to CT_SAT and CT_NONFINITE of the owner's context; no parcel is named (R238, R282). -/
def countOwner (ctx : Nat) (c : Counts) (s : State) : State :=
  s.modRegs ctx fun r => { r with sat := satAdd top48 r.sat c.sat, nonfinite := satAdd top48 r.nonfinite c.nonfin }

/-- A sum applied at a row's home in the near or far tier. -/
def applySum (ctx : Nat) (e : Emb) (home : Nat) (sum : List W32) (s : State) : Except Bad State := do
  let old ← devReadNew s ctx (Use.of 0 nearFar) home e.rowBytes
  let (bs, c) := updateRow e sum old
  return countOwner ctx c (← devWrite s (mergeWriter ctx) (Use.of 1 nearFar) home bs)

/-- Counts a row updated or listed (EM_APPLIED). -/
def countApplied (s : State) : State := { s with merge := { s.merge with applied := satAdd top48 s.merge.applied 1 } }

/-- The address lies in the near or far tier. -/
def inNearFar (s : State) (ctx a : Nat) : Except Bad Bool :=
  (translateMem s ctx useRead a).map fun p => nearFar.contains p.1

/-- A row listed and not applied, since its home lies in the host or flash tier (R282). -/
def countDeferred (s : State) : State :=
  countApplied { s with merge := { s.merge with deferred := satAdd top48 s.merge.deferred 1 } }

/-- Where a row on the move will live: at its target, or where its evict leaves it (R286). -/
def homeAfter (s : State) (ctx : Nat) (e : Emb) (row : Nat) : Except Bad (Option Nat) :=
  match s.merge.moves.find? fun m => m.ctx = ctx && m.record.toNat = e.addr && m.row = row && m.phase = .copying with
  | some m => match m.target with
    | some a => .ok (some a)
    | none => coldHome s ctx e row
  | none => .ok none

/-- What a round's close leaves of one row: applied, held by its move, listed, or dropped where it has no home. The row of a
move to the host or flash tier is listed at once, since no close writes there (R289; log entry 26). -/
def closeRow (ctx : Nat) (e : Emb) (acc : State × List (Nat × List W32)) (run : Nat × List W32) :
    Except Bad (State × List (Nat × List W32)) := do
  let (s, merged) := acc
  if e.update = 0 then
    halfCheck s (e.bucket run.1)
    return (countApplied s, merged ++ [run])
  else
    match ← homeOf s ctx e run.1 with
    | .at home _ =>
      if movingRow s ctx e.addr run.1 then
        let stays ← match ← homeAfter s ctx e run.1 with
          | some a => inNearFar s ctx a
          | none => .ok true
        if stays then
          return (modMove ctx e.addr run.1 (fun m => { m with updates := m.updates ++ [run.2] }) s, merged)
        else return (countDeferred s, merged ++ [run])
      else if ← inNearFar s ctx home then return (countApplied (← applySum ctx e home run.2 s), merged)
      else return (countDeferred s, merged ++ [run])
    | _ => return (emDrop false s, merged)

/-- Bytes of the merged list (R282). -/
def mergedEntry (e : Emb) (x : Nat × List W32) : List Byte :=
  takePad 0 64 (leBytes 8 x.1) ++ takePad 0 (4 * e.elems) (x.2.flatMap fun v => leBytes 4 v.toNat)

/-- Closes the round of a record with its logged entries, and writes the merged list (R282). -/
def closeRecord (ctx : Nat) (e : Emb) (logged : Nat) (s : State) : Except Bad State := do
  let log ← readLog s ctx e logged
  let (s1, merged) ← (rowSums e log).foldlM (closeRow ctx e) (s, [])
  let u : Use := Use.of 1 nearFar
  let s2 ← pageWrite s1 (mergeWriter ctx) u (e.merged + 64) (merged.flatMap (mergedEntry e))
  let s3 ← pageWrite s2 (mergeWriter ctx) u e.merged (leBytes 8 merged.length)
  return if logged = 0 then s3
    else countOwner ctx ⟨0, (merged.map fun x => (x.2.filter nonfin).length).sum⟩ s3

/-- Adds a row to a merged list that has been written, in its place (R282). -/
def insertMerged (ctx : Nat) (e : Emb) (x : Nat × List W32) (s : State) : Except Bad State := do
  let u : Use := Use.of 0 nearFar
  let n := leNat (← pageRead s ctx u e.merged 8)
  let size := 64 + 4 * e.elems
  let bs ← pageRead s ctx u (e.merged + 64) (n * size)
  let old := (List.range n).map fun i => (bs.drop (i * size)).take size
  let before := old.takeWhile fun b => bitsN (leNat (b.take 8)) 47 0 ≤ x.1
  let by' := mergeWriter ctx
  let s1 ← pageWrite s by' (Use.of 1 nearFar) (e.merged + 64)
    ((before ++ [mergedEntry e x] ++ old.drop before.length).flatMap id)
  pageWrite s1 by' (Use.of 1 nearFar) e.merged (leBytes 8 (n + 1))

/-- A held update meets its row again once the move is over: applied at the row's home, or listed (R282, R287). -/
def applyUpdate (ctx : Nat) (e : Emb) (row : Nat) (s : State) (sum : List W32) : State :=
  let r : Except Bad State := do
    let (s1, listed') ← closeRow ctx e (s, []) (row, sum)
    listed'.foldlM (fun (x : State) l => insertMerged ctx e l (countOwner ctx ⟨0, (l.2.filter nonfin).length⟩ x)) s1
  match r with
  | .ok s' => s'
  | .error b => unitFails ctx b s

/-- A round of a shared record that holds this module's contributions closes: the step can no longer be replayed by the
module itself (R284). -/
def noteClosed (ctx : Nat) (e : Emb) (logged : Nat) (s : State) : State :=
  let mine := match readLog s ctx e logged with
    | .ok log => log.any fun x => x.rank = e.rank
    | .error _ => true
  if 1 < e.members && 0 < logged && mine then s.modSeal ctx fun x => { x with roundClosed := true } else s

/-- Closes slot n of the open-round table if its record names the group; a record that cannot be read, or whose lists
cannot be reached, stays as it is (log entry 26). -/
def closeSlot (ctx : Nat) (group : W32) (n : Nat) (s : State) : State :=
  let r := s.merge.rounds.get Round.reset n
  if r.ctx ≠ ctx || r.record = 0 then s
  else
    let res : Except Bad State := do
      let e ← embRead s ctx 0 r.record.toNat
      if e.closeGroup ≠ group then return s
      else
        let k := if r.isOpen then r.logged else 0
        let s1 ← closeRecord ctx e k (noteClosed ctx e k s)
        return modRound n (fun x => if x.isOpen then { x with isOpen := false, logged := 0, rounds := satAdd top48 x.rounds 1 } else x) s1
    match res with
    | .ok s' => s'
    | .error b => unitFails ctx b s

/-- A record that the context has used, without a slot of the open-round table: its merged count becomes 0 (R282). -/
def closeUnlogged (group : W32) (s : State) (k : Nat × Nat) : State :=
  if s.merge.rounds.any fun r => r.2.ctx = k.1 && r.2.record.toNat = k.2 then s
  else
    let res : Except Bad State := do
      let e ← embRead s k.1 0 k.2
      if e.closeGroup = group then closeRecord k.1 e 0 s else return s
    match res with
    | .ok s' => s'
    | .error b => unitFails k.1 b s

/-- A group completes: the open rounds of the records that name it close, and the rounds this module opened at owners
under it are closed there too (R282). -/
def closeRounds (ctx : Nat) (group : W32) (s : State) : State :=
  let s0 := (List.range 64).foldl (fun (x : State) n => closeSlot ctx group n x) s
  let s1 := (s0.merge.seen.filter fun k => k.1 = ctx).foldl (closeUnlogged group) s0
  let done := fun (k : Nat × Word × Nat × Nat) => k.1 = ctx && (match embRead s1 ctx 0 k.2.1.toNat with
    | .ok e => decide (e.closeGroup = group)
    | .error _ => false)
  let s2 := if s1.merge.remoteRounds.any done then s1.modSeal ctx fun x => { x with roundClosed := true } else s1
  { s2 with merge := { s2.merge with remoteRounds := s2.merge.remoteRounds.filter fun k => !done k } }

/-- Deletes the logged entries of a rank from the open round in slot n (R284). -/
def deleteRank (n rank : Nat) (s : State) : Except Bad State := do
  let r := s.merge.rounds.get Round.reset n
  let e ← embRead s r.ctx 0 r.record.toNat
  let log ← readLog s r.ctx e r.logged
  let keep := log.filter fun x => x.rank ≠ rank
  let s1 ← pageWrite s (mergeWriter r.ctx) (Use.of 1 nearFar) e.log (keep.flatMap (·.bytes))
  let s2 := modRound n (fun x => { x with logged := keep.length, isOpen := !keep.isEmpty }) s1
  return { s2 with merge := { s2.merge with withdrawn := satAdd top48 s2.merge.withdrawn (log.length - keep.length) } }

/-- A withdrawal of a rank on the owner (R284). -/
def withdrawAt (ctx record rank : Nat) (s : State) : Except Bad State :=
  match openRound s ctx record with
  | some n => deleteRank n rank s
  | none => .ok s

/-- Withdraws this module's rank from an open round that it owns itself; the flag says that nothing has failed so far. -/
def withdrawHere (ctx : Nat) (acc : State × Bool) (r : Nat × Round) : State × Bool :=
  let res : Except Bad State := do
    let e ← embRead acc.1 ctx 0 r.2.record.toNat
    deleteRank r.1 e.rank acc.1
  match res with
  | .ok s' => (s', acc.2)
  | .error b => (unitFails ctx b acc.1, false)

/-- Sends a withdrawal to the owner of a round this module opened (R284). Without a route nothing has been withdrawn. -/
def sendWithdrawal (ctx : Nat) (acc : State × Bool) (k : Nat × Word × Nat × Nat) : State × Bool :=
  match embRead acc.1 ctx 0 k.2.1.toNat with
  | .error b => (unitFails ctx b acc.1, false)
  | .ok e =>
    let (tag, s1) := newTag ctx 0 (.withdraw k.2.2.1) k.2.1 acc.1
    let (s2, sent) := sendFlit (Flit.first 2 (BitVec.ofNat 32 k.2.2.1) s1.links.modAddr (BitVec.ofNat 16 tag) k.2.2.2
      (.withdrawal k.2.1 e.rank)) s1
    if sent then (s2, acc.2) else (dropTag tag s2, false)

/-- Withdraws this module's rank from every round the context has opened, here and at other owners (R284, R373). The flag says
that nothing has failed; the other owners' answers are still to come. -/
def withdrawAll (ctx : Nat) (s : State) : State × Bool :=
  let here := (s.merge.rounds.filter fun r => r.2.isOpen && r.2.ctx = ctx).foldl (withdrawHere ctx) (s, true)
  (here.1.merge.remoteRounds.filter fun k => k.1 = ctx).foldl (sendWithdrawal ctx) here

/-- A round at another owner is withdrawn: its owner has answered (R284). -/
def withdrawn (t : Tag) (owner : Nat) (s : State) : State :=
  { s with merge := { s.merge with remoteRounds := s.merge.remoteRounds.filter fun k =>
      !(k.1 = t.ctx && k.2.1 = t.window && k.2.2.1 = owner) } }

/-- A withdrawal of the context waits for its answer. -/
def withdrawing (s : State) (ctx : Nat) : Bool :=
  s.tags.any fun t => t.ctx = ctx && !t.abandoned && (match t.use with
    | .withdraw _ => true
    | _ => false)

/-- A context leaves its rounds for good, whatever their owners answer (R373). -/
def leaveRounds (ctx : Nat) (s : State) : State :=
  let s1 := (withdrawAll ctx s).1
  { s1 with merge := { s1.merge with remoteRounds := s1.merge.remoteRounds.filter fun k => k.1 ≠ ctx } }

end Sys2Proof.Machine
end

