-- ==== Sys2Proof/Machine/System.lean ====
section
/-! DEFINITION. System instructions and the loss-spike detector (04_selod_isa.md Table 4.16, R97 to R99, R104;
08_numerics.md R240, R241; 09_training_step.md R253). -/

namespace Sys2Proof.Machine

open Sys2Proof

/-! ### The end of a task (R104) -/

/-- A task has executed HALT and has nothing outstanding: its slot is free and its parcel counts one task less. -/
def retire (w : Who) (t : Task) (s : State) : State :=
  freeCores ((s.dropTask w).modParcel t.ctx t.hostSeq fun p => { p with running := p.running - 1 })

/-- No asynchronous instruction of the task is unfinished. -/
def Task.drained (t : Task) : Bool := t.groups.all fun e => e.2 = 0

/-- HALT (Table 4.16, R104). The task ends now, or once its asynchronous instructions have finished. -/
def execHalt (t : Who) (g : Guard) (s : State) : Out :=
  issue t anyLevel (fun x s =>
    if x.acts g then
      if x.drained then retire t x s else s.setTask t { x.advance with status := .haltPending }
    else s.setTask t x.advance) s

/-- YIELD (Table 4.16, R89). The slot is not ready for one issue round: it gives way to every other ready slot of its core
(log entry 20). -/
def execYield (t : Who) (g : Guard) (s : State) : Out :=
  issue t anyLevel (fun x s =>
    let s1 := s.setTask t x.advance
    if x.acts g then s1.modCore t.core fun c => { c with yields := BitVec.twoPow 4 t.slot } else s1) s

/-! ### ENTRY (R97 to R99) -/

/-- Logical lanes that the lanes field declares. -/
def entryLanes (imm : Nat) : Lanes :=
  match bitsN imm 5 4 with
  | 0 => .l64 | 1 => .l32 | _ => .l16

/-- Bytes of cistern that the footprint field declares. -/
def entryFootprint (imm : Nat) : Nat := 65536 * (bitsN imm 11 6 + 1)

/-- The lanes field is allowed at the level (R98). -/
def entryLanesOk (imm : Nat) : Bool := bitsN imm 5 4 ≠ 3 && (bitsN imm 3 0 = 1 || bitsN imm 5 4 = 0)

/-- The lanes field of a later ENTRY is allowed at the level that it declares (R98). -/
def laterEntryOk (imm : Nat) : Bool := bitsN imm 5 4 ≠ 3 && (bitsN imm 3 0 ≠ 2 || bitsN imm 5 4 = 0)

/-- Marks a parcel as having a task past ENTRY (R116). -/
def pastEntry (t : Task) (s : State) : State := s.modParcel t.ctx t.hostSeq fun p => { p with pastEntry := true }

/-- ENTRY (R97). At the RUN's entry the level is checked first, then the lanes, then the footprint against the tasks
already running on the core. One that is guarded off does nothing (R93); bit 0 of p0 reads as one before a lane count stands.
A later ENTRY does nothing (DEDUCED, log entry 22). -/
def execEntry (t : Who) (g : Guard) (imm : W32) (s : State) : Out :=
  match s.task t with
  | none => go s
  | some x =>
    let i := imm.toNat
    if !canIssue s t x then go s
    else
      let s := issued t s
      if bitsN i 31 12 ≠ 0 then go (malformed t x s)
      else if x.entered then if laterEntryOk i then go (s.setTask t x.advance) else go (malformed t x s)
      else if !x.acts g then go (s.setTask t x.advance)
      else if bitsN i 3 0 ≠ (s.ctx x.ctx).regs.level.toNat then
        go (failParcel x.ctx x.hostSeq (some t) x.pc (Who.die t) (.status 0xE 0) s)
      else if !entryLanesOk i then go (malformed t x s)
      else if (s.core t.core).footprint.any fun f => f ≠ entryFootprint i then go (malformed t x s)
      else
        let x' := { x with entered := true, level := BitVec.ofNat 4 i, width := entryLanes i,
                           footprint := entryFootprint i }
        go (pastEntry x ((s.setTask t x'.advance).modCore t.core fun c =>
          { c with footprint := some (entryFootprint i) }))

/-! ### RDINFO, PHASE, NOP, IFENCE -/

/-- RDINFO (Table 4.16). Items: core and slot, timer stamp, context, logical lanes, physical lanes. -/
def execRdinfo (t : Who) (g : Guard) (rd : Fin 64) (imm : W32) (s : State) : Out :=
  issue t (fun _ => imm.toNat ≤ 4) (fun x s =>
    if x.acts g then
      match imm.toNat with
      | 0 => s.setTask t (x.setS rd (BitVec.ofNat 64 (t.core + 512 * t.slot))).advance
      | 1 =>
        let r := readTimer (Who.die t) s
        r.2.setTask t (x.setS rd (stamp (Who.die t) r.1)).advance
      | 2 => s.setTask t (x.setS rd (BitVec.ofNat 64 x.ctx)).advance
      | 3 => s.setTask t (x.setS rd (BitVec.ofNat 64 x.lanes)).advance
      | _ => s.setTask t (x.setS rd 64).advance
    else s.setTask t x.advance) s

/-- PHASE (R253, level 2). Sets the phase of the core. -/
def execPhase (t : Who) (g : Guard) (imm : W32) (s : State) : Out :=
  issue t (fun x => level2 x && decide (imm.toNat ≤ 5)) (fun x s =>
    let s1 := s.setTask t x.advance
    if x.acts g then s1.modCore t.core fun c => { c with mark := some (Fin.ofNat 6 imm.toNat) } else s1) s

/-- IFENCE (R109). Fetched instructions are discarded; a command brings its own instruction, so nothing is held. -/
def execIfence (t : Who) (_g : Guard) (s : State) : Out := onTask t anyLevel id s

/-- NOP (Table 4.16). -/
def execNop (t : Who) (_g : Guard) (s : State) : Out := onTask t anyLevel id s

/-! ### The loss-spike detector (R240, R241) -/

/-- What a report answers: z, spike, nonfinite, warming. -/
structure Verdict where
  z : W32
  spike : Bool
  nonfinite : Bool
  warming : Bool
  deriving DecidableEq, Repr

/-- The verdict as LOSS writes it to rd. -/
def Verdict.word (v : Verdict) : Word :=
  BitVec.ofNat 64 (v.z.toNat + 2 ^ 32 * b2n v.spike + 2 ^ 33 * b2n v.nonfinite + 2 ^ 34 * b2n v.warming)

/-- x × 2^-a rounded to FP32. -/
def scaleDown (x : W32) (a : Nat) : W32 := round32 ((f32 x).scale (-(a : Int)))

/-- One report (R241). -/
def detect (d : Detector) (x : W32) (imm : Nat) : Detector × Verdict :=
  if nonfin x then (d, ⟨nan32, false, true, false⟩)
  else if d.count = 0 then (⟨1, x, 0⟩, ⟨0, false, false, true⟩)
  else
    let a := bitsN imm 3 0
    let k : Val := .fin false (bitsN imm 11 4) (-3)
    let diff := fsub x d.mean
    let z := fmul diff (frsq d.var)
    let warming := decide (d.count.toNat < bitsN imm 19 12)
    let spike := !warming && (k.lt (f32 z) || (bitN imm 20 && (f32 z).lt k.neg))
    let keep := spike && bitN imm 21
    let m := fadd d.mean (scaleDown diff a)
    let v := fmul (fadd d.var (scaleDown (fmul diff diff) a)) (fsub one32 (scaleDown one32 a))
    (if keep then d else ⟨if d.count = 65535 then d.count else d.count + 1, m, v⟩, ⟨z, spike, false, warming⟩)

/-- LOSS's immediate is well formed (R240). -/
def lossOk (imm : Nat) : Bool := bitsN imm 3 0 ≠ 0 && bitsN imm 11 4 ≠ 0 && bitsN imm 31 22 = 0

/-- LOSS (R240, R241, level 2). A verdict with spike or nonfinite raises one numeric event (R239). -/
def execLoss (t : Who) (g : Guard) (rd ra : Fin 64) (imm : W32) (s : State) : Out :=
  issue t (fun x => level2 x && lossOk imm.toNat) (fun x s =>
    if x.acts g then
      let r := detect (s.ctx x.ctx).det ((x.sreg ra).truncate 32) imm.toNat
      let s1 := (s.setTask t (x.setS rd r.2.word).advance).modCtx x.ctx fun c => { c with det := r.1 }
      let first := r.2.nonfinite && (match s1.parcel x.ctx x.hostSeq with | some p => !p.nonfinite | none => false)
      let s2 := if r.2.nonfinite then
          (s1.modRegs x.ctx fun c => { c with nonfinite := satAdd top48 c.nonfinite 1 }).modParcel x.ctx x.hostSeq
            fun p => { p with nonfinite := true }
        else s1
      if r.2.spike || r.2.nonfinite then
        numericEvent x.ctx x.hostSeq (Who.die t) r.2.z (b2n r.2.spike + 2 * b2n r.2.nonfinite + 4 * b2n first) s2
      else s2
    else s.setTask t x.advance) s

/-! ### Malformed words (R96) -/

/-- MALFORMED_INSTRUCTION (R96, R102, R104, R316). A task fetches a word: a fetch that does not translate ends the parcel
with the translation's cause, a misaligned one with cause 1, and a malformed word with cause 4; one that fails its check is a
detected error. A well-formed word leaves the task where it is: the instruction it spells is a command of its own. -/
def execMalformedInstruction (t : Who) (word : Word) (s : State) : Out :=
  match s.task t with
  | none => go s
  | some x =>
    if !canIssue s t x then go s
    else
      let stop := fun (b : Bad) => go (failParcel x.ctx x.hostSeq (some t) x.pc (Who.die t) b s)
      if x.pc.toNat % 8 ≠ 0 then stop (.violation 2 1 x.pc.toNat)
      else
        match devRead s x.ctx (Use.of 2 nearFar) x.pc.toNat 8 with
        | .error b => stop b
        | .ok _ =>
          match decodeSelod (decide (x.level ≠ 1)) t word with
          | some _ => go s
          | none => go (malformed t x s)

end Sys2Proof.Machine
end

