-- ==== Sys2Proof/Machine/Tally.lean ====
section
/-! DEFINITION. Tallies: waiting, signalling, losing an owner, resets, the debug window and hand sets
(12_tallies_sync.md R319 to R337, R345, R346; 04_selod_isa.md Table 4.14, R106, R107). -/

namespace Sys2Proof.Machine

open Sys2Proof

/-! ### The tally unit -/

/-- Home die of a tally (R319). -/
def homeDie (n : Nat) : Nat := n / 8192 % 8

/-- Waiters that a die's pool holds (R330). -/
def poolUsed (s : State) (die : Nat) : Nat :=
  ((s.tallies.filter fun e => homeDie e.1 = die).map fun e => e.2.queue.length - 64).sum

/-- The pool of a tally's home die holds no more entries (R331). -/
def poolFull (s : State) (n : Nat) : Bool := decide (65536 ≤ poolUsed s (homeDie n))

/-- The tally word (Table 12.1). -/
def Tally.word (t : Tally) : Word :=
  BitVec.ofNat 64 (t.count % 2 ^ 16 + t.owner % 2 ^ 10 * 2 ^ 16 + b2n t.owned * 2 ^ 26 + b2n t.poisoned * 2 ^ 27
    + min 64 t.queue.length * 2 ^ 28 + b2n (decide (64 < t.queue.length)) * 2 ^ 35 + t.sigCore.toNat * 2 ^ 36
    + t.sigSlot.toNat * 2 ^ 45 + t.sigCtx.toNat * 2 ^ 47 + t.sigSeq.toNat % 128 * 2 ^ 57)

/-- A waiter entry (Table 12.4). -/
def Waiter.word (w : Waiter) : Word :=
  BitVec.ofNat 64 (w.who.core % 512 + w.who.slot % 4 * 2 ^ 9 + b2n w.saved * 2 ^ 11 + b2n w.held * 2 ^ 12
    + w.ctx % 1024 * 2 ^ 13 + 2 ^ 23 + w.hostSeq.toNat * 2 ^ 32)

/-- The owning task is saved (R321, R333). -/
def ownerSaved (s : State) (t : Tally) : Bool :=
  match t.sigTask with
  | none => false
  | some i => s.saved.any fun o => o.ctx = t.sigCtx.toNat && o.hostSeq = t.sigHost
      && o.tasks.any fun x => x.2.1.taskIndex = i

/-- A lease runs on the tally (R333). -/
def leaseRuns (s : State) (t : Tally) : Bool :=
  t.owned && !t.poisoned && !t.queue.isEmpty && ownerSaved s t && (s.ctx t.owner).regs.leaseTicks ≠ 0

/-- The owning task is on a core. -/
def ownerLive (s : State) (t : Tally) : Bool :=
  s.tasks.any fun e => e.2.ctx = t.sigCtx.toNat && e.2.hostSeq = t.sigHost && t.sigTask = some e.2.taskIndex

/-- Starts and stops leases as the state stands: one that runs stops where its owning task is restored, or its queue empties
(R333). -/
def refreshLeases (s : State) : State :=
  { s with tallies := s.tallies.map fun e => (e.1, { e.2 with
      lease := leaseRuns s e.2 || (e.2.lease && !e.2.queue.isEmpty && !ownerLive s e.2) }) }

/-- The first operation on a tally that is not owned claims it (R321). -/
def Tally.claim (t : Tally) (ctx : Nat) : Tally := if t.owned then t else { t with owned := true, owner := ctx }

/-- A grant to a waiter, on its way to the wake line. -/
def Waiter.grant (tally : Nat) (w : Waiter) : Grant := ⟨w.who, w.ctx, w.hostSeq, w.task, w.pf, true, homeDie tally⟩

/-- Grants the first n waiters and adds to count what is left (R323). -/
def grantFirst (tally n : Nat) (s : State) : State :=
  let t := s.tally tally
  let k := min n t.queue.length
  { s.modTally tally (fun t => { t with queue := t.queue.drop k, count := t.count + (n - k) }) with
    grants := s.grants ++ (t.queue.take k).map (Waiter.grant tally) }

/-- Records a signaller, the owning task from now on, and advances the signal sequence (R321, R323). -/
def Tally.signalled (t : Tally) (who : Who) (ctx : Nat) (h : W32) (task : Option Nat) (byHand : Bool) : Tally :=
  { t with sigCore := BitVec.ofNat 9 who.core, sigSlot := BitVec.ofNat 2 who.slot, sigCtx := BitVec.ofNat 10 ctx,
           sigHost := h, sigSeq := t.sigSeq + 1, sigTask := task, byHand := byHand, lease := false }

/-! ### Prefetch schedules at their tallies (R307, R308) -/

def AsyncOp.pfBuffers (o : AsyncOp) : Nat := bitsN o.desc.toNat 11 8 + 1
def AsyncOp.pfTally (o : AsyncOp) : Nat := bitsN o.desc.toNat 95 80
/-- Positions of the whole schedule. -/
def AsyncOp.pfTotal (o : AsyncOp) : Nat := bitsN o.desc.toNat 55 32 * bitsN o.desc.toNat 79 64

/-- The position whose buffer a slot's ready tally will announce next. -/
def AsyncOp.nextReady (o : AsyncOp) (b : Nat) : Nat :=
  match (o.posOpen.map (·.pos)).find? fun i => i % o.pfBuffers = b with
  | some i => i
  | none => o.nextPos + (b + o.pfBuffers - o.nextPos % o.pfBuffers) % o.pfBuffers

/-- WAITs that have found no grant on a tally: those in its queue, and those that a full pool holds at issue. -/
def waitsOn (s : State) (tally : Nat) : Nat :=
  (s.tally tally).queue.length + (s.tasks.filter fun e => e.2.status = .poolFull && e.2.waitTally = tally).length

/-- Positions that the WAITs on a ready tally of a schedule need: each those that its tally will announce to it, but for the
WAITs that SIGNALs of the schedule already on their way reach first (R308). -/
def slotNeeds (s : State) (tally : Nat) (o : AsyncOp) : List Nat :=
  let sent := (s.inflight.filter fun m => m.pf = some o.id && m.tally = tally).length
  ((List.range (waitsOn s tally - sent)).map fun k => o.nextReady (tally - o.pfTally) + k * o.pfBuffers).filter
    fun i => decide (i < o.pfTotal)

/-- A schedule with what the WAITs on a tally need of it: a need that has begun stands. -/
def AsyncOp.need (s : State) (o : AsyncOp) (tally : Nat) : AsyncOp :=
  { o with needs := o.needs ++ (slotNeeds s tally o).filter fun i => !o.needs.contains i }

/-- A WAIT has found no grant: it needs the position that its ready tally will announce to it (R308). -/
def noteNeed (tally : Nat) (s : State) : State :=
  { s with ops := s.ops.map fun o =>
      if o.name = "PFSCHED" && decide (o.pfTally ≤ tally) && decide (tally < o.pfTally + o.pfBuffers) then o.need s tally else o }

/-! ### Operations applied at their tallies (R322 to R326, R335) -/

/-- The waiting task is descheduled: now, or when its hold window has run out (R327). -/
def desched (w : Who) (st : Status) (s : State) : State :=
  { s.modTask w (fun t => { t with status := st }) with tl := { s.tl with desched := satAdd top48 s.tl.desched 1 } }

/-- A WAIT joins the queue. With a hold window of zero its task is descheduled at once (R322, R327). -/
def joinQueue (m : SyncMsg) (s : State) : State :=
  let zero := (s.ctx m.ctx).regs.holdTicks = 0
  let w : Waiter := ⟨m.who, m.ctx, m.hostSeq, m.task, false, m.pf.isNone && !zero
    && (match s.task m.who with | some t => t.status = .waitHeld | none => false), m.pf⟩
  let s1 := noteNeed m.tally (s.modTally m.tally fun t => { t.claim m.ctx with queue := t.queue ++ [w] })
  refreshLeases (if m.pf.isNone && zero then desched m.who .waitDesched s1 else s1)

/-- A WAIT at its tally. One that must join a queue while the pool is full stays at issue, and is counted once (R331). -/
def applyWait (m : SyncMsg) (s : State) : State :=
  let t := s.tally m.tally
  if t.poisoned then endParcel m.ctx m.hostSeq 7 0 s
  else if 0 < t.count then
    { s.modTally m.tally (fun t => { t.claim m.ctx with count := t.count - 1 }) with
      grants := s.grants ++ [⟨m.who, m.ctx, m.hostSeq, m.task, m.pf, true, homeDie m.tally⟩] }
  else if poolFull s m.tally then
    let s1 := if m.stalled then s else { s with tl := { s.tl with poolFull := s.tl.poolFull.bump (homeDie m.tally) 1 } }
    if m.pf.isSome then { s1 with inflight := s1.inflight ++ [{ m with stalled := true }] }
    else noteNeed m.tally (hold m.who .poolFull s1)
  else joinQueue m s

/-- A SIGNAL at its tally (R323, R324, R335). -/
def applySignal (m : SyncMsg) (n : Nat) (s : State) : State :=
  let t := s.tally m.tally
  if t.poisoned then endParcel m.ctx m.hostSeq 7 0 s
  else if t.count + (n - t.queue.length) > 65535 then
    failParcel m.ctx m.hostSeq (some m.who) m.pc (Who.die m.who) (.violation 5 4 (0xE000000000000000 + m.tally)) s
  else
    refreshLeases (grantFirst m.tally n (s.modTally m.tally fun t =>
      (t.claim m.ctx).signalled m.who m.ctx m.hostSeq (some m.task) false))

/-- A SIGNAL_ALL at its tally (R325, R335). -/
def applySignalAll (m : SyncMsg) (s : State) : State :=
  let t := s.tally m.tally
  if t.poisoned then endParcel m.ctx m.hostSeq 7 0 s
  else
    refreshLeases (grantFirst m.tally t.queue.length (s.modTally m.tally fun t =>
      (t.claim m.ctx).signalled m.who m.ctx m.hostSeq (some m.task) false))

/-- Message k can be applied: none before it takes the same route from one die to one home die (R319, R20). -/
def nextOnRoute (s : State) (k : Nat) (m : SyncMsg) : Bool :=
  !((s.inflight.take k).any fun x => Who.die x.who = Who.die m.who && homeDie x.tally = homeDie m.tally)

/-- Grant k can arrive: none before it takes the same route from one die to one die (R20). -/
def nextGrant (s : State) (k : Nat) (g : Grant) : Bool :=
  !((s.grants.take k).any fun x => x.src = g.src && Who.die x.who = Who.die g.who)

/-- Takes message k off its route and applies it. -/
def deliver (k : Nat) (ok : SyncKind → Bool) (f : SyncMsg → State → State) (s : State) : Out :=
  match s.inflight[k]? with
  | none => go s
  | some m =>
    if s.active && ok m.kind && nextOnRoute s k m then go (f m { s with inflight := s.inflight.eraseIdx k }) else go s

/-- WAIT_APPLIED (R322). -/
def execWaitApplied (k : Nat) (s : State) : Out := deliver k (fun x => x = .wait) applyWait s

/-- SIGNAL_APPLIED (R323, R324). -/
def execSignalApplied (k : Nat) (s : State) : Out :=
  deliver k (fun x => match x with | .signal _ => true | _ => false) (fun m s =>
    match m.kind with
    | .signal n => applySignal m n s
    | _ => s) s

/-- SIGNAL_ALL_APPLIED (R325). -/
def execSignalAllApplied (k : Nat) (s : State) : Out := deliver k (fun x => x = .signalAll) applySignalAll s

/-! ### The instructions -/

/-- Sends an operation toward its tally unit. -/
def sendSync (kind : SyncKind) (tally : Nat) (w : Who) (t : Task) (pf : Option Nat) (s : State) : State :=
  { s with inflight := s.inflight ++ [⟨kind, tally, w, t.ctx, t.hostSeq, pf, t.taskIndex, t.pc, false⟩] }

/-- Tally number of a scalar operand. -/
def Task.tallyOf (t : Task) (ra : Fin 64) : Nat := (t.sreg ra).toNat % 65536

/-- An instruction that releases: it waits for the task's asynchronous instructions and held writes (R107). -/
def releasing (w : Who) (g : Guard) (f : Task → State → State) (s : State) : Out :=
  match s.task w with
  | none => go s
  | some t =>
    waiting (t.entered && t.acts g && (!t.drained || heldBy s w)) s
      (issue w anyLevel (fun x s => if x.acts g then f x s else s.setTask w x.advance) s)

/-- WAIT (R322, R327). The task is held until its grant reaches its wake line. -/
def execWait (t : Who) (g : Guard) (ra : Fin 64) (s : State) : Out :=
  issue t anyLevel (fun x s =>
    if x.acts g then
      sendSync .wait (x.tallyOf ra) t x none
        (s.setTask t { x.advance with status := .waitHeld, waitTally := x.tallyOf ra })
    else s.setTask t x.advance) s

/-- SIGNAL (R323). -/
def execSignal (t : Who) (g : Guard) (ra rb : Fin 64) (s : State) : Out :=
  releasing t g (fun x s =>
    sendSync (.signal ((x.sreg rb).toNat % 65536)) (x.tallyOf ra) t x none (s.setTask t x.advance)) s

/-- SIGNAL_ALL (R325). -/
def execSignalAll (t : Who) (g : Guard) (ra : Fin 64) (s : State) : Out :=
  releasing t g (fun x s => sendSync .signalAll (x.tallyOf ra) t x none (s.setTask t x.advance)) s

/-- A CWAIT of this group and value covers a finished instruction of its task (R106). -/
def covered (t : Who) (grp : Fin 8) (atMost : Byte) (o : AsyncOp) : Bool :=
  decide (o.who = t) && decide (o.group = grp.val) && decide (atMost.toNat < o.place)

/-- CWAIT (R106). It waits until the group's counter is at most the value stated. -/
def execCwait (t : Who) (g : Guard) (grp : Fin 8) (atMost : Byte) (s : State) : Out :=
  match s.task t with
  | none => go s
  | some x =>
    waiting (x.entered && x.acts g && decide (atMost.toNat < x.groups.get 0 grp.val)) s
      (issue t anyLevel (fun x s =>
        { s.setTask t x.advance with loose := if x.acts g then s.loose.filter fun o => !covered t grp atMost o else s.loose }) s)

/-- MFENCE (R106). Synchronous accesses of a task take effect in order in this model, so nothing is left to order. -/
def execMfence (t : Who) (_g : Guard) (s : State) : Out := onTask t anyLevel id s

/-! ### Holding and waking (R327, R329, R331) -/

/-- Address of a task's save area (R111). -/
def RunHeader.area (h : RunHeader) (task : Nat) : Nat := h.saveBase + task * h.saveStride

/-- Sets granted in the header of a saved task's area: with valid and waiting it makes up byte 2 (Table 4.18). -/
def markArea (g : Grant) (s : State) : State :=
  match (s.parcel g.ctx g.hostSeq).bind (·.header) with
  | none => s
  | some h =>
    match devWrite s (parcelWriter g.ctx g.hostSeq) (Use.of 1 nearFar) (h.area g.task + 2) [7] with
    | .ok s' => s'
    | .error _ => s

/-- Records a grant with a saved task (R113, R329). -/
def grantSaved (g : Grant) (s : State) : State :=
  let mine := fun (o : SavedOrdinal) => decide (o.ctx = g.ctx) && decide (o.hostSeq = g.hostSeq)
  if s.saved.any (fun o => mine o && o.tasks.any fun x => x.2.1.taskIndex = g.task && !x.2.2) then
    let note := fun (x : Nat × Task × Bool) => (x.1, x.2.1, x.2.2 || decide (x.2.1.taskIndex = g.task))
    markArea g { s with saved := s.saved.map fun o => if mine o then { o with tasks := o.tasks.map note } else o }
  else s

/-- GRANT_WAKE (R327). A grant to a schedule is taken by PREFETCH_POSITION_START. -/
def execGrantWake (k : Nat) (s : State) : Out :=
  match s.grants[k]? with
  | none => go s
  | some g =>
    if !s.active || g.pf.isSome || !nextGrant s k g then go s
    else
      let s1 := { s with grants := s.grants.eraseIdx k }
      match s1.task g.who with
      | some t =>
        if t.ctx = g.ctx && t.hostSeq = g.hostSeq && t.taskIndex = g.task
            && (t.status = .waitHeld || t.status = .waitDesched || t.status = .arriveHeld || t.status = .arriveDesched)
        then go (hold g.who .ready s1) else go (grantSaved g s1)
      | none => go (grantSaved g s1)

/-- HOLD_WINDOW_EXPIRY (R327, R339). -/
def execHoldWindowExpiry (t : Who) (s : State) : Out :=
  match s.task t with
  | none => go s
  | some x =>
    if x.status = .waitHeld then
      let s1 := desched t .waitDesched s
      go { s1 with tallies := s1.tallies.map fun e =>
        (e.1, { e.2 with queue := e.2.queue.map fun w =>
          if w.who = t && w.ctx = x.ctx && w.hostSeq = x.hostSeq && !w.saved && w.pf.isNone then { w with held := false } else w }) }
    else if x.status = .arriveHeld then go (desched t .arriveDesched s)
    else go s

/-- WAIT_POOL_RESEND (R331). -/
def execWaitPoolResend (t : Who) (s : State) : Out :=
  match s.task t with
  | none => go s
  | some x =>
    if s.active && x.status = .poolFull && !poolFull s x.waitTally then
      go (sendSync .wait x.waitTally t { x with pc := x.pc - 8 } none (hold t .waitHeld s))
    else go s

/-! ### Losing owners (R332 to R336) -/

/-- A sync record of the spill log, written by the keeper (Table 16.3). -/
def syncRecord (id : Nat) (group : Bool) (owner cause waiters : Nat) (s : State) : State :=
  report { Spill.of 4 8 1 with
    detail0 := BitVec.ofNat 64 (id + b2n group * 2 ^ 32)
    detail1 := BitVec.ofNat 64 (owner % 1024 + cause * 2 ^ 10 + waiters * 2 ^ 14) } s

/-- Ends the parcels of removed waiters with OWNER_LOST. -/
def endWaiters (q : List Waiter) (s : State) : State :=
  q.foldl (fun (x : State) w => endParcel w.ctx w.hostSeq 7 0 x)
    { s with tl := { s.tl with ownerLost := satAdd top48 s.tl.ownerLost (q.length) } }

/-- A tally's owner is lost: 1 context reset, 2 ABORT, 3 lease (R333). -/
def loseOwner (n cause : Nat) (s : State) : State :=
  let t := s.tally n
  if t.poisoned then s
  else
    let s1 := s.modTally n fun t => { t with poisoned := true, queue := [], lease := false }
    endWaiters t.queue (syncRecord n false t.owner cause t.queue.length
      { s1 with tl := { s1.tl with poisons := satAdd top48 s1.tl.poisons 1 } })

/-- Every tally that a context owns loses its owner (R333). Its own tasks have been removed before (R334). -/
def loseContext (ctx cause : Nat) (s : State) : State :=
  ((s.tallies.filter fun e => e.2.owned && e.2.owner = ctx).map (·.1)).foldl (fun (x : State) n => loseOwner n cause x) s

/-- LEASE_EXPIRY (R333). -/
def execLeaseExpiry (tally : Nat) (s : State) : Out :=
  if (s.tally tally).lease then go (loseOwner tally 3 s) else go s

/-- Resets one tally (R336). -/
def resetTally (n : Nat) (s : State) : State :=
  endWaiters (s.tally n).queue { s with tallies := s.tallies.del n }

/-- Resets the tallies that `sel` picks, one at a time: a waiter whose parcel has ended by then is queued no more (R336). -/
def resetTallies (sel : Nat → Tally → Bool) (s : State) : State :=
  ((s.tallies.filter fun e => sel e.1 e.2).map (·.1)).foldl (fun (x : State) n => resetTally n x) s

/-- The reset of a range goes on with its next tally; busy clears with the last one (R336). -/
def resetOne (s : State) : State :=
  if !s.tl.resetBusy then s
  else
    resetTally s.tl.resetNext { s with tl := { s.tl with
      resetNext := s.tl.resetNext + 1, resetLeft := s.tl.resetLeft - 1, resetBusy := decide (1 < s.tl.resetLeft) } }

/-- What the tally debug window has under way goes on while no command waits: the next tally of a range is reset, and a hand set
is over (R336, R346; log entry 53). -/
def nextReset (s : State) : State :=
  if s.active then resetOne { s with tl := { s.tl with setBusy := false } } else s

/-- A write of TL_RESET.go: the first tally of the range is reset, and the others after it, one at a time. A write that finds the
reset busy is ignored (R336). -/
def resetRange (first countM1 : Nat) (s : State) : State :=
  if s.tl.resetBusy then s
  else
    let a := first % 65536
    let c := countM1 % 65536
    resetOne { s with tl := { s.tl with
      resetFirst := BitVec.ofNat 16 a, resetCountM1 := BitVec.ofNat 16 c
      resetBusy := true, resetNext := a, resetLeft := min 65535 (a + c) + 1 - a } }

/-- TALLY_RESET (R336). -/
def execTallyReset (first countM1 : Nat) (s : State) : Out :=
  hostAccess (.tallyReset first countM1) (resetRange first countM1) s

/-! ### The debug window and hand sets (R345, R346) -/

/-- A write of TL_SEL. -/
def snapshotTally (tally : Nat) (s : State) : State :=
  let n := tally % 65536
  let t := s.tally n
  { s with tl := { s.tl with
    sel := BitVec.ofNat 16 n, selWord := t.word,
    selLast := BitVec.ofNat 64 (t.sigHost.toNat + t.sigSeq.toNat * 2 ^ 32), selWaiters := t.queue.length,
    selByHand := t.byHand, selLease := t.lease, selQueue := t.queue.take 64 } }

/-- TALLY_SNAPSHOT (R345). -/
def execTallySnapshot (tally : Nat) (s : State) : Out := hostAccess (.tallySnapshot tally) (snapshotTally tally) s

/-- Debug is unlocked for a scope (R409 to R411, Table 15.5). -/
def debugOpen (s : State) (scope : Nat) : Bool :=
  match s.fuses.lifecycle.toNat with
  | 1 => true
  | 2 => s.keeper.scopes.getLsbD scope
  | 3 => true
  | _ => false

/-- The record of a hand set (R346, Table 16.3). -/
def handRecord (n : Nat) (op refused : Bool) (value : Nat) (s : State) : State :=
  report { Spill.of 0xA 8 0 with
    detail0 := BitVec.ofNat 64 (n + b2n op * 2 ^ 16 + value * 2 ^ 32), detail1 := BitVec.ofNat 64 (b2n refused) } s

/-- A hand set: refused, or applied with its signaller recorded as context 0, core 0, slot 0. TL_SET.busy reads 1 until the
next step without a command (log entry 53). -/
def handSet (tally value : Nat) (op : Bool) (ok : Tally → Nat → Bool) (f : Nat → Nat → State → State)
    (s : State) : State :=
  let n := tally % 65536
  let v := value % 65536
  let t := s.tally n
  let refused := !debugOpen s 1 || t.poisoned || !ok t v
  let s1 := { s with tl := { s.tl with
    setTally := BitVec.ofNat 16 n, setOp := op, setValue := BitVec.ofNat 16 v, setRefused := refused, setBusy := true } }
  handRecord n op refused v (if refused then s1 else f n v s1)

/-- A hand set with op 0. -/
def handSignal (tally value : Nat) (s : State) : State :=
  handSet tally value false (fun t v => decide (t.count + (v - t.queue.length) ≤ 65535)) (fun n v s =>
    refreshLeases (grantFirst n v (s.modTally n fun t => (t.claim 0).signalled ⟨0, 0⟩ 0 0 none true))) s

/-- A hand set with op 1. The write of a count is no signal, so the signal sequence stands. -/
def handCount (tally value : Nat) (s : State) : State :=
  handSet tally value true (fun t _ => t.queue.isEmpty) (fun n v s =>
    s.modTally n fun t => { t.signalled ⟨0, 0⟩ 0 0 none true with count := v, sigSeq := t.sigSeq }) s

/-- HAND_SET_SIGNAL (R346). -/
def execHandSetSignal (tally value : Nat) (s : State) : Out :=
  hostAccess (.handSetSignal tally value) (handSignal tally value) s

/-- HAND_SET_COUNT (R346). -/
def execHandSetCount (tally value : Nat) (s : State) : Out :=
  hostAccess (.handSetCount tally value) (handCount tally value) s

end Sys2Proof.Machine
end

