-- ==== Sys2Proof/Machine/Check.lean ====
section
/-! DEFINITION. Barriers and the check tree: check slots, waves and breaks (12_tallies_sync.md R338 to R343;
13_utgor_links.md R368). The flits themselves arrive through Link.lean. -/

namespace Sys2Proof.Machine

open Sys2Proof

/-! ### Slots -/

/-- Ports that the slot names as children, in increasing number. -/
def CheckSlot.childPorts (c : CheckSlot) : List Nat := (List.range 32).filter fun p => c.children.getLsbD p

/-- Every tree port of the slot. -/
def CheckSlot.treePorts (c : CheckSlot) : List Nat :=
  c.childPorts ++ (if c.hasParent then [c.parent.toNat] else [])

/-- The bound slot of a group in a context. -/
def slotOf (s : State) (group : W32) (ctx : Nat) : Option (Nat × CheckSlot) :=
  s.slots.find? fun e => e.2.bound && e.2.group = group && e.2.ctx.toNat = ctx

/-- Sends a check flit on a tree port; a port that is down carries nothing. -/
def sendCheck (slot port wave : Nat) (s : State) : State :=
  let c := s.slot slot
  if (s.port port).live then
    sendOn port c.ctx.toNat (.check c.group (BitVec.ofNat 32 c.generation) (BitVec.ofNat 3 wave)) s
  else s

def sendChildren (slot wave : Nat) (s : State) : State :=
  (s.slot slot).childPorts.foldl (fun (x : State) p => sendCheck slot p wave x) s

def sendParent (slot wave : Nat) (s : State) : State := sendCheck slot (s.slot slot).parent.toNat wave s

/-- A task held in an ARRIVE of this parcel. -/
def heldTask (s : State) (w : Who × W32) : Bool :=
  match s.task w.1 with
  | some t => t.hostSeq = w.2 && (t.status = .arriveHeld || t.status = .arriveDesched)
  | none => false

/-- Every task held in the slot, or on its way to be counted. -/
def CheckSlot.held (c : CheckSlot) : List (Who × W32) := c.heldNow ++ c.heldNext ++ c.pendingDie

/-! ### Waves (R340, R341) -/

/-- The generation is over: its tasks are released, and arrivals counted toward the next one count there. -/
def finishGeneration (slot : Nat) (s : State) : State :=
  let c := s.slot slot
  { s.modSlot slot (fun c => { c with
      arrived := min c.ahead c.expected.toNat, ahead := c.ahead - c.expected.toNat, childrenDone := 0,
      generation := c.generation + 1, state := .counting,
      completions := (c.completions + 1) % 2 ^ 31, heldNow := c.heldNext, heldNext := [], pace := false,
      sentComplete := false }) with
    grants := s.grants ++ ((c.heldNow.filter (heldTask s)).map fun w => ⟨w.1, c.ctx.toNat, w.2, (match s.task w.1 with | some t => t.taskIndex | none => 0), none, false, c.home.toNat⟩) }

/-- A generation with a tree port has been released in a context (R442). -/
def noteTree (slot : Nat) (s : State) : State :=
  let c := s.slot slot
  if c.treePorts.isEmpty then s else s.modSeal c.ctx.toNat fun x => { x with treeReleased := true }

/-- Release of the generation, passed to the children with release(g) or release2(g). -/
def releaseSlot (slot wave : Nat) (s : State) : State :=
  finishGeneration slot (noteTree slot (sendChildren slot wave s))

/-- Every child has reported closed: the node reports it, or releases as the root. -/
def closedUp (slot : Nat) (s : State) : State :=
  let c := s.slot slot
  if c.childrenDone < c.childPorts.length then s
  else if c.hasParent then
    (sendParent slot 3 s).modSlot slot fun c => { c with state := .waitRelease2 }
  else releaseSlot slot 4 s

/-- close(g): passed down, and the member's rounds close (R282, R340). -/
def closeDown (slot : Nat) (s : State) : State :=
  let c := s.slot slot
  let s1 := closeRounds c.ctx.toNat c.group (sendChildren slot 2 s)
  closedUp slot (s1.modSlot slot fun c => { c with childrenDone := 0, state := .closing })

/-- The generation completes here if every arrival and every child is in. -/
def tryComplete (slot : Nat) (s : State) : State :=
  let c := s.slot slot
  if !c.bound || c.state ≠ .counting || c.arrived ≠ c.expected.toNat || c.childrenDone < c.childPorts.length then s
  else
    let s1 := s.modSlot slot fun c => { c with childrenDone := 0, sentComplete := c.hasParent }
    if c.hasParent then (sendParent slot 0 s1).modSlot slot fun c => { c with state := .waitParent }
    else if c.merge then closeDown slot s1 else releaseSlot slot 1 s1

/-- A slot moves on as far as it can: after a release, the next generation may be complete already (R341). -/
def settleSlot (slot : Nat) (s : State) : State := tryComplete slot (tryComplete slot s)

/-- A batch of arrivals reaches the home node: those the generation still expects count toward it, the others toward
the next (R340, R341). -/
def countBatch (slot die : Nat) (s : State) : State :=
  let c := s.slot slot
  let batch := c.pendingDie.filter fun w => Who.die w.1 = die
  let room := if c.state = .counting then c.expected.toNat - c.arrived else 0
  settleSlot slot (s.modSlot slot fun c => { c with
    pendingDie := c.pendingDie.filter fun w => Who.die w.1 ≠ die
    arrived := c.arrived + min room batch.length
    ahead := c.ahead + (batch.length - room)
    heldNow := c.heldNow ++ batch.take room
    heldNext := c.heldNext ++ batch.drop room })

/-! ### Breaks (R342) -/

/-- A slot breaks: break(g) goes out on its tree ports but the one it came from, and its held tasks end with OWNER_LOST.
`spare` says that the tasks end by an ABORT or reset of their own context. -/
def breakSlot (slot : Nat) (came : Option Nat) (spare : Bool) (s : State) : State :=
  let c := s.slot slot
  if !c.bound || c.state = .broken then s
  else
    let held := c.held.filter (heldTask s)
    let s1 := (c.treePorts.filter fun p => some p ≠ came).foldl (fun (x : State) p => sendCheck slot p 5 x) s
    let s2 := s1.modSlot slot fun c => { c with state := .broken, heldNow := [], heldNext := [], pendingDie := [], pace := false }
    let s3 := syncRecord c.group.toNat true c.ctx.toNat 4 held.length
      { s2 with tl := { s2.tl with broken := satAdd top48 s2.tl.broken 1 } }
    if spare then s3 else held.foldl (fun (x : State) w => endParcel c.ctx.toNat w.2 7 0 x) s3

/-- Breaks every bound slot that `sel` picks. -/
def breakSlots (sel : CheckSlot → Bool) (came : Option Nat) (spare : Bool) (s : State) : State :=
  ((s.slots.filter fun e => e.2.bound && sel e.2).map (·.1)).foldl (fun (x : State) n => breakSlot n came spare x) s

/-- A port of the tree goes down or is fenced (R342, R368). -/
def breakPort (p : Nat) (s : State) : State := breakSlots (fun c => c.treePorts.contains p) none false s

/-! ### Commands -/

/-- ARRIVE (R339, R341). -/
def execArrive (t : Who) (g : Guard) (imm : W32) (s : State) : Out :=
  releasing t g (fun x s =>
    match slotOf s imm x.ctx with
    | none => failParcel x.ctx x.hostSeq (some t) x.pc (Who.die t) (.violation 5 4 (0xE800000000000000 + imm.toNat)) s
    | some (n, c) =>
      if c.state = .broken then endParcel x.ctx x.hostSeq 7 0 s
      else
        let s1 := (s.setTask t { x.advance with status := .arriveHeld }).modSlot n fun c =>
          { c with pendingDie := c.pendingDie ++ [(t, x.hostSeq)] }
        if c.pace || (s.ctx x.ctx).regs.holdTicks = 0 then desched t .arriveDesched s1 else s1) s

/-- ARRIVAL_BATCH (R340). -/
def execArrivalBatch (slot die : Nat) (s : State) : Out :=
  let c := s.slot slot
  if s.active && c.bound && c.state ≠ .broken && (c.pendingDie.any fun w => Who.die w.1 = die)
  then go (countBatch slot die s) else go s

/-- A bind is refused (R338). -/
def bindRefused (s : State) (slot : Nat) : Bool :=
  let c := s.slot slot
  c.bound || decide (2048 < c.expected.toNat) || (slotOf s c.group c.ctx.toNat).isSome
    || (c.hasParent && c.children.getLsbD c.parent.toNat) || (c.expected = 0 && c.children = 0)

/-- A write of TL_G_CTL.bind. -/
def bindSlot (slot : Nat) (s : State) : State :=
  let n := slot % 4096
  if bindRefused s n then s.modSlot n fun c => { c with refused := true }
  else s.modSlot n fun c => { c with
    bound := true, refused := false, arrived := 0, ahead := 0, pendingDie := [], childrenDone := 0, generation := 0,
    state := .counting, completions := 0, heldNow := [], heldNext := [], pace := false, sentComplete := false }

/-- CHECK_SLOT_BIND (R338). -/
def execCheckSlotBind (slot : Nat) (s : State) : Out := hostAccess (.checkSlotBind slot) (bindSlot slot) s

/-- Unbinds a slot; a task held in it breaks the group first (R342). -/
def unbindSlot (n : Nat) (s : State) : State :=
  let c := s.slot n
  let s1 := if c.held.any (heldTask s) then breakSlot n none false s else s
  s1.modSlot n fun c => { c with
    bound := false, state := .counting, arrived := 0, ahead := 0, childrenDone := 0, pendingDie := [], heldNow := [], heldNext := [],
    pace := false, sentComplete := false }

/-- A write of TL_G_CTL.unbind. -/
def unbindAny (slot : Nat) (s : State) : State :=
  let n := slot % 4096
  if (s.slot n).bound then unbindSlot n s else s

/-- CHECK_SLOT_UNBIND (R338, R342). -/
def execCheckSlotUnbind (slot : Nat) (s : State) : Out := hostAccess (.checkSlotUnbind slot) (unbindAny slot) s

/-- What a check flit of a wave does to its slot when it arrives on a port (R340, R342). Waves from the wrong side of the
tree, of another generation, or that the slot does not wait for, answer none: they are discarded (log entry 27). -/
def checkWave (slot port wave : Nat) (gen : W32) (s : State) : Option State :=
  let c := s.slot slot
  let child := c.children.getLsbD port && decide (port < 32)
  let parent := c.hasParent && c.parent.toNat = port
  if wave = 5 then if child || parent then some (breakSlot slot (some port) false s) else none
  else if c.state = .broken then if child || parent then some s else none
  else if gen.toNat ≠ c.generation % 2 ^ 32 then none
  else
    match wave with
    | 0 => if child && c.state = .counting then
        some (settleSlot slot (s.modSlot slot fun c => { c with childrenDone := c.childrenDone + 1 }))
      else none
    | 1 => if parent && c.state = .waitParent && !c.merge then some (settleSlot slot (releaseSlot slot 1 s)) else none
    | 2 => if parent && c.state = .waitParent && c.merge then some (settleSlot slot (closeDown slot s)) else none
    | 3 => if child && c.state = .closing then
        some (settleSlot slot (closedUp slot (s.modSlot slot fun c => { c with childrenDone := c.childrenDone + 1 })))
      else none
    | 4 => if parent && c.state = .waitRelease2 then some (settleSlot slot (releaseSlot slot 4 s)) else none
    | _ => none

/-! ### Pace notices (R371) -/

/-- The hold window of a slot becomes zero: its held tasks are descheduled, and later ones at issue. -/
def startPace (slot : Nat) (s : State) : State :=
  ((s.slot slot).held.filter fun w => match s.task w.1 with
      | some t => t.hostSeq = w.2 && t.status = .arriveHeld
      | none => false).foldl (fun (x : State) w => desched w.1 .arriveDesched x)
    (s.modSlot slot fun c => { c with pace := true })

/-- PACE_NOTICE_EXPIRY (R371). -/
def execPaceNoticeExpiry (slot : Nat) (s : State) : Out :=
  go (s.modSlot (slot % 4096) fun c => { c with pace := false })

end Sys2Proof.Machine
end

