-- ==== Sys2Proof/Machine/Port.lean ====
section
/-! DEFINITION. The states of a link port and its bundle: going down, retraining, replaying and acknowledging
(13_utgor_links.md R352 to R363, R365). -/

namespace Sys2Proof.Machine

open Sys2Proof

/-- Compute die that holds a port: four on each (13_utgor_links.md, example of R367). -/
def portDie (p : Nat) : Nat := p / 4

/-- Serial comparison of 12-bit link sequence numbers: a precedes b (R359). -/
def precedes12 (a b : BitVec 12) : Bool := a ≠ b && (b - a).toNat < 2 ^ 11

/-! ### Bundles (R365) -/

/-- Bundles whose live ports or weights differ between two states stop sending. -/
def stopChanged (before after : State) : State :=
  let changed := (List.range 8).filter fun b =>
    before.links.livePorts b ≠ after.links.livePorts b && !after.links.stopped.contains b
  { after with links := { after.links with stopped := after.links.stopped ++ changed } }

/-- Changes a port, and stops the bundles that this changes. -/
def changePort (p : Nat) (f : Port → Port) (s : State) : State := stopChanged s (s.modPort p f)

/-- Sends an acknowledgement. -/
def sendAck (p : Nat) (s : State) : State := sendControl p 0 (s.port p).lastIn.toNat s

/-! ### Going down and retraining (R352, R361, R362) -/

/-- A port goes down: its flits are lost, its groups break, its bundle changes, and a link record is written for every
cause but a disabling write. Cause 5 leaves it fenced. -/
def portDown (p cause : Nat) (s : State) : State :=
  let x := s.port p
  if x.state = .fenced || (x.state = .down && cause ≠ 5) then s
  else
    let s1 := changePort p (fun x => { x.stopped with state := if cause = 5 then .fenced else .down, downCause := cause }) s
    let s2 := breakPort p (freeHeld x.waiting s1)
    if cause = 6 then s2
    else report { Spill.of 0xD (portDie p) 1 with
      kind := 7, index := p, detail0 := BitVec.ofNat 64 cause, detail1 := x.peerAddr.zeroExtend 64 } s2

/-- Ticks of one second of a die's interval timer. -/
def oneSecond : Nat := 100000000

/-- A port retrains, keeping its version, width and replay buffer. The answer says that its budget is used up: a third
retrain within one second (R361). -/
def retrain (p : Nat) (s : State) : State × Bool :=
  let (t, s1) := readTimer (portDie p) s
  let recent := (s1.port p).retrains3.filter fun k => t - k < oneSecond
  (changePort p (fun x => { x with
    state := .retrain, retrained := satAdd top48 x.retrained 1, retrains3 := recent ++ [t] }) s1, decide (2 ≤ recent.length))

/-! ### Acknowledging and replaying (R360, R361) -/

/-- Frees the flits up to a number. -/
def Port.acked (p : Port) (seq : BitVec 12) : Port :=
  let held := p.replay.map fun e => e.1
  if held.contains seq then { p with replay := p.replay.filter fun e => precedes12 seq e.1 } else p

/-- The flits up to a number have arrived: what waited for their room is sent. -/
def ackPort (port : Nat) (seq : BitVec 12) (s : State) : State := drainPort port (s.modPort port fun x => x.acked seq)

/-- Replays the buffer from a number on, with the acknowledgement of now. The answer says that a flit has been sent 16 times. -/
def Port.replayFrom (p : Port) (seq : BitVec 12) : Port × Bool :=
  let again := fun (e : BitVec 12 × Flit × Nat) => !precedes12 e.1 seq
  let n := (p.replay.filter again).length
  let r := p.replay.map fun e => if again e then (e.1, { e.2.1 with ack := p.lastIn }, e.2.2 + 1) else e
  ({ p with replay := r, replayed := satAdd top48 p.replayed n }, r.any fun e => decide (16 ≤ e.2.2))

/-- Oldest unacknowledged number. -/
def Port.oldest (p : Port) : BitVec 12 :=
  match p.replay with
  | [] => p.txSeq
  | e :: _ => e.1

/-! ### Receiving (R358, R360, R363) -/

/-- R358 accepts a header: the port's version, a kind that is not reserved, which at version 1 a kind marked level 2 is, and
reserved fields of zero. -/
def headOk (p : Port) (h : FlitHead) (level2 : Bool) : Bool :=
  h.reservedOk && h.version = p.version && decide (h.kind < 7) && (!level2 || p.version = 2)

/-- Counts flits discarded as bad. -/
def badFlits (p n : Nat) (s : State) : State := s.modPort p fun x => { x with badFlit := satAdd top48 x.badFlit n }

/-- What a trailer acknowledges is free (R356). -/
def takeAck (port : Nat) (h : FlitHead) (s : State) : State :=
  match h.ack with
  | some a => ackPort port a s
  | none => s

/-- Virtual channel of a class and a vc (R363). -/
def channelOf (cls : Nat) (vc : Bool) : Nat := 2 * cls + b2n vc

/-- How many of a message's n flits a command brings, of those still to come on its channel. -/
def headBrings (h : FlitHead) (had n : Nat) : Nat := max 1 (min h.count (n - had))

/-- Receives flits of a message of n flits of a class, whose head is h. In order they are accepted, and with the last of them `f`
takes the message's effect; flits with a bad head are discarded, and their message with them. Ahead of order they draw one nak;
duplicates are acknowledged. The buffer place of a flit is free once it is accepted, or once it has left the module where it is
not for this one (`here`). A flit of a reserved kind that has no number is only counted. -/
def receive (port : Nat) (h : FlitHead) (cls : Nat) (level2 : Bool) (n : Nat) (here : Bool) (f : State → State) (s : State) :
    State :=
  let p := s.port port
  if !s.active || p.state ≠ .active then s
  else
    let s0 := takeAck port h s
    if 7 ≤ h.kind && !h.sequenced then badFlits port 1 s0
    else if h.seq = p.rxNext then
      let ch := channelOf cls h.vc
      let had := p.got.get 0 ch
      let k := headBrings h had n
      let ok := headOk p h level2
      let whole := decide (n ≤ had + k)
      let next := p.rxNext + BitVec.ofNat 12 k
      let s1 := s0.modPort port fun x => { x with
        rxNext := next, nakSent := false, got := if ok && !whole then x.got.put ch (had + k) else x.got.del ch }
      let s2 := sendCredit port ch (if here then k else if ok then 0 else had + k) s1
      let s3 := if p.rxNext.toNat / 32 = next.toNat / 32 then s2 else sendAck port s2
      if ok then
        let s4 := s3.modPort port fun x => { x with rx := satAdd top48 x.rx k }
        if whole then f s4 else s4
      else badFlits port k s3
    else if precedes12 p.rxNext h.seq then
      if p.nakSent then s0
      else sendControl port 1 p.rxNext.toNat (s0.modPort port fun x => { x with nakSent := true })
    else sendAck port s0

/-- A message in transit takes its next hop with its class; its flits keep their places here until they have left (R363, R364,
R366). -/
def transit (port : Nat) (f : Flit) (s : State) : State :=
  let f := { f with held := some (port, f.channel) }
  match s.links.hop f.dst with
  | .bundle b crosses =>
    let same := match s.links.bundleOf port with
      | some a => decide (a / 2 = b / 2)
      | none => false
    match sendBundle b { f with vc := crosses || (same && f.vc) } s with
    | some s' => { s' with links := { s'.links with transit := satAdd top48 s'.links.transit (f.payload.flits) } }
    | none => unroutable f s
  | _ => unroutable f s

/-- A routed message of a class: delivered to `f`, or passed on. -/
def routed (port : Nat) (h : FlitHead) (cls : Nat) (pl : Payload) (f : State → State) (s : State) : State :=
  let here := s.links.here h.dst
  receive port h cls false pl.flits here (fun s =>
    if here then f s
    else transit port { Flit.first cls h.dst h.src h.tag h.context pl with vc := h.vc } s) s

end Sys2Proof.Machine
end

