-- ==== Sys2Proof/Machine/Fence.lean ====
section
/-! DEFINITION. Charges, fences, the fence list, hard failure and in-field tests
(16_faults_recovery.md R426, R431, R448 to R453; 01_module.md R21; 13_utgor_links.md R374). -/

namespace Sys2Proof.Machine

open Sys2Proof

/-! ### Units (Table 16.1) -/

/-- Number of units of a kind; 0 for kinds that no request may name (R451). Clock domains are counted by row of
Table 2.2 from 0, and an index must name an instance of its row. -/
def unitExists (kind index : Nat) : Bool :=
  match kind with
  | 1 => decide (index < 512)
  | 2 => decide (index < 32)
  | 3 => decide (index < 72)
  | 4 => decide (index < 2)
  | 5 => decide (index < 2)
  | 6 => decide (index < 8)
  | 7 => decide (index < 32)
  | 8 => decide (index < 112)
  | 9 => decide (index < 2 ^ 24)
  | 10 => decide (index < 512)
  | 11 => decide (index < 2 ^ 26)
  | 12 => decide (index < 64)
  | 14 => decide (index < 32)
  | 15 => decide (index % 256 < ([1, 64, 32, 32, 28, 1] : List Nat).getD (index / 256) 0)
  | _ => false

/-- The unit is fenced (R449). A UCIe module counts as fenced once it is fenced whole (R21). -/
def unitFenced (s : State) (kind index : Nat) : Bool :=
  match kind with
  | 1 => (s.core index).fenced
  | 2 => s.sm.fenced.getLsbD index
  | 3 => if index < 64 then s.sl.fenced.getLsbD index else s.sl.fencedIo.getLsbD (index - 64)
  | 4 => s.sl.decompFenced.getLsbD index
  | 5 => s.merge.fenced.getLsbD index
  | 6 => s.dg.fenced.getLsbD index
  | 7 => decide ((s.port index).state = .fenced)
  | 8 => decide (s.fence.ucie.get 0 index = 3)
  | 9 => s.mt.framesNear.contains index || (s.mt.fenceNear.get 0 (index / 2 ^ 21)).getLsbD (index / 2 ^ 15 % 64)
  | 10 => (s.mt.fenceNear.get 0 (index / 64)).getLsbD (index % 64)
  | 11 => s.mt.framesFar.contains index || s.mt.fenceFar.getLsbD (index / 2 ^ 20)
  | 12 => s.mt.fenceFar.getLsbD index
  | 14 => s.mt.fenceFlash.getLsbD index
  | _ => listed s kind index

/-- Pseudo-channel of a near frame, and channel of a far frame (R295). -/
def frameBank (kind frame : Nat) : Nat := if kind = 9 then frame / 2 ^ 15 else frame / 2 ^ 20

/-- Frames of a bank fenced singly. -/
def singles (s : State) (kind bank : Nat) : Nat :=
  ((if kind = 9 then s.mt.framesNear else s.mt.framesFar).filter fun f => frameBank kind f = bank).length

/-- Frames that fencing a unit takes from MT_AVAIL (R304, Table 16.3). -/
def framesRemoved (s : State) (kind index : Nat) : Nat :=
  match kind with
  | 9 => 1
  | 10 => 32768 - singles s 9 index
  | 11 => 1
  | 12 => 0xFBF00 - singles s 11 index
  | _ => 0

/-! ### Recording (R449, R450) -/

/-- Appends to the fence list. -/
def listFence (kind index cause : Nat) (s : State) : State :=
  if listed s kind index then s
  else { s with keeper := { s.keeper with fenceList := s.keeper.fenceList ++ [⟨kind, index, cause⟩] } }

/-- The list entry and the fence-class record of a fence, written by the keeper. -/
def recordFence (kind index cause frames : Nat) (s : State) : State :=
  report { Spill.of 1 8 2 with
    kind := kind, index := index, detail0 := BitVec.ofNat 64 cause, detail1 := BitVec.ofNat 64 frames }
    (listFence kind index cause s)

/-! ### Hard failure (R453) -/

/-- Parcel types that a hard failure spares: QUERY and TALLY_DUMP (Table 3.5). -/
def sparedKind (kind : Byte) : Bool := kind = 4 || kind = 7

/-- The module fails hard: from then on parcels complete with FENCED_RESOURCE. Its record is of severity 3 and so of no class whose
records are all of another severity (R428, R453; log entry 30). -/
def hardFail (cause : Nat) (s : State) : State :=
  if s.log.failed then s
  else
    let s1 := report (Spill.of 0 8 3)
      { s with log := { s.log with failed := true, failCause := cause } }
    let ps := s1.ctxs.flatMap fun e => (e.2.parcels.filter fun p => !sparedKind p.kind).map fun p => (e.1, p.hostSeq)
    ps.foldl (fun (x : State) p => endParcel p.1 p.2 13 0 x) s1

/-- Every UCIe module of an edge is fenced whole (R21). -/
def edgeDead (s : State) (edge : Nat) : Bool := (List.range 8).all fun u => s.fence.ucie.get 0 (8 * edge + u) = 3

/-! ### The effects of a fence on its unit -/

/-- The next far channel in service after c, wrapping, that can hold a ring part (R431). -/
def nextChannel (s : State) (c : Nat) : Option Nat :=
  ((List.range 63).map fun i => (c + 1 + i) % 64).find? fun k => !s.mt.fenceFar.getLsbD k && !s.inBist 12 k

/-- Channel whose keeper area holds ring part p (R431). -/
def ringChannel (s : State) (p : Nat) : Nat := s.log.ringHome.get p p

/-- Far address of ring part p (R296, R431). A moved part lies from 2 MiB up in the area it moved to (log entry 36). -/
def ringBase (s : State) (p : Nat) : Nat :=
  let c := ringChannel s p
  c * 2 ^ 36 + 0xFFF000000 + (if c = p then 0 else 0x200000 + 65536 * p)

/-- Unconsumed records that lie in ring part p. -/
def ringHeld (s : State) (p : Nat) : Nat :=
  let n := min 65536 (s.log.head - s.log.tail).toNat
  ((List.range n).filter fun i => (s.log.head.toNat + 2 ^ 32 - 1 - i) % 65536 / 1024 = p).length

/-- Moves the ring parts that a far channel holds to the next unfenced one. Their records are lost, unless the keeper
moves them off first (R452). -/
def moveRing (c : Nat) (keep : Bool) (s : State) : State :=
  match nextChannel s c with
  | none => s
  | some k =>
    ((List.range 64).filter fun p => ringChannel s p = c).foldl (fun (x : State) p =>
      let old := Memory.bytes (if keep then x.mem.far else []) (ringBase x p) (if keep then 65536 else 0)
      let y := { x with log := { x.log with
        ringHome := x.log.ringHome.put p k
        ringLost := satAdd top48 x.log.ringLost (if keep then 0 else ringHeld x p) } }
      { y with mem := { y.mem with
        far := Memory.write y.mem.far (ringBase y p) (if keep then old else List.replicate 65536 0) } }) s

/-- The map part of a far channel is lost, and the FTL rebuilds it (R315). -/
def loseMap (c : Nat) (s : State) : State :=
  { s with mt := { s.mt with mapFence := s.mt.mapFence ||| BitVec.twoPow 64 c, rebuilding := true } }

/-- An engine of the same die in service, for the undecided positions of a fenced one (R191). -/
def otherEngine (s : State) (e : Nat) : Nat :=
  let first := if e < 64 then e / 8 * 8 else 64 + (e - 64) / 4 * 4
  let n := if e < 64 then 8 else 4
  (((List.range n).map (first + ·)).find? fun k => !unitFenced s 3 k && !s.inBist 3 k).getD e

/-- A tag is one of an engine's reads that are not abandoned. -/
def Tag.readBy (t : Tag) (e : Nat) : Bool :=
  match t.use with
  | .engine _ u _ => decide (u = e) && !t.abandoned
  | _ => false

/-- Moves the undecided positions of an engine to another, which sends their reads anew as far as its own bounds let it (R156,
R191). -/
def moveEngine (e : Nat) (s : State) : State :=
  let k := otherEngine s e
  let out := fun (p : Position) => s.tags.any fun t => decide (t.tag = p.tag) && t.readBy e
  lateReads { s with
    ops := s.ops.map fun o => { o with openPos := o.openPos.map fun p =>
      if p.unit = e then { p with unit := k, issued := p.issued && !out p } else p }
    tags := s.tags.filter fun t => !t.readBy e }

/-- Every digest engine is out of service. -/
def noDigest (s : State) : Bool := (List.range 8).all fun d => s.dg.fenced.getLsbD d || s.inBist 6 d

/-- The last digest engine is gone: every committed seal lapses (R440). -/
def lapseAll (s : State) : State :=
  if noDigest s then
    ((s.ctxs.filter fun e => e.2.sealed.state = .sealed || e.2.sealed.state = .dirty
        || e.2.sealed.state = .replaying).map (·.1)).foldl (fun (x : State) c => lapse c 4 0 x) s
  else s

/-- Sets the fenced bit of a unit and takes it out of service (R449, steps 1, 2 and 4). -/
def takeOut (kind index : Nat) (s : State) : State :=
  match kind with
  | 1 => s.modCore index fun c => { c with fenced := true }
  | 2 => { s with sm := { s.sm with fenced := s.sm.fenced ||| BitVec.twoPow 32 index } }
  | 3 => moveEngine index { s with sl := { s.sl with
      fenced := if index < 64 then s.sl.fenced ||| BitVec.twoPow 64 index else s.sl.fenced
      fencedIo := if index < 64 then s.sl.fencedIo else s.sl.fencedIo ||| BitVec.twoPow 8 (index - 64) } }
  | 4 => { s with sl := { s.sl with decompFenced := s.sl.decompFenced ||| BitVec.twoPow 2 index } }
  | 5 => { s with merge := { s.merge with fenced := s.merge.fenced ||| BitVec.twoPow 2 index } }
  | 6 => lapseAll { s with dg := { s.dg with fenced := s.dg.fenced ||| BitVec.twoPow 8 index } }
  | 7 => portDown index 5 s
  | 8 => { s with fence := { s.fence with ucie := s.fence.ucie.put index 3 } }
  | 9 => { s with mt := { s.mt with framesNear := s.mt.framesNear ++ [index] } }
  | 10 => { s with mt := { s.mt with
      fenceNear := s.mt.fenceNear.put (index / 64) (s.mt.fenceNear.get 0 (index / 64) ||| BitVec.twoPow 64 (index % 64)) } }
  | 11 => { s with mt := { s.mt with framesFar := s.mt.framesFar ++ [index] } }
  | 12 => loseMap index (moveRing index false { s with mt := { s.mt with
      fenceFar := s.mt.fenceFar ||| BitVec.twoPow 64 index } })
  | 14 => { s with mt := { s.mt with
      fenceFlash := s.mt.fenceFlash ||| BitVec.twoPow 32 index, capSectors := s.mt.capSectors * 31 / 32 } }
  | _ => s

/-- A fence runs to its end: the unit goes out of service, the list and the record follow, and the last UCIe module of an
edge makes the module fail hard (R449, R453). -/
def finishFence (kind index cause : Nat) (s : State) : State :=
  let s1 := recordFence kind index cause (framesRemoved s kind index) (takeOut kind index s)
  if kind = 8 && edgeDead s1 (index / 8) then hardFail 1 s1 else s1

/-- The fence of a unit that is no frame and no clock domain. A core with tasks waits to be emptied (R110, R343, R449). -/
def fenceUnit (kind index cause : Nat) (s : State) : State :=
  if unitFenced s kind index then s
  else if kind = 1 && !(s.coreTasks index).isEmpty then
    if s.fence.waiting.any fun w => decide (w.1 = 1) && decide (w.2.1 = index) then s
    else { s with fence := { s.fence with waiting := s.fence.waiting ++ [(kind, index, cause)] } }
  else finishFence kind index cause s

/-- Fencing a clock domain fences the unit that it clocks; the domain of PCIe or of a UCIe edge end makes the module fail
hard, and the keeper's falls back to its fast oscillator (R47, R449, R453). -/
def fenceClock (index cause : Nat) (s : State) : State :=
  if listed s 15 index then s
  else
    let s1 := recordFence 15 index cause 0 s
    let i := index % 256
    match index / 256 with
    | 0 => hardFail 3 s1
    | 1 => fenceUnit 12 i cause s1
    | 2 => fenceUnit 14 i cause s1
    | 3 => fenceUnit 7 i cause s1
    | 4 => (List.range 8).foldl (fun (x : State) u => fenceUnit 8 (8 * (i / 2) + u) cause x) (hardFail 4 s1)
    | _ => { s1 with power := { s1.power with keeperPll := false } }

/-- Fences a unit: a frame whose pseudo-channel holds three fenced frames, or whose channel holds fifteen, fences that
instead (R448). -/
def applyFence (kind index cause : Nat) (s : State) : State :=
  if unitFenced s kind index then s
  else
    match kind with
    | 9 => if 3 ≤ singles s 9 (frameBank 9 index) then fenceUnit 10 (frameBank 9 index) 2 s else fenceUnit 9 index cause s
    | 11 => if 15 ≤ singles s 11 (frameBank 11 index) then fenceUnit 12 (frameBank 11 index) 2 s
        else fenceUnit 11 index cause s
    | 15 => fenceClock index cause s
    | 16 => hardFail 2 (recordFence 16 index cause 0 s)
    | _ => fenceUnit kind index cause s

/-- Fences that waited for a core end once it holds no task. -/
def settleFences (s : State) : State :=
  let ready := s.fence.waiting.filter fun w => (s.coreTasks w.2.1).isEmpty
  ready.foldl (fun (x : State) w => finishFence w.1 w.2.1 w.2.2 x)
    { s with fence := { s.fence with waiting := s.fence.waiting.filter fun w => !(s.coreTasks w.2.1).isEmpty } }

/-- A fence of the core waits: no further work is dealt to it. -/
def fencePending (s : State) (core : Nat) : Bool := s.fence.waiting.any fun w => decide (w.1 = 1) && decide (w.2.1 = core)

/-- A core that may be given tasks (R110, R449, R452, R456). -/
def coreUsable (s : State) (core : Nat) : Bool :=
  decide (core < 512) && !(s.core core).fenced && !fencePending s core && !s.inBist 1 core && !(s.die (core / 64)).resetting

/-! ### Charges (R448) -/

/-- Charges of a unit. -/
def chargesOf (s : State) (kind index : Nat) : Nat :=
  (s.fence.charges.filter fun c => decide (c.1 = kind) && decide (c.2.1 = index)).length

/-- A block of flash is retired: its readable sectors are moved, the reserve shrinks by the block, whose size the spec does
not give, and its channel is fenced once 600 of its blocks are retired (R313, R314, R317, Table 16.1; log entries 35
and 16). -/
def retireBlock (channel block : Nat) (s : State) : State :=
  if s.mt.retired.contains (channel, block) then s
  else
    let s1 := { s with freeCount := s.freeCount + 1, mt := { s.mt with
      retired := s.mt.retired ++ [(channel, block)], grown := s.mt.grown + 1
      reserve := s.mt.reserve - (Config.freeWord s.freeCount 1).toNat } }
    let s2 := if 312500000 ≤ s.mt.reserve && s1.mt.reserve < 312500000 then raiseAlert s1 else s1
    if 600 ≤ (s2.mt.retired.filter fun b => b.1 = channel).length then applyFence 14 channel 2 s2 else s2

/-- Units whose charges are due: a flash block at its first, any other at its third (Table 16.1). -/
def dueUnits (s : State) : List (Nat × Nat) :=
  ((s.fence.charges.map fun c => (c.1, c.2.1)).dedup).filter fun u =>
    decide ((if u.1 = 13 then 1 else 3) ≤ chargesOf s u.1 u.2)

/-- The keeper acts on a due charge: a flash block is retired, and any other unit is fenced. -/
def settleCharge (s : State) (u : Nat × Nat) : State :=
  if u.1 = 13 then
    retireBlock (u.2 / 2 ^ 24) (u.2 % 2 ^ 24) { s with fence := { s.fence with
      charges := s.fence.charges.filter fun c => !(decide (c.1 = 13) && decide (c.2.1 = u.2)) } }
  else applyFence u.1 u.2 (if u.1 = 16 then 6 else 1) s

/-- The keeper acts on every due charge. Those that a task's own read or a headgate parcel's brought wait for this until the
next drain of the staging buffers (R429, R449; log entry 50). -/
def settleCharges (s : State) : State := (dueUnits s).foldl settleCharge s

/-- Charges a unit, which is fenced at its third charge. -/
def charge (kind index : Nat) (s : State) : State := settleCharges (addCharge kind index s)

/-- DG_STEPS advances, and charges that it has left 1,024 behind are dropped. -/
def nextStep (s : State) : State :=
  let n := satAdd top48 s.dg.steps 1
  { s with dg := { s.dg with steps := n }, fence := { s.fence with
      charges := s.fence.charges.filter fun c => n - c.2.2 < 1024 } }

/-- MODULE_STEP (R448). A second of IOD0's oscillator has passed in which no seal committed. -/
def execModuleStep (s : State) : Out := go (nextStep (settleCharges s))

/-- A port goes down, and causes 3 and 4 charge it (R362). -/
def portFails (p cause : Nat) (s : State) : State :=
  let s1 := portDown p cause s
  if cause = 3 || cause = 4 then charge 7 p s1 else s1

/-! ### UCIe modules (R21) -/

/-- Lanes of a UCIe module fail: 0 full width, 1 on the lower half, 2 on the upper half, 3 fenced whole. The cause is that
of its fence-list entry (R450). -/
def ucieFail (index cause : Nat) (lanes : List Nat) (s : State) : State :=
  let low := lanes.any (· < 32)
  let high := lanes.any fun l => decide (32 ≤ l) && decide (l < 64)
  let narrow := fun (n : Nat) => recordFence 8 index cause 0 { s with fence := { s.fence with ucie := s.fence.ucie.put index n } }
  match s.fence.ucie.get 0 index with
  | 0 => if low && high then fenceUnit 8 index cause s else if low then narrow 2 else if high then narrow 1 else s
  | 1 => if low then fenceUnit 8 index cause s else s
  | 2 => if high then fenceUnit 8 index cause s else s
  | _ => s

/-- UCIE_LANE_FAILURE (R21). -/
def execUcieLaneFailure (edge unit : Nat) (lanes : List Nat) (s : State) : Out :=
  if edge < 14 && unit < 8 then go (ucieFail (8 * edge + unit) 5 lanes s) else go s

/-! ### Requests (R451, R452) -/

/-- A write of EL_FENCE.go. -/
def requestFence (kind index : Nat) (s : State) : State :=
  let s1 := { s with fence := { s.fence with
    fenceKind := BitVec.ofNat 8 kind, fenceIndex := BitVec.ofNat 32 index, fenceRefused := false } }
  if unitFenced s kind index || !unitExists kind index || !s.fence.waiting.isEmpty || s.fence.bistBusy then
    { s1 with fence := { s1.fence with fenceRefused := true } }
  else applyFence kind index 4 s1

/-- FENCE_REQUEST (R451). -/
def execFenceRequest (kind index : Nat) (s : State) : Out :=
  hostAccess (.fenceRequest kind index) (requestFence kind index) s

/-- Units with a row in Table 16.7. -/
def bistKind (kind : Nat) : Bool := (1 ≤ kind && kind ≤ 8) || kind = 10 || kind = 12 || kind = 14

/-- A write of EL_BIST.go. A port under test is down for routing, and breaks the groups that name it (R374); the ring part on
a far channel under test is moved off first, and the engines' work moves as for a fence. -/
def requestBist (kind index : Nat) (s : State) : State :=
  let refused := s.fence.bistBusy || !bistKind kind || !unitExists kind index
    || (kind = 12 && index < 8 && decide (0 < poolUsed s index))
  let s0 := { s with fence := { s.fence with bistKind := BitVec.ofNat 8 kind, bistIndex := BitVec.ofNat 32 index } }
  if refused then { s0 with fence := { s0.fence with bistResult := 3 } }
  else
    let s1 := { s0 with fence := { s0.fence with
      testKind := kind, testIndex := index, bistBusy := true, bistResult := 0 } }
    match kind with
    | 3 => moveEngine index s1
    | 6 => lapseAll s1
    | 7 => breakPort index (changePort index (fun p => if p.state = .fenced then p else { p.stopped with state := .down }) (freeHeld (s.port index).waiting s1))
    | 12 => moveRing index true s1
    | _ => s1

/-- BIST_REQUEST (R452). -/
def execBistRequest (kind index : Nat) (s : State) : Out :=
  hostAccess (.bistRequest kind index) (requestBist kind index) s

/-- What a test leaves in a memory it has tested: undefined contents read as memory that nothing has written (log entry 2). -/
def bistContents (kind index : Nat) (s : State) : State :=
  match kind with
  | 1 => s.modCore index fun c => { c with cistern := [] }
  | 10 => { s with mem := { s.mem with near := Memory.blit s.mem.near (index * 2 ^ 31) (2 ^ 31) [] } }
  | 12 => loseMap index { s with mem := { s.mem with far := Memory.blit s.mem.far (index * 2 ^ 36) (2 ^ 36) [] } }
  | _ => s

/-- BIST_COMPLETE (R21, R452). A core's test can end only once its tasks have been saved. A UCIe module that fails is fenced
by the lanes that failed, whole where none is named. A port trains again only on a locked clock (R47). -/
def execBistComplete (found : TestEnd) (s : State) : Out :=
  let passed := found.passed
  let lanes := found.lanes
  let kind := s.fence.testKind
  let index := s.fence.testIndex
  if !s.fence.bistBusy || (kind = 1 && !(s.coreTasks index).isEmpty) then go s
  else
    let s1 := bistContents kind index { s with fence := { s.fence with bistBusy := false, bistResult := if passed then 1 else 2 } }
    if unitFenced s kind index then go s1
    else if passed then
      if kind = 7 && (s1.port index).enable && clockGood s1 (768 + index) then go (s1.modPort index Port.detect) else go s1
    else if kind = 8 then go (ucieFail index 3 (if lanes.any (· < 64) then lanes else [0, 32]) s1)
    else go (applyFence kind index 3 s1)

end Sys2Proof.Machine
end

