-- ==== Sys2Proof/Machine/Moves.lean ====
section
/-! DEFINITION. Moving rows: HOTSET, MIGRATE and the phases of a move (10_embedding_tables.md R285 to R289). -/

namespace Sys2Proof.Machine

open Sys2Proof

/-! ### Starting a parcel of a kind -/

/-- Parcel type codes (Table 3.5). -/
def kRun : Byte := 1
def kCopy : Byte := 2
def kFence : Byte := 3
def kQuery : Byte := 4
def kAbort : Byte := 5
def kHotset : Byte := 6
def kTallyDump : Byte := 7
def kSeal : Byte := 8
def kReplay : Byte := 9
def kMigrate : Byte := 10

/-- Parcels of a context that go through its execution queue (R64, R65). -/
def queued (p : Parcel) : Bool := p.kind ≠ kQuery && p.kind ≠ kAbort

/-- A REPLAY of the context that has started and not finished (R445). -/
def replayParcel (s : State) (c : Nat) : Option Parcel :=
  (s.ctx c).parcels.find? fun p => p.kind = kReplay && p.progress ≠ .waiting

/-- The parcel may start as the context stands: none while its step is dirty, only those a replay feeds while one runs,
and none of a sequence above an unfinished ABORT (R69, R88, R443, R445). -/
def mayStart (s : State) (c : Nat) (p : Parcel) : Bool :=
  let x := s.ctx c
  !x.sealed.dirty && (if x.sealed.inReplay || (replayParcel s c).isSome then p.replayed else true)
  && !(x.parcels.any fun a => a.kind = kAbort && precedes32 a.hostSeq p.hostSeq)

/-- The parcel that starts next: the oldest that has not started, under the order of R69. A fed parcel of a replay runs
alone, so it waits for none of the others. -/
def nextParcel (s : State) (c : Nat) : Option Parcel :=
  let ps := (s.ctx c).parcels.filter queued
  let earlier := fun (p : Parcel) => (s.ctx c).parcels.filter fun q => !q.silent && precedes32 q.hostSeq p.hostSeq
  match ps.find? fun p => p.replayed && p.progress = .waiting with
  | some p => if mayStart s c p then some p else none
  | none =>
    match ps.find? fun p => p.progress = .waiting with
    | none => none
    | some p =>
      let alone := p.serial || p.kind = kFence || p.kind = kReplay || (earlier p).any fun q => q.kind = kFence
      if mayStart s c p && p.claimed.isNone && p.failure.isNone && (!alone || (earlier p).isEmpty) then some p else none

/-- Ends a parcel with a fault that no task caused (R82). -/
def parcelFault (c : Nat) (p : Parcel) (b : Bad) (s : State) : State := failParcel c p.hostSeq none 0 8 b s

/-- Starts the next parcel if it is of a kind. One that needs a part of the flash map that is missing waits at its start
(R315, R399). -/
def starting (c : Nat) (kind : Byte) (f : Parcel → State → Except Bad State) (s : State) : Out :=
  if !s.active then go s
  else
    match nextParcel s c with
    | none => go s
    | some p =>
      if p.kind = kind then
        let s1 := s.modParcel c p.hostSeq fun q => { q with progress := .started }
        match f p s1 with
        | .ok s' => go s'
        | .error .wait => go s
        | .error b => go (parcelFault c p b s1)
      else go s

/-- Count of a payload byte in the intake: the fault address of a payload field (R82; log entry 37). -/
def Parcel.payloadAt (p : Parcel) (i : Nat) : Nat := (p.first + 32 + i) % 2 ^ 32

/-! ### The move list (Tables 10.4 and 10.5) -/

/-- The move header. -/
def Parcel.moveHeader (p : Parcel) : Nat := leNat (p.payload.take 32)
def Parcel.moveCount (p : Parcel) : Nat := bitsN p.moveHeader 23 8
def Parcel.moveRecord (p : Parcel) : Nat := bitsN p.moveHeader 127 64
def Parcel.moveResult (p : Parcel) : Nat := bitsN p.moveHeader 191 128
/-- Payload byte of entry i. -/
def Parcel.entryByte (p : Parcel) (i : Nat) : Nat := (if p.kind = kMigrate then 32 else 64) + 32 * i
/-- Entries that the payload has room for. -/
def Parcel.entryRoom (p : Parcel) : Nat := if p.kind = kMigrate then 1 else 2 * (p.payload.length / 64 - 1)

/-- A move entry. -/
structure MoveEntry where
  op : Nat
  init : Bool
  writeback : Bool
  row : Nat
  dest : Nat
  deriving DecidableEq, Repr

def Parcel.entryWord (p : Parcel) (i : Nat) : Nat := leNat ((p.payload.drop (p.entryByte i)).take 32)
def moveEntryOf (w : Nat) : MoveEntry := ⟨bitsN w 1 0, bitN w 2, bitN w 3, bitsN w 55 8, bitsN w 127 64⟩
def Parcel.entry (p : Parcel) (i : Nat) : MoveEntry := moveEntryOf (p.entryWord i)

/-- Fields of an entry that R285 checks without a translation. -/
def entryOk (e : Emb) (w : Nat) : Bool :=
  let m := moveEntryOf w
  m.op ≠ 3 && bitsN w 7 4 = 0 && bitsN w 63 56 = 0 && bitsN w 255 128 = 0 && (m.op = 0 || !m.init)
    && (m.op = 1 || !m.writeback) && m.row < e.rows && e.owner m.row = e.rank
    && (if m.op = 1 then m.dest = 0 else m.dest % e.rowBytes = 0)

/-- A dest is mapped writable in the near or far tier (R285). -/
def destCheck (s : State) (c : Nat) (e : Emb) (m : MoveEntry) : Except Bad Unit :=
  if m.op = 1 then .ok ()
  else
    match range s c (Use.of 1 nearFar) m.dest e.rowBytes with
    | .ok _ => .ok ()
    | .error (.violation a 1 x) => .error (.violation a 0 x)
    | .error b => .error b

/-- The checks of R285 over the whole parcel. -/
def moveCheck (s : State) (c : Nat) (p : Parcel) : Except Bad Unit := do
  let h := p.moveHeader
  let bad := Bad.violation 0 4 p.moveRecord
  if mergeDown s then .error (.status 13 0) else .ok ()
  if bitsN h 3 0 ≠ 2 || bitsN h 7 4 ≠ 0 || bitsN h 63 24 ≠ 0 || bitsN h 255 192 ≠ 0 || p.moveResult % 8 ≠ 0
      || p.entryRoom < p.moveCount || (p.kind = kMigrate && p.moveCount ≠ 1)
      || (p.kind = kHotset && leNat ((p.payload.drop 32).take 32) ≠ 0)
    then .error bad else .ok ()
  let e ← embRead s c 0 p.moveRecord
  (List.range p.entryRoom).forM fun i =>
    let w := p.entryWord i
    let here := Bad.violation 0 4 (p.payloadAt (p.entryByte i))
    if p.moveCount ≤ i then (if w = 0 then .ok () else .error here)
    else if entryOk e w then destCheck s c e (moveEntryOf w)
    else .error here

/-- HOTSET and MIGRATE start with their checks. -/
def startMoves (c : Nat) (kind : Byte) (s : State) : Out :=
  starting c kind (fun p s => do
    moveCheck s c p
    return noteRecord c p.moveRecord s) s

/-- HOTSET (R285, R286). -/
def execHotset (ctx : Nat) (s : State) : Out := startMoves ctx kHotset s

/-- MIGRATE (R285, R286). -/
def execMigrate (ctx : Nat) (s : State) : Out := startMoves ctx kMigrate s

/-! ### One entry (R286, Tables 10.6 and 10.7) -/

/-- The parcel whose next entry is of an operation, oldest first. -/
def entryParcel (s : State) (c op : Nat) : Option Parcel :=
  (s.ctx c).parcels.find? fun p => (p.kind = kHotset || p.kind = kMigrate) && p.progress = .started && p.failure.isNone
    && p.entriesDone < p.moveCount && (p.entry p.entriesDone).op = op

/-- Writes an 8-byte result, if the parcel asks for results. -/
def putResult (c : Nat) (h : W32) (a code epoch : Nat) (s : State) : Except Bad State :=
  if a = 0 then .ok s else devWrite s (parcelWriter c h) useWrite a (leBytes 8 (code + 256 * (epoch % 256)))

/-- Address of entry i's result. -/
def Parcel.resultAt (p : Parcel) (i : Nat) : Nat := if p.moveResult = 0 then 0 else p.moveResult + 8 * i

/-- Writes a hot-set entry. -/
def putEntry (by' : Writer) (a : Nat) (bs : List Byte) (s : State) : Except Bad State := pageWrite s by' (Use.of 1 [.near]) a bs

/-- The reserve is too small for write-backs into flash (R314). -/
def reserveReadOnly (s : State) : Bool := decide (s.mt.reserve < 78125000)

/-- A write-back into flash while the reserve is read-only (R314). -/
def writebackStopped (s : State) (c cold : Nat) : Bool :=
  match translateMem s c (Use.of 1 anyTier) cold with
  | .ok (.flash, _) => reserveReadOnly s
  | _ => false

/-- An operation's code where it cannot run (Table 10.6), or the move that it starts: source, target, and the slot. -/
def planMove (s : State) (c : Nat) (e : Emb) (m : MoveEntry) :
    Except Bad (Except Nat (Option Nat × Option Nat × HotEntry)) := do
  halfCheck s (e.bucket m.row)
  let es ← readBucket s c e (e.bucket m.row)
  let hot := es.find? fun h => h.state ≠ 0 && h.row = m.row
  let cold ← coldHome s c e m.row
  match m.op, hot with
  | 0, some _ => return .error 3
  | 0, none =>
    match es.find? fun h => h.state = 0 with
    | none => return .error 1
    | some h => if cold.isNone && !m.init then return .error 4 else return .ok (cold, some m.dest, h)
  | _, none => return .error 2
  | 1, some h =>
    if !m.writeback then return .ok (some h.home, none, h)
    else if e.cold = 0 then return .error 4
    else
      noWindow s c (e.coldAddr m.row)
      if writebackStopped s c (e.coldAddr m.row) then return .error 3
      else return .ok (some h.home, some (e.coldAddr m.row), h)
  | _, some h => return .ok (some h.home, some m.dest, h)

/-- Epoch of a row that is in the hot set, or 0. -/
def rowEpoch (s : State) (c : Nat) (e : Emb) (row : Nat) : Nat :=
  match readBucket s c e (e.bucket row) with
  | .ok es => match es.find? fun h => h.state ≠ 0 && h.row = row with | some h => h.epoch | none => 0
  | .error _ => 0

/-- A row of a record is on the move (R286). -/
def rowBusy (s : State) (c record row : Nat) : Bool :=
  s.merge.moves.any fun m => m.ctx = c && m.record.toNat = record && m.row = row

/-- M1: the entry is marked moving, with its home and dest; an install fills the free entry it takes. A row that has no home
yet names its dest as its home (log entry 38). -/
def markMove (c : Nat) (p : Parcel) (e : Emb) (m : MoveEntry) (src dst : Option Nat) (h : HotEntry) (s : State) :
    Except Bad State := do
  let a := e.bucketAddr (e.bucket m.row) + 32 * h.slot
  let home := match src with | some x => x | none => m.dest
  let before ← pageRead s c (Use.of 0 [.near]) a 32
  let s1 ← putEntry (parcelWriter c p.hostSeq) a { h with row := m.row, state := 2, home := home, dest := dst.getD 0 }.bytes s
  let s2 ← if src.isNone then devWrite s1 (mergeWriter c) (Use.of 1 nearFar) m.dest (List.replicate e.rowBytes 0) else .ok s1
  return { s2 with merge := { s2.merge with
    nextMove := s2.merge.nextMove + 1
    moves := s2.merge.moves ++ [⟨s2.merge.nextMove, c, p.hostSeq, BitVec.ofNat 64 e.addr, m.row, a,
      src, dst, decide (m.op = 1), decide (m.op = 0), m.init, h.epoch, p.resultAt p.entriesDone, .copying,
      false, [], [], before⟩] } }

/-- The next move entry of a kind is taken: it starts its move, or is skipped with its code. An entry whose row is moving
waits (R286). -/
def takeEntry (c op : Nat) (s : State) : Out :=
  if !s.active then go s
  else
    match entryParcel s c op with
    | none => go s
    | some p =>
      let m := p.entry p.entriesDone
      if rowBusy s c p.moveRecord m.row then go s
      else
        let r : Except Bad State := do
          let e ← embRead s c 0 p.moveRecord
          match ← planMove s c e m with
          | .error code => putResult c p.hostSeq (p.resultAt p.entriesDone) code (rowEpoch s c e m.row) s
          | .ok (src, dst, h) => markMove c p e m src dst h s
        match r with
        | .ok s' => go (s'.modParcel c p.hostSeq fun q => { q with entriesDone := q.entriesDone + 1 })
        | .error b => go (parcelFault c p b s)

/-- INSTALL (R286). -/
def execInstall (ctx : Nat) (s : State) : Out := takeEntry ctx 0 s

/-- EVICT (R286). -/
def execEvict (ctx : Nat) (s : State) : Out := takeEntry ctx 1 s

/-- MOVE (R286). -/
def execMove (ctx : Nat) (s : State) : Out := takeEntry ctx 2 s

/-! ### Commit, drain and undoing (R287, R288) -/

def findMove (s : State) (id : Nat) : Option Move := s.merge.moves.find? fun m => m.id = id

def putMove (id : Nat) (f : Move → Move) (s : State) : State :=
  { s with merge := { s.merge with moves := s.merge.moves.map fun m => if m.id = id then f m else m } }

/-- The writer of a queued write is told that it was dropped, or that it failed: the flit's sender by a reply, a parcel of this
module by its count or its end. A task that is held for the write is named in the fault record. -/
def writeDropped (c : Nat) (q : QueuedWrite) (s : State) : State :=
  match q.head, q.hostSeq with
  | some h, _ => replyWrite h true s
  | none, some x => countDropped c x 1 s
  | none, none => s
def writeFailed (c : Nat) (q : QueuedWrite) (b : Bad) (s : State) : State :=
  match q.head, q.hostSeq with
  | some h, _ => ownerFails h b s
  | none, some x =>
    match q.who.bind fun w => ((s.task w).filter fun t => t.status = .storeHeld).map (w, ·) with
    | some (w, t) => failParcel c x (some w) (t.pc - 8) (Who.die w) b s
    | none => failParcel c x none 0 8 b s
  | none, none => unitFails c b s

/-- A queued direct write is applied at the row's home as it now stands, as one that arrives then (R279, R287). `moved` says
that this is not the home it was bound to. -/
def applyWrite (c : Nat) (e : Emb) (row : Nat) (moved : Bool) (s : State) (q : QueuedWrite) : State :=
  match directWrite ⟨c, q.hostSeq, q.who, none⟩ q.head e q.va row q.off q.bytes s with
  | .error b => writeFailed c q b s
  | .ok (s1, true) => writeDropped c q s1
  | .ok (s1, false) =>
    let s2 := { s1 with merge := { s1.merge with forwarded := satAdd top48 s1.merge.forwarded (b2n moved) } }
    match q.head with
    | some h => replyWrite h false s2
    | none => s2

/-- The queued direct writes and then the held updates of a move take effect, in their order, at the home that the row has once
the move is over (R287, R288). -/
def applyQueued (e : Emb) (m : Move) (phase : MovePhase) (s : State) : State :=
  let s1 := putMove m.id (fun x => { x with phase := phase, writes := [], updates := [] }) s
  let s2 := m.writes.foldl (applyWrite m.ctx e m.row (decide (phase = .draining))) s1
  wakeHeld (m.writes.map (·.who)) (m.updates.foldl (applyUpdate m.ctx e m.row) s2)

/-- The row's next epoch, in 8 bits (Table 10.2). -/
def Move.nextEpoch (m : Move) : Nat := (m.epoch + 1) % 256

/-- The 32 bytes that the commit writes: the target becomes the home, or the entry is emptied (Table 10.7, M3). -/
def Move.committed (m : Move) (slot : Nat) : List Byte :=
  (HotEntry.mk slot m.row m.nextEpoch (if m.evict then 0 else 1) (if m.evict then 0 else m.target.getD 0) 0).bytes

/-- How the target of a move is written: the write-back of an evict may reach any tier (R289, R300), a dest the near and far tiers
(R285). -/
def Move.targetUse (m : Move) : Use := Use.of 1 (if m.evict then anyTier else nearFar)

/-- M2: the row is copied to its target, or the target filled with zeros. -/
def copyRow (e : Emb) (m : Move) (s : State) : Except Bad State := do
  let by' := parcelWriter m.ctx m.hostSeq
  match m.target with
  | none => return s
  | some b =>
    let bs ← match if m.init then none else m.source with
      | some a => devReadNew s m.ctx useRead a e.rowBytes
      | none => .ok (List.replicate e.rowBytes 0)
    devWrite s by' m.targetUse b bs

/-- M2 and M3: the row is copied, the entry written, and what was queued is applied at the row's new home. Queued writes were
bound to the source, so each that is applied counts in EM_FORWARDED (R279). -/
def commitMove (m : Move) (s : State) : Except Bad State := do
  let e ← embRead s m.ctx 0 m.record.toNat
  let s1 ← copyRow e m s
  let s2 ← putEntry (parcelWriter m.ctx m.hostSeq) m.entry (m.committed 0) s1
  return applyQueued e m .draining s2

/-- MOVE_COMMIT (R287). -/
def execMoveCommit (move : Nat) (s : State) : Out :=
  match findMove s move with
  | none => go s
  | some m =>
    if !s.active || m.phase ≠ .copying then go s
    else
      match commitMove m s with
      | .ok s' => go s'
      | .error b => go (failParcel m.ctx m.hostSeq none 0 8 b s)

/-- A lookup is still bound to an address in a context (R276, R287). -/
def boundTo (s : State) (c a : Nat) : Bool :=
  s.ops.any fun o => o.ctx = c && o.openPos.any fun p => p.issued && p.home = a && p.home ≠ 0

/-- MOVE_DRAIN_COMPLETE (R287, M4 and M5). An aborted move writes no result, and one that was taken back is not counted. -/
def execMoveDrainComplete (move : Nat) (s : State) : Out :=
  match findMove s move with
  | none => go s
  | some m =>
    if !s.active || m.phase = .copying || boundTo s m.ctx (m.source.getD 0) then go s
    else
      let gone := fun (s : State) => { s with merge := { s.merge with
        moves := s.merge.moves.filter fun x => x.id ≠ move
        migrated := satAdd top48 s.merge.migrated (if m.phase = .draining then 1 else 0) } }
      if m.aborted then go (gone s)
      else
        match putResult m.ctx m.hostSeq m.result 0 m.nextEpoch s with
        | .ok s' => go (gone s')
        | .error b => go (failParcel m.ctx m.hostSeq none 0 8 b (gone s))

/-- The bytes of a target that a move leaves undefined (R288). -/
def freeRow (e : Emb) (m : Move) (s : State) : State :=
  let bs := (List.range e.rowBytes).map fun i => ((Config.freeWord s.freeCount i).truncate 8 : Byte)
  match m.target.map fun a => devWrite s (mergeWriter m.ctx) m.targetUse a bs with
  | some (.ok s') => { s' with freeCount := s.freeCount + 1 }
  | _ => s

/-- An entry before its commit is taken back: the hot-set entry returns to what it was, what was queued is applied at the
source, and the target's contents are undefined (R288). -/
def revertMove (m : Move) (s : State) : State :=
  let r : Except Bad State := do
    let e ← embRead s m.ctx 0 m.record.toNat
    let s1 ← putEntry (mergeWriter m.ctx) m.entry m.before s
    return applyQueued e m .reverted (freeRow e m s1)
  let s1 := match r with
    | .ok s' => s'
    | .error b => wakeHeld (m.writes.map (·.who))
        (putMove m.id (fun x => { x with writes := [], updates := [] }) (m.writes.foldl (fun x q => writeFailed m.ctx q b x) s))
  putMove m.id (fun x => { x with phase := .reverted, aborted := true }) s1

/-- An ABORT, a reset or a quiesce of parcels: each of their moves is taken back or keeps its target, by its phase
(R288). -/
def cutMoves (gone : Nat → W32 → Bool) (s : State) : State :=
  (s.merge.moves.filter fun m => gone m.ctx m.hostSeq && !m.aborted).foldl (fun (x : State) m =>
    if m.phase = .copying then revertMove m x else putMove m.id (fun y => { y with aborted := true }) x) s

end Sys2Proof.Machine
end

