-- ==== Sys2Proof/Machine/Records.lean ====
section
/-! DEFINITION. Completion records, sequence numbers and the ledger (03_headgate_host.md R73 to R78;
16_faults_recovery.md R441). -/

namespace Sys2Proof.Machine

open Sys2Proof

/-! ### The status of a parcel (R78, R444) -/

/-- A status code of the class failure or refusal (Table 3.11). -/
def failing (status : Nat) : Bool := [1, 2, 3, 5, 6, 7, 8, 0xB, 0xD, 0xE, 0xF].contains status

/-- The one status of a finished parcel. An unattainable cap marks only a RUN that has met no other failure yet, so it is
the failure met first (R388). -/
def Parcel.status (p : Parcel) : Nat :=
  if p.capped then 0xB
  else
    match p.failure with
    | some f => f
    | none =>
    if p.replayed then 4
    else if 0 < p.dropped then 9
    else if p.nonfinite then 0xA
    else if p.fallback then 0xC
    else 0

/-- The address field of its record (Table 3.10). -/
def Parcel.recordAddress (p : Parcel) : Word :=
  match p.status with
  | 2 => p.address
  | 3 => p.address
  | 9 => BitVec.ofNat 64 p.dropped
  | _ => 0

/-- The record of a finished parcel. -/
def Parcel.record (p : Parcel) : QRecord :=
  { status := p.status, hostSeq := p.hostSeq, kind := p.kind, dropped := decide (0 < p.dropped),
    nonfinite := p.nonfinite, fallback := p.fallback, address := p.recordAddress, irq := p.irq, since := p.acceptedAt,
    ofParcel := true }

/-! ### Executed-through (R73) -/

/-- The lowest of some sequence numbers. -/
def lowest : List W32 → Option W32
  | [] => none
  | a :: r => match lowest r with
    | none => some a
    | some b => some (if precedes32 b a then b else a)

/-- Executed-through: the number before the lowest accepted parcel that has not finished, or the last accepted. Parcels
that had finished before a replay runs them again count as finished. -/
def Ctx.executedNow (x : Ctx) : W32 :=
  match lowest ((x.parcels.filter fun p => !p.again).map (·.hostSeq)) with
  | some h => h - 1
  | none => x.regs.lastAccepted

def advanceExecuted (c : Nat) (s : State) : State :=
  s.modCtx c fun x => { x with regs := { x.regs with executed := x.executedNow } }

/-- A parcel finishes: its place in the queue frees. -/
def finishParcel (c : Nat) (h : W32) (s : State) : State :=
  advanceExecuted c { s.modCtx c (fun x => { x with parcels := x.parcels.filter fun p => p.hostSeq ≠ h }) with
    touched := s.touched.filter fun t => !(decide (t.ctx = c) && decide (t.hostSeq = h)) }

/-! ### Queueing records (R75, R78) -/

/-- Adds a record to those that wait for the ring. -/
def queueRecord (c : Nat) (r : QRecord) (s : State) : State :=
  s.modCtx c fun x => { x with records := x.records ++ [r] }

/-- Page-tree walks that the work of a parcel has made: a free number, since translations may be kept for as long as the
module chooses (R301; log entry 13). -/
def countWalks (s : State) : State :=
  { s with freeCount := s.freeCount + 1, mt := { s.mt with walks := satAdd top48 s.mt.walks (Config.freeWalks s.freeCount) } }

/-- A parcel's work has ended: its record is queued; a silent parcel, or a quiet one with status OK, finishes without. -/
def concludeParcel (c : Nat) (p : Parcel) (s0 : State) : State :=
  let s := countWalks s0
  if p.silent || (p.quiet && p.status = 0) then finishParcel c p.hostSeq s
  else queueRecord c p.record (s.modParcel c p.hostSeq fun q => { q with progress := .recorded })

/-! ### The ledger (R441) -/

/-- A committed seal whose ledger and index are in use. -/
def SealCtx.live (x : SealCtx) : Bool := x.state = .sealed || x.state = .dirty || x.state = .replaying

/-- Bytes of a ledger entry: its header and the payload. -/
def ledgerBytes (kind : Nat) (ptype : Byte) (h : W32) (extra : Nat) (payload : List Byte) : List Byte :=
  leBytes 64 (2 + kind * 2 ^ 4 + ptype.toNat * 2 ^ 8 + payload.length / 64 % 2 ^ 16 * 2 ^ 16 + h.toNat * 2 ^ 32 + extra * 2 ^ 64)
    ++ payload

/-- Adds an entry to the ledger. One that would fill it, or cannot be written, lapses the seal (R440). -/
def ledgerAdd (c kind : Nat) (ptype : Byte) (h : W32) (extra : Nat) (payload : List Byte)
    (keep : Nat → SealCtx → SealCtx) (s : State) : State :=
  let x := (s.ctx c).sealed
  let n := 1 + payload.length / 64
  if !x.live then s
  else if x.used + n ≥ x.ledgerUnits then lapse c 2 0 s
  else
    match devWrite s (mergeWriter c) (Use.of 1 nearFar) (x.ledger + 64 * x.used) (ledgerBytes kind ptype h extra payload) with
    | .error _ => lapse c 2 0 s
    | .ok s' => s'.modSeal c fun y => keep (y.used + n) { y with used := y.used + n }

/-- Parcel types that the ledger holds as kind 1 (R441). -/
def ledgerKind (kind : Byte) : Bool :=
  kind = kRun || kind = kCopy || kind = kHotset || kind = kMigrate || kind = kAbort

/-- Kind 1: an accepted parcel. -/
def ledgerParcel (c : Nat) (kind : Byte) (h : W32) (irq : Bool) (payload : List Byte) (s : State) : State :=
  if ledgerKind kind then
    ledgerAdd c 1 kind h 0 payload (fun n x => { x with parcels := x.parcels ++ [⟨h, kind, payload, n, irq, false⟩] }) s
  else s

/-- Kind 2: a key pair that an SKEY sets. -/
def ledgerKeys (c : Nat) (kind : Byte) (h : W32) (task : Nat) (k1 k2 : Word) (s : State) : State :=
  ledgerAdd c 2 kind h (k1.toNat + k2.toNat * 2 ^ 64 + task % 2 ^ 11 * 2 ^ 128) []
    (fun n x => { x with skeys := x.skeys ++ [⟨h, task, k1, k2, n⟩] }) s

/-- Kind 3: a record written for a kind 1 parcel. -/
def ledgerRecord (c : Nat) (r : QRecord) (dev : W32) (s : State) : State :=
  if ledgerKind r.kind && ((s.ctx c).sealed.parcels.any fun p => p.hostSeq = r.hostSeq) then
    (ledgerAdd c 3 r.kind r.hostSeq (dev.toNat + r.status * 2 ^ 32) [] (fun _ x => x) s).modSeal c fun x => { x with
      parcels := x.parcels.map fun p => if p.hostSeq = r.hostSeq then { p with recorded := true } else p }
  else s

end Sys2Proof.Machine
end

