-- ==== Sys2Proof/Machine/Seal.lean ====
section
/-! DEFINITION. Detected errors, dirty and fatal steps, seals, first-touch copies and SKEY
(16_faults_recovery.md R424, R433 to R444; 05_graph_sampling.md R129). -/

namespace Sys2Proof.Machine

open Sys2Proof

/-! ### Quiesce (R443, Table 16.6) -/

/-- The Tasks, Engines and Settle work of Table 3.25 for a whole context, with no record and no tally poisoned. -/
def quiesce (c : Nat) (s : State) : State :=
  freeCores (endWork (fun x _ => decide (x = c)) (cutMoves (fun x _ => decide (x = c)) s))

/-! ### A fatal step (R442, R444) -/

/-- Ends one unfinished parcel with DATA_ERROR_FATAL and queues its record, if an ABORT has not claimed it. A record that
waits for the ring already keeps a failure it holds. -/
def fatalParcel (c : Nat) (p : Parcel) (s : State) : State :=
  if p.claimed.isSome || p.kind = kAbort then s
  else if p.silent then finishParcel c p.hostSeq s
  else if p.progress = .recorded then
    s.modCtx c fun x => { x with records := x.records.map fun r =>
      if r.ofParcel && r.hostSeq = p.hostSeq && !failing r.status then { r with status := 5, address := 0 } else r }
  else
    let s1 := s.modParcel c p.hostSeq fun q => { q with failure := some (q.failure.getD 5), unplaced := [], running := 0 }
    match s1.parcel c p.hostSeq with
    | some q => concludeParcel c q s1
    | none => s1

/-- A seal-class record (Table 16.3). -/
def sealRecord (c cause addr : Nat) (s : State) : State :=
  report { Spill.of 0xB 8 2 with
    context := some c, address := BitVec.ofNat 64 addr, detail0 := BitVec.ofNat 64 cause
    detail1 := (s.ctx c).sealed.step.zeroExtend 64 } s

/-- An automatic replay or its feeding of a REPLAY stops: the parcels that ran again for answers already given are dropped,
and nothing more is fed (R447). A step that was dirty stays so. -/
def stopReplay (c : Nat) (s : State) : State :=
  let silent := (s.ctx c).parcels.filter fun p => p.silent
  let s1 := freeCores (endWork (fun x h => decide (x = c) && silent.any fun p => p.hostSeq = h)
    (cutMoves (fun x h => decide (x = c) && silent.any fun p => p.hostSeq = h) s))
  s1.modCtx c fun x => { x with
    parcels := x.parcels.filter fun p => !p.silent
    sealed := { x.sealed with
      inReplay := false, toReplay := [], skeysLeft := []
      state := if x.sealed.state = .replaying then .sealed else x.sealed.state } }

/-- What the detection of an error asked for has been done. -/
def cleanStep (c : Nat) (s : State) : State :=
  s.modSeal c fun x => { x with
    dirty := false, noReplay := false, state := if x.state = .dirty then .sealed else x.state }

/-- The step ends with DATA_ERROR_FATAL: the context is quiesced and its unfinished parcels end in host order. The index
and the ledger stay, and so does the seal unless it has lapsed. -/
def fatalStep (c : Nat) (s : State) : State :=
  let s1 := cleanStep c (stopReplay c (quiesce c s))
  let s2 := report { Spill.of 0xC 8 3 with context := some c, detail0 := BitVec.ofNat 64 (s.ctx c).sealed.attempts }
    { s1 with dg := { s1.dg with fatal := satAdd top48 s1.dg.fatal 1 } }
  (s2.ctx c).parcels.foldl (fun (x : State) p => fatalParcel c p x) s2

/-! ### Detected errors (R424) -/

/-- The conditions of R442; the second is noted as the error is found. -/
def canReplay (s : State) (c : Nat) : Bool :=
  let x := (s.ctx c).sealed
  x.live && !x.noReplay && !x.roundClosed && !x.treeReleased && decide (x.attempts < 3)
    && !(s.slots.any fun e => e.2.bound && e.2.ctx.toNat = c && !e.2.treePorts.isEmpty && e.2.sentComplete)

/-- A detected error met by a context, with the charges that it makes due. -/
def detected (c : Nat) (h : W32) (e : DataErr) (s : State) : State := settleCharges (foundError c h e s)

/-! ### SEAL (R433 to R436) -/

/-- The header and the range entries of a SEAL payload. -/
def Parcel.sealHeader (p : Parcel) : Nat := leNat (p.payload.take 64)
def Parcel.sealRange (p : Parcel) (i : Nat) : Nat := leNat ((p.payload.drop (64 + 16 * i)).take 16)

/-- Fields of the header in range (R434, cause 4), with the byte of the first that is not. -/
def sealFields (s : State) (c : Nat) (p : Parcel) : Option Nat :=
  let h := p.sealHeader
  let x := (s.ctx c).sealed
  if bitsN h 3 0 ≠ 2 || bitsN h 7 4 ≠ 0 then some 0
  else if bitsN h 23 8 = 0 || 4 * (p.payload.length / 64 - 1) < bitsN h 23 8 then some 1
  else if bitsN h 31 24 ≠ 0 then some 3
  else if bitsN h 127 64 % 64 ≠ 0 || (x.state ≠ .none && x.record.toNat = bitsN h 127 64) then some 8
  else if bitsN h 191 128 % 65536 ≠ 0 then some 16
  else if bitsN h 231 192 = 0 then some 24
  else if bitsN h 255 232 ≠ 0 then some 29
  else if bitsN h 319 256 % 64 ≠ 0 then some 32
  else if bitsN h 383 320 % 64 ≠ 0 then some 40
  else if bitsN h 511 424 ≠ 0 then some 53
  else if s.merge.rounds.any (fun r => r.2.isOpen && r.2.ctx = c) then some 0
  else none

/-- The page of a sealed range or of a region of the seal: a window is no page, and neither is one of the host or flash tier,
whatever it permits; a region that is not mapped lies outside the near and far tiers as well (R434, cause 2). A page of those
tiers must permit the access (R299). -/
def sealPage (s : State) (c access a at' : Nat) : Except Bad (Tier × Nat) :=
  let fault := fun (k : Nat) => (.error (.violation access k at') : Except Bad (Tier × Nat))
  match walkFrom s c (Use.of 4 anyTier) a with
  | .error (.violation _ k _) => fault (if access = 1 && k = 0 then 2 else k)
  | .error b => .error b
  | .ok (.window ..) => fault 2
  | .ok (.page t b _) =>
    if !nearFar.contains t then fault 2
    else
      match walkFrom s c (Use.of access nearFar) a with
      | .error (.violation _ k _) => fault k
      | .error b => .error b
      | .ok _ => .ok (t, b)

/-- The committed set of another context names a frame. -/
def otherSeal (s : State) (c : Nat) (f : SealFrame) : Bool :=
  s.ctxs.any fun e => e.1 ≠ c && e.2.sealed.state ≠ .none
    && e.2.sealed.frames.any fun g => g.tier = f.tier && g.frame = f.frame

/-- Resolves range i of a SEAL (R434, R435). -/
def resolveRange (s : State) (c : Nat) (p : Parcel) (i : Nat) : Except Bad (List SealFrame) := do
  let r := p.sealRange i
  let here := p.payloadAt (64 + 16 * i)
  let bad := Bad.violation 0 4 here
  if bitsN r 63 0 % 65536 ≠ 0 || bitsN r 103 64 = 0 || bitsN r 127 104 ≠ 0 then .error bad
  else
    let fs ← (List.range (bitsN r 103 64)).mapM fun k => do
      let va := bitsN r 63 0 + 65536 * k
      let (t, b) ← sealPage s c 0 va here
      return (⟨t, b / 65536, va, none⟩ : SealFrame)
    if fs.any (otherSeal s c) then .error bad else return fs

/-- A region of the seal lies in the near and far tiers and meets no frame of the set (R434). -/
def regionCheck (s : State) (c : Nat) (p : Parcel) (set : List SealFrame) (field a n : Nat) : Except Bad Unit := do
  let here := p.payloadAt field
  let pages := (a + n + 65535) / 65536 - a / 65536
  (List.range pages).forM fun k => do
    let (t, b) ← sealPage s c 1 (a / 65536 * 65536 + 65536 * k) here
    if set.any fun f => f.tier = t && f.frame = b / 65536 then .error (.violation 1 4 here) else .ok ()

/-- The checks of a SEAL; they give its set of frames. -/
def sealCheck (s : State) (c : Nat) (p : Parcel) : Except Bad (List SealFrame) := do
  let h := p.sealHeader
  match sealFields s c p with
  | some i => .error (.violation 0 4 (p.payloadAt i))
  | none => .ok ()
  if noDigest s then .error (.status 13 0) else .ok ()
  let fs ← (List.range (bitsN h 23 8)).mapM (resolveRange s c p)
  let set := fs.flatten.foldl (fun (acc : List SealFrame) f =>
    if acc.any fun g => g.tier = f.tier && g.frame = f.frame then acc else acc ++ [f]) []
  regionCheck s c p set 8 (bitsN h 127 64) 256
  regionCheck s c p set 16 (bitsN h 191 128) (65536 * bitsN h 231 192)
  regionCheck s c p set 32 (bitsN h 319 256) (128 * bitsN h 231 192)
  regionCheck s c p set 40 (bitsN h 383 320) (64 * bitsN h 423 384)
  return set

/-- The 256 bytes of the seal record (R436). -/
def sealRecordBytes (c : Nat) (x : Ctx) (p : Parcel) (gen : Byte) : List Byte :=
  let w := 2 + gen.toNat * 2 ^ 8 + c * 2 ^ 16 + bitsN p.sealHeader 63 32 * 2 ^ 32 + p.hostSeq.toNat * 2 ^ 64
    + x.shuffleKey.toNat * 2 ^ 128 + x.samplingKey.toNat * 2 ^ 192 + x.det.count.toNat * 2 ^ 256
    + x.det.mean.toNat * 2 ^ 272 + x.det.var.toNat * 2 ^ 304 + x.regs.sat * 2 ^ 352 + x.regs.nonfinite * 2 ^ 400
  let head := leBytes 64 w ++ p.payload.take 64
  head ++ sha512 head ++ List.replicate 64 0

/-- The commit (R435): a new generation, an empty index and ledger, and the new set of frames; DG_STEPS advances (R448). -/
def commitSeal (c : Nat) (p : Parcel) (set : List SealFrame) (s : State) : Except Bad State := do
  let h := p.sealHeader
  let gen := (s.ctx c).sealed.generation + 1
  let s1 := nextStep (s.modSeal c fun _ => { SealCtx.reset with
    state := .sealed, generation := gen, step := BitVec.ofNat 32 (bitsN h 63 32), record := BitVec.ofNat 64 (bitsN h 127 64)
    snap := bitsN h 191 128, snapFrames := bitsN h 231 192, index := bitsN h 319 256, ledger := bitsN h 383 320
    ledgerUnits := bitsN h 423 384, frames := set })
  devWrite s1 (parcelWriter c p.hostSeq) (Use.of 1 nearFar) (bitsN h 127 64) (sealRecordBytes c (s.ctx c) p gen)

/-- SEAL (R433 to R436). Its three stages are one act of this model. -/
def execSealStep (ctx : Nat) (s : State) : Out :=
  starting ctx kSeal (fun p s => do commitSeal ctx p (← sealCheck s ctx p) s) s

/-! ### First-touch copies (R437 to R440) -/

/-- Applies the held writes of a frame in their order; their tasks go on when nothing of theirs is held any more. -/
def releaseFrame (t : Tier) (frame : Nat) (s : State) : State :=
  let mine := fun (w : HeldWrite) => decide (w.tier = t) && decide (w.frame = frame)
  let ws := s.dg.held.filter mine
  let s1 := ws.foldl (fun (x : State) w => if w.bytes = 0 then x else rawWriteOf w.op w.tier w.addr w.bytes w.cells x)
    { s with dg := { s.dg with held := s.dg.held.filter fun w => !mine w } }
  wakeHeld (ws.map (·.who)) s1

/-- The 128 bytes of an index entry (R438). -/
def indexEntry (f : SealFrame) (slot : Nat) (digest : List Byte) : List Byte :=
  let ta := f.frame * 65536 + (if f.tier = .far then 2 ^ 63 else 0)
  leBytes 64 (f.va + ta * 2 ^ 64 + slot * 2 ^ 128) ++ digest

/-- Copies a member frame into the next slot of the snapshot region and writes its index entry (R437, R438). -/
def copyFrame (c : Nat) (f : SealFrame) (s : State) : Except Bad State := do
  let x := (s.ctx c).sealed
  checkStore s f.va f.tier (f.frame * 65536) 65536
  let bs := Memory.bytes (s.mem.tier f.tier) (f.frame * 65536) 65536
  let u : Use := Use.of 1 nearFar
  let s1 ← devWrite s (mergeWriter c) u (x.snap + 65536 * x.copied) bs
  let s2 ← devWrite s1 (mergeWriter c) u (x.index + 128 * x.copied) (indexEntry f x.copied (sha512 bs))
  return { s2.modSeal c (fun y => { y with
      copied := y.copied + 1
      frames := y.frames.map fun g => if g.tier = f.tier && g.frame = f.frame then { g with slot := some x.copied } else g })
    with dg := { s2.dg with copies := satAdd top48 s2.dg.copies 1 } }

/-- The digest engine that serves a frame: its own, or the next one in service in increasing die order (R439). -/
def servingEngine (s : State) (t : Tier) (frame : Nat) : Nat :=
  let own := digestDie t frame
  (((List.range 8).map fun i => (own + i) % 8).find? fun d => !s.dg.fenced.getLsbD d && !s.inBist 6 d).getD own

/-- A committed seal lapses, unless it has already. -/
def lapseOnce (c cause frame : Nat) (s : State) : State := if (s.ctx c).sealed.live then lapse c cause frame s else s

/-- The copy of a frame that writes wait for ends, and the writes proceed. A copy that meets a detected error, the parity and the
self-check of its digest engine included, or that cannot be written, lapses the seal (R437 to R440, Table 16.1). A copy that a
reset of its engine's die has dropped is taken again after the reset (R425). -/
def touchDone (t : Tier) (n : Nat) (bad : Bool) (s : State) : State :=
  if !s.dg.held.any (fun w => w.tier = t && w.frame = n) || (s.die (servingEngine s t n)).resetting then s
  else
    match uncopiedOwner s t n with
    | none => (releaseFrame t n s)
    | some c =>
      let f := ((s.ctx c).sealed.frames.find? fun g => g.tier = t && g.frame = n).getD ⟨t, n, 0, none⟩
      let eng := servingEngine s t n
      if bad then releaseFrame t n (lapseOnce c 3 n (detected c 0 (tierErr s f.va t (n * 65536)) s))
      else if bufferBad s 6 eng then releaseFrame t n (lapseOnce c 3 n (detected c 0 (bufferErr 6 eng eng) s))
      else
        match copyFrame c f s with
        | .ok s' => releaseFrame t n s'
        | .error (.detected e) => releaseFrame t n (lapseOnce c 3 n (detected c 0 e s))
        | .error _ => releaseFrame t n (lapseOnce c 3 n s)

/-- FIRST_TOUCH_COPY_DONE (R437 to R440). The frame is named by its tier address divided by 64 KiB, with bit 47 set for far,
as R438 writes it. -/
def execFirstTouchCopyDone (frame : Nat) (bad : Bool) (s : State) : Out :=
  go (touchDone (if bitN frame 47 then .far else .near) (frame % 2 ^ 47) bad s)

/-! ### SKEY (R129, R153, R441, R443) -/

/-- What the ledger does with a key pair: while a step is re-executed it is compared with the next kind 2 entry of its
parcel and task, and one without an entry receives one (log entry 34). -/
def noteKeys (t : Task) (k1 k2 : Word) (s : State) : State :=
  let x := (s.ctx t.ctx).sealed
  let kind := match s.parcel t.ctx t.hostSeq with | some p => p.kind | none => kRun
  let mine := fun (e : LedgerKeys) => decide (e.hostSeq = t.hostSeq) && decide (e.task = t.taskIndex)
  match if x.inReplay then x.skeysLeft.findIdx? mine else none with
  | none => ledgerKeys t.ctx kind t.hostSeq t.taskIndex k1 k2 s
  | some i =>
    let s1 := s.modSeal t.ctx fun y => { y with skeysLeft := y.skeysLeft.eraseIdx i }
    match x.skeysLeft[i]? with
    | some e => if e.shuffle = k1 && e.sampling = k2 then s1 else fatalStep t.ctx (sealRecord t.ctx 5 0 s1)
    | none => s1

/-- SKEY (R129). Issued on a die whose samplers are all out of service it ends its parcel (R153). -/
def execSkey (t : Who) (g : Guard) (ra rb : Fin 64) (s : State) : Out :=
  guarded t g anyLevel (fun x s =>
    if (liveSamplers s (Who.die t)).isEmpty then .error (.status 13 0)
    else .ok (noteKeys x (x.sreg ra) (x.sreg rb) (s.modCtx x.ctx fun c =>
      { c with shuffleKey := x.sreg ra, samplingKey := x.sreg rb }))) s

end Sys2Proof.Machine
end

