-- ==== Sys2Proof/Machine/Replay.lean ====
section
/-! DEFINITION. Automatic replay and the REPLAY parcel (16_faults_recovery.md R442 to R447). -/

namespace Sys2Proof.Machine

open Sys2Proof

/-! ### Checking and restoring (Table 16.6, Restore) -/

/-- An indexed frame that has passed its digest: tier, tier address, cells. -/
structure Saved where
  tier : Tier
  addr : Nat
  cells : List Host.Cell
  deriving DecidableEq, Repr

/-- What the checks found: the record, the frames that passed, and the digests that failed, each with its cause of Table 16.3 and
an address: the record first, then the copies in their slots' order. -/
structure Checked where
  record : Nat
  frames : List Saved
  bad : List (Nat × Nat)
  deriving DecidableEq, Repr

/-- Checks the copy in index slot k. -/
def checkCopy (s : State) (c : Nat) (x : SealCtx) (k : Nat) : Except Bad (Except Nat Saved) := do
  let u : Use := Use.of 0 nearFar
  let e ← devRead s c u (x.index + 128 * k) 128
  let w := leNat (e.take 64)
  let a := x.snap + 65536 * bitsN w 167 128
  let bs ← devRead s c u a 65536
  if sha512 bs = e.drop 64 then
    let t : Tier := if bitN w 127 then .far else .near
    return .ok ⟨t, bitsN w 126 64, cellsOf 0 bs⟩
  else return .error (bitsN w 63 0)

/-- The record's digest and every copy's digest, all of them before any frame is written (R446). -/
def checkSeal (s : State) (c : Nat) : Except Bad Checked := do
  let x := (s.ctx c).sealed
  let bs ← devRead s c (Use.of 0 nearFar) x.record.toNat 256
  let copies ← (List.range x.copied).mapM (checkCopy s c x)
  let recBad := if sha512 (bs.take 128) ≠ (bs.drop 128).take 64 then [(7, x.record.toNat)] else []
  let copyBad := copies.filterMap fun k => match k with
    | .error a => some (6, a)
    | .ok _ => none
  let frames := copies.filterMap fun k => match k with
    | .ok f => some f
    | .error _ => none
  return ⟨leNat (bs.take 64), frames, recBad ++ copyBad⟩

/-- A digest failed: it is counted and recorded. -/
def noteMismatch (c cause addr : Nat) (s : State) : State :=
  sealRecord c cause addr { s with dg := { s.dg with mismatch := satAdd top48 s.dg.mismatch 1 } }

/-- Every digest that failed is. -/
def noteMismatches (c : Nat) (bad : List (Nat × Nat)) (s : State) : State :=
  bad.foldl (fun (x : State) b => noteMismatch c b.1 b.2 x) s

/-- Copies the frames back, resets the context's tallies, restores keys, detector and counters from the record, and then
empties the index and advances the generation (Table 16.6, R447). -/
def restoreSeal (c record : Nat) (fs : List Saved) (s : State) : State :=
  let s1 := fs.foldl (fun (x : State) f => rawWrite f.tier f.addr 65536 f.cells x) s
  let s2 := resetTallies (fun _ t => t.owned && decide (t.owner = c)) s1
  let s3 := s2.modCtx c fun x => { x with
    shuffleKey := BitVec.ofNat 64 (bitsN record 191 128)
    samplingKey := BitVec.ofNat 64 (bitsN record 255 192)
    det := ⟨BitVec.ofNat 16 (bitsN record 271 256), BitVec.ofNat 32 (bitsN record 303 272), BitVec.ofNat 32 (bitsN record 335 304)⟩
    regs := { x.regs with sat := bitsN record 399 352, nonfinite := bitsN record 447 400 }
    sealed := { x.sealed with
      copied := 0, restored := fs.length, generation := x.sealed.generation + 1
      state := if x.sealed.state = .dirty then .sealed else x.sealed.state
      frames := x.sealed.frames.map fun f => { f with slot := none } } }
  { s3 with dg := { s3.dg with restored := satAdd top48 s3.dg.restored (fs.length) } }

/-! ### Feeding the ledger's parcels (R443 to R445) -/

/-- A parcel as it is fed again: the parcel itself where it has not been answered, else a silent one. -/
def refeed (p : Parcel) : Parcel :=
  { p with progress := .waiting, failure := none, address := 0, dropped := 0, nonfinite := false, fallback := false,
           capped := false, replayed := true, header := none, unplaced := [], running := 0, pastEntry := false,
           entriesDone := 0 }

/-- A ledger parcel that had finished, as it runs again: silently if its record has been written. One that ended without a
record, since it was quiet, is answered now (R444). -/
def againParcel (l : LedgerParcel) (silently : Bool) (now : Nat) : Parcel :=
  { hostSeq := l.hostSeq, first := 0, kind := l.kind, quiet := !l.recorded, irq := l.irq, serial := false, payload := l.payload,
    acceptedAt := now, progress := .waiting, failure := none, address := 0, dropped := 0, nonfinite := false,
    fallback := false, capped := false, replayed := true, silent := silently || l.recorded, again := true, claimed := none, sample := [], header := none,
    unplaced := [], running := 0, pastEntry := false, entriesDone := 0, placeless := true }

/-- Inserts a parcel in host order. -/
def insertParcel (p : Parcel) : List Parcel → List Parcel
  | [] => [p]
  | q :: r => if precedes32 p.hostSeq q.hostSeq then p :: q :: r else q :: insertParcel p r

/-- A fed parcel is still to run or running. -/
def feeding (s : State) (c : Nat) : Bool := (s.ctx c).parcels.any fun p => p.replayed && p.progress ≠ .recorded

/-- Feeds the next ledger parcel, once the one before it has run. A parcel that an ABORT has claimed meanwhile is left
to it. -/
def feed (c : Nat) (silently : Bool) (s : State) : State :=
  match (s.ctx c).sealed.toReplay with
  | [] => s
  | l :: r =>
    if feeding s c then s
    else
      let s1 := s.modSeal c fun x => { x with toReplay := r }
      match s.parcel c l.hostSeq with
      | some p =>
        if p.claimed.isSome then s1
        else if p.silent then s1
        else s1.modParcel c l.hostSeq fun q => { refeed q with silent := silently }
      | none => s1.modCtx c fun x => { x with parcels := insertParcel (againParcel l silently (s.die 8).ticks) x.parcels }

/-! ### Automatic replay (R442 to R444) -/

/-- Withdraw: this module's rank leaves the context's rounds, and the arrivals it counted are cleared (Table 16.6). The flag
says that every withdrawal could be made or sent. -/
def withdrawStep (c : Nat) (s : State) : State × Bool :=
  let (s1, ok) := withdrawAll c s
  ({ s1 with slots := s1.slots.map fun e =>
      if e.2.bound && e.2.ctx.toNat = c then
        (e.1, { e.2 with arrived := 0, ahead := 0, pendingDie := [], heldNow := [], heldNext := [] })
      else e }, ok)

/-- Parcels of the step that no ledger entry can run again, started before its commit: they end with DATA_ERROR_FATAL
(log entry 34). -/
def endUnledgered (c : Nat) (s : State) : State :=
  let listed := (s.ctx c).sealed.parcels.map (·.hostSeq)
  ((s.ctx c).parcels.filter fun p => p.progress = .started && (p.kind = kRun || p.kind = kHotset || p.kind = kMigrate)
    && !listed.contains p.hostSeq).foldl (fun (x : State) p => fatalParcel c p x) s

/-- Records of ledger parcels that still wait for the ring are taken back: those parcels are answered once they have run
again (R444). -/
def dropWaiting (c : Nat) (s : State) : State :=
  let seqs := ((s.ctx c).sealed.parcels.filter fun l => l.kind ≠ kAbort).map (·.hostSeq)
  let unclaimed := ((s.ctx c).parcels.filter fun p => p.claimed.isNone).map (·.hostSeq)
  s.modCtx c fun x => { x with records := x.records.filter fun r =>
    !(r.ofParcel && seqs.contains r.hostSeq && unclaimed.contains r.hostSeq) }

/-- The Quiesce, Withdraw and Restore phases of a dirty step that R442 lets the module replay. A round that the module cannot
withdraw from leaves it nothing to replay (R284). -/
def replayStep (ctx : Nat) (s : State) : Out :=
  let (w, ok) := withdrawStep ctx (quiesce ctx (stopReplay ctx s))
  if !ok then go (fatalStep ctx w)
  else
    let s1 := dropWaiting ctx (endUnledgered ctx w)
    let s2 := { s1.modSeal ctx (fun x => { x with
        state := .replaying, dirty := false, noReplay := false, attempts := x.attempts + 1, inReplay := true, skeysLeft := x.skeys
        toReplay := x.parcels.filter fun l => l.kind ≠ kAbort }) with
      dg := { s1.dg with replays := satAdd top48 s1.dg.replays 1 } }
    match checkSeal s2 ctx with
    | .error (.detected e) => go (fatalStep ctx (detected ctx 0 e s2))
    | .error _ => go (fatalStep ctx (sealRecord ctx 3 0 s2))
    | .ok k => if k.bad.isEmpty then go (restoreSeal ctx k.record k.frames s2) else go (fatalStep ctx (noteMismatches ctx k.bad s2))

/-- AUTOMATIC_REPLAY_RESTORE (R442, R443, R446). What follows the detection of an error: a REPLAY under way ends with
DATA_ERROR_FATAL; a step that the module may replay is quiesced, withdrawn, checked and restored; any other ends. -/
def execAutomaticReplayRestore (ctx : Nat) (s : State) : Out :=
  if !(s.ctx ctx).sealed.dirty || !s.active then go s
  else
    match (replayParcel s ctx).filter fun p => p.progress = .started with
    | some p => go (endParcel ctx p.hostSeq 5 0 (cleanStep ctx (stopReplay ctx (quiesce ctx s))))
    | none => if canReplay s ctx then replayStep ctx s else go (fatalStep ctx s)

/-- AUTOMATIC_REPLAY_REEXECUTE (R284, R443): the next ledger parcel is fed, once every owner has answered the withdrawals. -/
def execAutomaticReplayReexecute (ctx : Nat) (s : State) : Out :=
  if (s.ctx ctx).sealed.inReplay && s.active && !withdrawing s ctx then go (feed ctx false s) else go s

/-- AUTOMATIC_REPLAY_RESUME (R443, R444). -/
def execAutomaticReplayResume (ctx : Nat) (s : State) : Out :=
  let x := (s.ctx ctx).sealed
  if !x.inReplay || !x.toReplay.isEmpty || feeding s ctx || withdrawing s ctx || !s.active then go s
  else
    go (report { Spill.of 0xC 8 0 with
        context := some ctx, detail0 := BitVec.ofNat 64 x.attempts, detail1 := BitVec.ofNat 64 x.restored }
      (s.modSeal ctx fun y => { y with
        inReplay := false, skeysLeft := [], state := if y.state = .replaying then .sealed else y.state }))

/-! ### The REPLAY parcel (R445, R446) -/

/-- The one unit of a REPLAY payload. -/
def Parcel.replayWord (p : Parcel) : Nat := leNat (p.payload.take 64)
def Parcel.replayMode (p : Parcel) : Nat := bitsN p.replayWord 7 4
def Parcel.replayThrough (p : Parcel) : W32 := BitVec.ofNat 32 (bitsN p.replayWord 63 32)
def Parcel.replayResult (p : Parcel) : Nat := bitsN p.replayWord 191 128

/-- Writes the 64-byte result, if one is asked for. -/
def replayOut (c : Nat) (p : Parcel) (frames runs firstBad : Nat) (s : State) : Except Bad State :=
  if p.replayResult = 0 then .ok s
  else devWrite s (parcelWriter c p.hostSeq) useWrite p.replayResult
    (leBytes 8 frames ++ leBytes 8 runs ++ leBytes 8 firstBad ++ List.replicate 40 0)

/-- The checks of R446 that come before the digests. -/
def replayCheck (s : State) (c : Nat) (p : Parcel) : Except Bad Unit :=
  let w := p.replayWord
  let x := (s.ctx c).sealed
  if bitsN w 3 0 ≠ 2 || 2 < bitsN w 7 4 || bitsN w 31 8 ≠ 0 || bitsN w 511 192 ≠ 0 then
    .error (.violation 0 4 (p.payloadAt 0))
  else if x.state = .none || x.state = .lapsed then .error (.status 5 0)
  else if bitsN w 127 64 ≠ x.record.toNat then .error (.violation 0 4 (p.payloadAt 8))
  else .ok ()

/-- The ledger is cut after its last parcel that precedes or equals `through`, and those parcels are to be fed (R445). -/
def cutLedger (c : Nat) (through : W32) (s : State) : State :=
  s.modSeal c fun x =>
    let keep := x.parcels.filter fun l => l.hostSeq = through || precedes32 l.hostSeq through
    let run := keep.filter fun l => l.kind ≠ kAbort
    let last := (run.map (·.endUnit)).foldl max 0
    { x with used := last, parcels := x.parcels.filter (fun l => l.endUnit ≤ last)
             skeys := x.skeys.filter (fun k => k.endUnit ≤ last), toReplay := run }

/-- A REPLAY's checks, restore and first result. The answer says that parcels are to be re-executed. -/
def runReplay (c : Nat) (p : Parcel) (s : State) : Except Bad State := do
  replayCheck s c p
  let n := (s.ctx c).sealed.copied
  let k ← checkSeal s c
  if !k.bad.isEmpty then
    let firstBad := match k.bad.find? fun b => b.1 = 6 with
      | some b => b.2
      | none => 0
    let s1 ← replayOut c p n 0 firstBad (noteMismatches c k.bad s)
    return endParcel c p.hostSeq 15 0 s1
  else if p.replayMode = 2 then replayOut c p n 0 0 s
  else
    let s1 := restoreSeal c k.record k.frames s
    if p.replayMode = 1 then replayOut c p n 0 0 s1
    else return (cutLedger c p.replayThrough s1).modParcel c p.hostSeq fun q => { q with running := 1 }

/-- A REPLAY of a mode starts. -/
def startReplay (c mode : Nat) (s : State) : Out :=
  match nextParcel s c with
  | none => go s
  | some p =>
    if p.replayMode ≠ mode && !(mode = 0 && 2 < p.replayMode) then go s
    else starting c kReplay (runReplay c) s

/-- REPLAY_RESTORE_ONLY (R445, mode 1). -/
def execReplayRestoreOnly (ctx : Nat) (s : State) : Out := startReplay ctx 1 s

/-- REPLAY_CHECK_ONLY (R445, mode 2). -/
def execReplayCheckOnly (ctx : Nat) (s : State) : Out := startReplay ctx 2 s

/-- REPLAY_RESTORE_REEXECUTE (R445, mode 0): it starts the parcel, then feeds the ledger's parcels one at a time, and when
all have run writes the result. A parcel with a reserved mode starts here too, and is refused. -/
def execReplayRestoreReexecute (ctx : Nat) (s : State) : Out :=
  match replayParcel s ctx with
  | none => startReplay ctx 0 s
  | some p =>
    if p.progress ≠ .started || p.running = 0 || p.failure.isSome || !s.active || feeding s ctx then go s
    else if (s.ctx ctx).sealed.toReplay.isEmpty then
      match replayOut ctx p (s.ctx ctx).sealed.restored p.entriesDone 0 s with
      | .ok s' => go (s'.modParcel ctx p.hostSeq fun q => { q with running := 0 })
      | .error b => go (parcelFault ctx p b s)
    else go ((feed ctx true s).modParcel ctx p.hostSeq fun q => { q with entriesDone := q.entriesDone + 1 })

end Sys2Proof.Machine
end

