-- ==== Sys2Proof/Machine/Intake.lean ====
section
/-! DEFINITION. The intake aperture, the checks of a parcel and its acceptance, and the rewind of an intake
(03_headgate_host.md R56, R62 to R68, R70, R72, R73, R82). -/

namespace Sys2Proof.Machine

open Sys2Proof

/-- The context is open (Table 3.14, states 1 to 3). -/
def Ctx.isOpen (x : Ctx) : Bool := x.phase = .opened || x.phase = .aborting

/-! ### Parcels in the intake (R62, Table 3.4) -/

/-- Size of a slice (R57). -/
def sliceSize : Nat := 4194304

/-- Length field of a header, in 64-byte units of payload. -/
def parcelLength (bs : List Byte) : Nat := leNat ((bs.drop 8).take 2)

/-- Bytes that a parcel occupies. -/
def parcelSize (bs : List Byte) : Nat := 64 * (parcelLength bs + 1)

/-- The parcel at the front is complete. -/
def frontComplete (bs : List Byte) : Bool := decide (32 ≤ bs.length) && decide (parcelSize bs ≤ bs.length)

/-- Some header among the bytes has a length field above 16,383; `fuel` bounds the parcels. -/
def badLength : Nat → List Byte → Bool
  | 0, _ => false
  | fuel + 1, bs =>
    if bs.length < 32 then false
    else if 16383 < parcelLength bs then true
    else badLength fuel (bs.drop (parcelSize bs))

/-- IOD0's timer when byte n of the intake arrived, from the writes that brought it. -/
def arrivedAt : Nat → List (Nat × Nat) → Nat
  | _, [] => 0
  | n, (k, t) :: r => if n ≤ k then t else arrivedAt (n - k) r

/-- What is left of the writes once n bytes are taken. -/
def dropArrived : Nat → List (Nat × Nat) → List (Nat × Nat)
  | _, [] => []
  | n, (k, t) :: r => if n < k then (k - n, t) :: r else dropArrived (n - k) r

/-- The header of a parcel. -/
structure Header where
  word : Nat
  payload : List Byte
  deriving DecidableEq, Repr

def headerOf (bs : List Byte) : Header := ⟨leNat (bs.take 32), (bs.drop 32).take (64 * parcelLength bs)⟩

def Header.version (h : Header) : Nat := bitsN h.word 3 0
def Header.kind (h : Header) : Byte := BitVec.ofNat 8 (bitsN h.word 15 8)
def Header.context (h : Header) : Nat := bitsN h.word 25 16
def Header.seq (h : Header) : W32 := BitVec.ofNat 32 (bitsN h.word 63 32)
def Header.length (h : Header) : Nat := bitsN h.word 79 64
def Header.quiet (h : Header) : Bool := bitN h.word 80
def Header.irq (h : Header) : Bool := bitN h.word 81
def Header.serial (h : Header) : Bool := bitN h.word 82

/-! ### The format checks (R67, R68, R70) -/

/-- Lengths of a type (Table 3.5); none for a reserved code. -/
def lengthRange (kind : Nat) : Option (Nat × Nat) :=
  match kind with
  | 1 => some (1, 1)
  | 2 => some (1, 1)
  | 3 => some (0, 0)
  | 4 => some (1, 1)
  | 5 => some (0, 0)
  | 6 => some (1, 16383)
  | 7 => some (1, 1)
  | 8 => some (1, 16383)
  | 9 => some (1, 1)
  | 10 => some (1, 1)
  | _ => none

/-- Fields of a RUN payload (Table 3.6). -/
def runEntry (w : Nat) : Nat := bitsN w 63 0
def runArgs (w : Nat) : Nat := bitsN w 127 64
def runFirst (w : Nat) : Nat := bitsN w 136 128
def runCount (w : Nat) : Nat := bitsN w 153 144
def runTasks (w : Nat) : Nat := bitsN w 162 160
def runStep (w : Nat) : Nat := bitsN w 223 192

/-- Cores of a RUN's range, in order of their ordinals. -/
def runCores (w : Nat) : List Nat := (List.range (runCount w)).map (runFirst w + ·)

/-- A core counts as fenced for the acceptance and the start of a RUN (R70, R452). -/
def coreFenced (s : State) (c : Nat) : Bool := (s.core c).fenced || s.inBist 1 c

/-- The payload of a RUN (R68, R70). -/
def runOk (s : State) (w : Nat) : Bool :=
  bitsN w 143 137 = 0 && bitsN w 159 154 = 0 && bitsN w 191 163 = 0 && bitsN w 511 224 = 0
    && 1 ≤ runCount w && runCount w ≤ 512 && runFirst w + runCount w ≤ 512 && 1 ≤ runTasks w && runTasks w ≤ 4
    && !((runCores w).any (coreFenced s))

/-- The payloads that are checked at acceptance. -/
def payloadOk (s : State) (kind w : Nat) : Bool :=
  match kind with
  | 1 => runOk s w
  | 2 => 1 ≤ bitsN w 167 128 && bitsN w 511 168 = 0
  | 4 => 1 ≤ bitsN w 7 0 && bitsN w 7 0 ≤ 3 && bitsN w 63 8 = 0 && bitsN w 127 64 % 64 = 0 && bitsN w 511 128 = 0
  | 7 => bitsN w 63 0 % 64 = 0 && bitsN w 511 64 = 0
  | _ => true

/-- The parcel is well formed (R68). -/
def formatOk (s : State) (c : Nat) (h : Header) : Bool :=
  let inRange := match lengthRange h.kind.toNat with
    | some (lo, hi) => decide (lo ≤ h.length) && decide (h.length ≤ hi)
    | none => false
  bitsN h.word 7 4 = 0 && bitsN h.word 31 26 = 0 && bitsN h.word 95 83 = 0 && bitsN h.word 255 96 = 0
    && h.context = c && inRange && payloadOk s h.kind.toNat (leNat (h.payload.take 64))

/-- The verdict on a complete parcel (R67, R68, Table 3.9). -/
inductive Judged where
  | levelMismatch | malformed | duplicate | gap | accepted
  deriving DecidableEq, Repr

/-- Judges a parcel of context c after last accepted sequence A. -/
def judge (s : State) (c : Nat) (A : W32) (h : Header) : Judged :=
  if h.version ≠ 1 && h.version ≠ 2 then .levelMismatch
  else if h.version = 1 && !(1 ≤ h.kind.toNat && h.kind.toNat ≤ 5) then .levelMismatch
  else if !formatOk s c h then .malformed
  else if h.seq = A + 1 then .accepted
  else if h.seq = A || precedes32 h.seq A then .duplicate
  else .gap

/-- The parcel takes a place in the execution queue (R65). -/
def takesPlace (h : Header) : Bool := h.kind ≠ kQuery && h.kind ≠ kAbort

/-- Parcels of a context that hold a place. -/
def queueDepth (x : Ctx) : Nat := (x.parcels.filter fun p => queued p && !p.placeless).length

/-- How many parcels stand before the first ABORT that would be accepted, when all up to it are complete and are judged in
intake order (R65); `fuel` bounds the parcels. -/
def lookAhead (s : State) (c : Nat) : Nat → W32 → List Byte → Option Nat
  | 0, _, _ => none
  | fuel + 1, A, bs =>
    if !frontComplete bs then none
    else
      let h := headerOf bs
      let ok := judge s c A h = .accepted
      if ok && h.kind = kAbort then some 0
      else (lookAhead s c fuel (if ok then h.seq else A) (bs.drop (parcelSize bs))).map (· + 1)

/-! ### Taking a parcel from the intake -/

/-- The intake head moves past the front parcel. -/
def passParcel (c : Nat) (s : State) : State :=
  s.modCtx c fun x =>
    let n := parcelSize x.intake
    { x with intake := x.intake.drop n, arrivals := dropArrived n x.arrivals
             regs := { x.regs with head := x.regs.head + BitVec.ofNat 32 n } }

/-- A record for a parcel that is answered without acceptance. -/
def refusalRecord (status : Nat) (h : Header) (address : Word) (since : Nat) : QRecord :=
  ⟨status, h.seq, h.kind, false, false, false, address, h.irq, since, false⟩

/-- Answers the front parcel of the intake with a refusal, and passes it. -/
def refuseParcel (c : Nat) (v : Judged) (s : State) : State :=
  let x := s.ctx c
  let h := headerOf x.intake
  let since := arrivedAt (parcelSize x.intake) x.arrivals
  let answer := fun (status : Nat) (address : Word) (s : State) =>
    passParcel c (queueRecord c (refusalRecord status h address since) s)
  match v with
  | .levelMismatch => answer 0xE 0 s
  | .malformed =>
    answer 2 (x.regs.head.zeroExtend 64) (recordFault c none 0 h.seq 4 4 x.regs.head.toNat s)
  | .duplicate =>
    answer 1 0 (s.modRegs c fun r => { r with duplicates := satAdd 65535 r.duplicates 1 })
  | .gap =>
    let next := x.regs.lastAccepted + 1
    answer 2 (next.zeroExtend 64) (recordFault c none 0 h.seq 4 5 next.toNat
      (s.modRegs c fun r => { r with gaps := satAdd 65535 r.gaps 1 }))
  | .accepted => s

/-- A parcel as it is accepted. -/
def newParcel (h : Header) (first now : Nat) (placeless : Bool) : Parcel :=
  { hostSeq := h.seq, first := first, kind := h.kind, quiet := h.quiet, irq := h.irq, serial := h.serial,
    payload := h.payload, acceptedAt := now, progress := .waiting, failure := none, address := 0, dropped := 0,
    nonfinite := false, fallback := false, capped := false, replayed := false, silent := false, again := false, claimed := none,
    sample := [], header := none, unplaced := [], running := 0, pastEntry := false, entriesDone := 0
    placeless := placeless }

/-! ### QUERY (R72, Table 3.8) -/

/-- The identity block (Table 15.3). -/
def identityBlock (s : State) : List Byte :=
  let img := if s.keeper.runB then s.keeper.slotB else s.keeper.slotA
  leBytes 32 (2 + 2 * 2 ^ 4 + s.fuses.stepping.toNat * 2 ^ 8 + 0x8064 * 2 ^ 16 + s.fuses.serial.toNat * 2 ^ 64
      + s.fuses.lifecycle.toNat * 2 ^ 128 + s.keeper.scopes.toNat * 2 ^ 132 + img.svn.toNat * 2 ^ 136
      + b2n s.keeper.runB * 2 ^ 142 + img.fwVersion.toNat * 2 ^ 160 + 8 * 2 ^ 192 + 64 * 2 ^ 196 + 64 * 2 ^ 204
      + 4 * 2 ^ 212 + 3 * 2 ^ 215)
    ++ (recBytes s.fuses.keyDigest).take 32

/-- The 64 bytes that a QUERY of a code reports, sampled at its acceptance. -/
def querySample (s : State) (c code : Nat) : List Byte :=
  let r := (s.ctx c).regs
  match code with
  | 1 => takePad 0 64 (leBytes 4 r.lastAccepted.toNat ++ leBytes 4 r.executed.toNat ++ leBytes 4 r.lastWritten.toNat
      ++ leBytes 4 r.answered.toNat ++ leBytes 4 r.tail.toNat ++ leBytes 4 r.head.toNat)
  | 2 => takePad 0 64 (leBytes 2 r.duplicates ++ leBytes 2 r.gaps ++ leBytes 2 r.discarded ++ leBytes 2 r.halts
      ++ leBytes 8 r.sat ++ leBytes 8 r.nonfinite)
  | _ => takePad 0 64 (identityBlock s)

/-! ### ABORT at its acceptance (R85, R88) -/

/-- The ABORT claims every unfinished parcel of lower sequence that no earlier ABORT has claimed, and no ABORT. -/
def claimFor (h : W32) (p : Parcel) : Bool :=
  !p.silent && p.claimed.isNone && p.kind ≠ kAbort && precedes32 p.hostSeq h

/-- The ABORT's run begins: the state is aborting, and no record of a claimed parcel is written any more but its ABORTED
one. -/
def beginAbort (c : Nat) (p : Parcel) (s : State) : State :=
  s.modCtx c fun x => { x with
    phase := .aborting
    aborts := x.aborts ++ [⟨p.hostSeq, p.quiet, p.irq, p.acceptedAt, false,
      (x.parcels.filter (claimFor p.hostSeq)).map fun q => (q.hostSeq, q.kind)⟩]
    records := x.records.filter fun r => !(r.ofParcel && x.parcels.any fun q => claimFor p.hostSeq q && q.hostSeq = r.hostSeq)
    parcels := x.parcels.map fun q => if claimFor p.hostSeq q then { q with claimed := some p.hostSeq } else q }

/-- Accepts the front parcel (R64, R73). On a module that has failed hard it ends with FENCED_RESOURCE, unless it is a QUERY
or a TALLY_DUMP (R453). -/
def acceptParcel (c : Nat) (placeless : Bool) (s : State) : State :=
  let x := s.ctx c
  let h := headerOf x.intake
  let (now, s1) := readTimer 8 s
  let p := newParcel h x.regs.head.toNat now placeless
  let s2 := passParcel c (s1.modRegs c fun r => { r with lastAccepted := h.seq })
  let s3 := ledgerParcel c h.kind h.seq h.irq h.payload s2
  let add := fun (p : Parcel) (s : State) => s.modCtx c fun x => { x with parcels := x.parcels ++ [p] }
  if s3.log.failed && !sparedKind h.kind then add { p with failure := some 0xD, progress := .started } s3
  else if h.kind = kQuery then
    add { p with progress := .started, sample := querySample s3 c (bitsN (leNat (h.payload.take 64)) 7 0) } s3
  else if h.kind = kAbort then add { p with progress := .started } (beginAbort c p s3)
  else add p s3

/-- Takes complete parcels from the head: `forced` of them, with an ABORT behind them, are accepted whether or not the queue
has space (R65). `fuel` bounds the parcels. -/
def takeParcels (c : Nat) : Nat → Nat → State → State
  | 0, _, s => s
  | fuel + 1, forced, s =>
    let x := s.ctx c
    if !frontComplete x.intake then s
    else
      let h := headerOf x.intake
      match judge s c x.regs.lastAccepted h with
      | .accepted =>
        if 0 < forced || !takesPlace h || queueDepth x < 256 then takeParcels c fuel (forced - 1) (acceptParcel c (decide (0 < forced)) s)
        else
          match lookAhead s c (x.intake.length / 64 + 1) x.regs.lastAccepted x.intake with
          | some n => takeParcels c fuel (n - 1) (acceptParcel c true s)
          | none => s
      | v => takeParcels c fuel (forced - 1) (refuseParcel c v s)

/-- Takes what the intake of a context holds. -/
def processIntake (c : Nat) (s : State) : State := takeParcels c ((s.ctx c).intake.length / 64 + 1) 0 s

/-! ### Commands -/

/-- The intake halts: the write is discarded, and the vector fires where asked for (R56, R63). -/
def haltIntake (c : Nat) (h : Halt) (s : State) : State :=
  let s1 := s.modCtx c fun x => { x with
    halt := h, regs := { x.regs with discarded := satAdd 65535 x.regs.discarded 1, halts := satAdd 65535 x.regs.halts 1 } }
  if (s.ctx c).regs.irqOnError then fireMsix c s1 else s1

/-- Counts an access that is dropped (R61, R64). -/
def dropAccess (s : State) : State := { s with hg := { s.hg with drops := satAdd top48 s.hg.drops 1 } }

/-- A posted write to the slice of a context (R63, R64). -/
def intakeWrite (c offset : Nat) (data : List Byte) (s : State) : State :=
  let x := s.ctx c
  if c = 0 || !x.isOpen then dropAccess s
  else if x.halt ≠ .none then s.modRegs c fun r => { r with discarded := satAdd 65535 r.discarded 1 }
  else if offset ≠ x.regs.tail.toNat % sliceSize then haltIntake c .misplaced s
  else if sliceSize < x.intake.length + data.length then haltIntake c .overrun s
  else if badLength ((x.intake.length + data.length) / 64 + 1) (x.intake ++ data) then haltIntake c .length s
  else
    let (now, s1) := readTimer 8 s
    processIntake c (s1.modCtx c fun x => { x with
      intake := x.intake ++ data, arrivals := x.arrivals ++ [(data.length, now)]
      regs := { x.regs with tail := x.regs.tail + BitVec.ofNat 32 data.length } })

/-- INTAKE_WRITE (R63). In Drowse a write to a context that is not open is discarded, and wakes nothing (R64, R418), unless an
access is held before it. -/
def execIntakeWrite (ctx offset : Nat) (data : List Byte) (s : State) : Out :=
  if hostUp s && !s.active && s.hg.held.isEmpty && (ctx = 0 || !(s.ctx ctx).isOpen) then go (intakeWrite ctx offset data s)
  else hostAccess (.intakeWrite ctx offset data) (intakeWrite ctx offset data) s

/-- QUEUE_SPACE_ACCEPTANCE (R64). -/
def execQueueSpaceAcceptance (ctx : Nat) (s : State) : Out :=
  if s.active && (s.ctx ctx).isOpen then go (processIntake ctx s) else go s

/-- A write of 1 to CT_CTL.intake_rewind. On a context that is resetting it is ignored (R80). -/
def rewindIntake (ctx : Nat) (s : State) : State :=
  if ctx = 0 || (s.ctx ctx).phase = .resetting then s
  else s.modCtx ctx fun x => { x with
    intake := [], arrivals := [], halt := .none, regs := { x.regs with tail := x.regs.head } }

/-- INTAKE_REWIND (R63). -/
def execIntakeRewind (ctx : Nat) (s : State) : Out := hostCommand (.intakeRewind ctx) (rewindIntake ctx) s

end Sys2Proof.Machine
end

