-- ==== Sys2Proof/Machine/Parcels.lean ====
section
/-! DEFINITION. Starting and finishing parcels: RUN, COPY, FENCE, QUERY and TALLY_DUMP, the finish of a parcel and the
writing of its record (03_headgate_host.md R55, R56, R69 to R78, R456; 04_selod_isa.md R92, R111; 12_tallies_sync.md
R347). -/

namespace Sys2Proof.Machine

open Sys2Proof

/-! ### RUN (R69, R70, R92, R111) -/

/-- The one unit of payload. -/
def Parcel.unit (p : Parcel) : Nat := leNat (p.payload.take 64)

/-- A core that holds no task and may be given some. -/
def coreFree (s : State) (c : Nat) : Bool := coreUsable s c && (s.coreTasks c).isEmpty

/-- A core of a RUN's range that is out of service, or about to be: its ordinal is placed elsewhere (R456). -/
def coreGone (s : State) (c : Nat) : Bool := coreFenced s c || fencePending s c

/-- The cores that a RUN names are free, those out of service apart (R69, R456). -/
def coresFree (s : State) (w : Nat) : Bool := (runCores w).all fun c => coreGone s c || coreFree s c

/-- The run header from its 64 bytes. -/
def runHeaderOf (w : Nat) : RunHeader := ⟨bitsN w 63 0, bitsN w 127 64, bitsN w 191 128, bitsN w 255 192⟩

/-- The footprint that the word at entry declares, if it is a well-formed ENTRY (R111). Whether its level is the context's is
judged by the tasks. -/
def entryFoot (s : State) (c entry : Nat) : Option Nat :=
  if entry % 8 ≠ 0 then none
  else
    match devRead s c (Use.of 2 nearFar) entry 8 with
    | .error _ => none
    | .ok bs =>
      let w := leNat bs
      let i := bitsN w 31 0
      if wordOk (decide ((s.ctx c).regs.level ≠ 1)) (BitVec.ofNat 64 w) && bitsN w 63 58 = 0x1F && bitsN w 57 54 = 0
          && entryLanesOk i then some (entryFootprint i) else none

/-- An area is mapped writable in the near or far tier. -/
def areaOk (s : State) (c a n : Nat) : Except Bad Unit := do
  let _ ← range s c (Use.of 1 nearFar) a n
  return ()

/-- The conditions of R111 on a run header. -/
def headerCheck (s : State) (c w : Nat) (h : RunHeader) : Except Bad Unit := do
  let foot := entryFoot s c (runEntry w)
  let bad := Bad.violation 0 4 (runArgs w)
  if h.saveBase % 65536 ≠ 0 || h.cisBase % 65536 ≠ 0 || h.saveStride % 64 ≠ 0 || h.saveStride < 0x24000
      || h.cisStride % 65536 ≠ 0 || foot.any (fun f => decide (h.cisStride < f)) then .error bad
  else
    (List.range (runCount w * runTasks w)).forM fun i => areaOk s c (h.saveBase + i * h.saveStride) 0x24000
    match foot with
    | some f => (List.range (runCount w)).forM fun o => areaOk s c (h.cisBase + o * h.cisStride) f
    | none => .ok ()

/-- Every violation of the run header names the argument block: those of its own checks with cause 4, those of its read with
the translation's cause. -/
def atArgs (args : Nat) (cause : Option Nat) (b : Bad) : Bad :=
  match b with
  | .violation _ k _ => .violation 0 (cause.getD k) args
  | b => b

/-- Reads and checks the run header. -/
def readRunHeader (s : State) (c w : Nat) : Except Bad RunHeader :=
  match devRead s c (Use.of 0 nearFarHost) (runArgs w) 64 with
  | .error b => .error (atArgs (runArgs w) none b)
  | .ok bs =>
    let h := runHeaderOf (leNat bs)
    match headerCheck s c w h with
    | .error b => .error (atArgs (runArgs w) (some 4) b)
    | .ok _ => .ok h

/-- A task as its RUN starts it (R92, Table 4.3). Its running random states are free values. -/
def newTask (c : Nat) (h : W32) (w ordinal slot free : Nat) : Task :=
  let i := ordinal * runTasks w + slot
  { ctx := c, hostSeq := h, taskIndex := i, ordinal := ordinal, pc := BitVec.ofNat 64 (runEntry w), entered := false,
    level := 0, width := .l64, footprint := 0, step := BitVec.ofNat 32 (runStep w), status := .ready, waitTally := 0,
    sregs := [(0, BitVec.ofNat 64 (runArgs w)),
      (1, BitVec.ofNat 64 (i + runCount w * runTasks w * 2 ^ 12 + c * 2 ^ 32))],
    vregs := [], preds := [], tiles := [], descs := [], keySeed := 0, keyStream := 0, rng := [], rngFree := free,
    groups := [] }

/-- Starts the tasks of an ordinal on a core, which is unmarked from then on (R253). -/
def placeOrdinal (c : Nat) (h : W32) (w ordinal core : Nat) (s : State) : State :=
  (List.range (runTasks w)).foldl
    (fun (x : State) k => { x.setTask ⟨core, k⟩ (newTask c h w ordinal k x.freeCount) with freeCount := x.freeCount + 1 })
    (s.modCore core fun x => { x with mark := none, footprint := none })

/-- The tasks of a RUN start, but for the ordinals whose cores are out of service. -/
def startRun (c : Nat) (p : Parcel) (s : State) : Except Bad State := do
  let w := p.unit
  let h ← readRunHeader s c w
  let pairs := (List.range (runCount w)).zip (runCores w)
  let s1 := (pairs.filter fun e => !coreGone s e.2).foldl (fun (x : State) e => placeOrdinal c p.hostSeq w e.1 e.2 x) s
  return s1.modParcel c p.hostSeq fun q => { q with
    header := some h, running := runCount w * runTasks w, capped := s.weir.unattainable
    unplaced := (pairs.filter fun e => coreGone s e.2).map (·.1) }

/-- RUN (R69, R70, R92). -/
def execRun (ctx : Nat) (s : State) : Out :=
  match nextParcel s ctx with
  | none => go s
  | some p => if p.kind = kRun && coresFree s p.unit then starting ctx kRun (startRun ctx) s else go s

/-- ORDINAL_PLACEMENT (R456). -/
def execOrdinalPlacement (ctx : Nat) (hostSeq : W32) (ordinal core : Nat) (s : State) : Out :=
  match s.parcel ctx hostSeq with
  | none => go s
  | some p =>
    if s.active && p.kind = kRun && p.failure.isNone && p.claimed.isNone && p.unplaced.contains ordinal && coreFree s core
    then go ((placeOrdinal ctx hostSeq p.unit ordinal core s).modParcel ctx hostSeq fun q =>
      { q with unplaced := q.unplaced.filter fun o => o ≠ ordinal })
    else go s

/-! ### COPY, FENCE and TALLY_DUMP (R69, R71, R347) -/

/-- COPY (R71). The whole source is read first. -/
def startCopy (c : Nat) (p : Parcel) (s : State) : Except Bad State := do
  let w := p.unit
  let src ← range s c useRead (bitsN w 63 0) (bitsN w 167 128)
  let dst ← range s c useWrite (bitsN w 127 64) (bitsN w 167 128)
  checkPieces s (bitsN w 63 0) src
  checkClocks s (bitsN w 127 64) dst
  return writePieces (parcelWriter c p.hostSeq) dst (readPieces s.mem src 0) 0 s

/-- COPY (R71). -/
def execCopy (ctx : Nat) (s : State) : Out := starting ctx kCopy (startCopy ctx) s

/-- FENCE (R69). It completes at once. -/
def execFence (ctx : Nat) (s : State) : Out :=
  starting ctx kFence (fun p s => .ok (concludeParcel ctx p s)) s

/-- The tally's unit can be reached: a module that has failed hard has lost the tallies of its fenced dies, and of those that lie
beyond a dead edge on IOD0's path to them (R20, R453; log entry 30). -/
def tallyReached (s : State) (n : Nat) : Bool :=
  !(s.log.failed && (listed s 16 (homeDie n) || (pathEdges (fabricPath 8 (homeDie n))).any (edgeDead s)))

/-- The 64 bytes of a tally's record (Table 12.2). -/
def tallyRecord (s : State) (n : Nat) : List Byte :=
  let t := s.tally n
  if tallyReached s n then
    leBytes 8 t.word.toNat ++ leBytes 4 t.sigSeq.toNat ++ leBytes 4 t.sigHost.toNat
      ++ leBytes 8 (t.queue.length % 2 ^ 17 + b2n t.byHand * 2 ^ 17)
      ++ takePad 0 40 ((t.queue.take 5).flatMap fun w => leBytes 8 w.word.toNat)
  else List.replicate 64 0xFF

/-- A dump writes the record of its next tally, as that tally stands now (R347). -/
def dumpNext (c : Nat) (p : Parcel) (s : State) : Except Bad State := do
  let s' ← devWrite s (parcelWriter c p.hostSeq) useWrite (bitsN p.unit 63 0 + 64 * p.entriesDone) (tallyRecord s p.entriesDone)
  return s'.modParcel c p.hostSeq fun q => { q with entriesDone := p.entriesDone + 1 }

/-- A dump that has tallies left. -/
def dumping (p : Parcel) : Bool :=
  p.kind = kTallyDump && p.progress = .started && p.failure.isNone && p.claimed.isNone && decide (p.entriesDone < 65536)

/-- TALLY_DUMP (R347). The next parcel starts if it is one, with the record of tally 0; otherwise the oldest dump under way writes
its next record, so that other commands act between the records (log entry 31). -/
def execTallyDump (ctx : Nat) (s : State) : Out :=
  if ((nextParcel s ctx).any fun p => p.kind = kTallyDump) then
    starting ctx kTallyDump (dumpNext ctx) s
  else
    match (s.ctx ctx).parcels.find? dumping with
    | none => go s
    | some p =>
      if !s.active then go s
      else
        match dumpNext ctx p s with
        | .ok s' => go s'
        | .error b => go (parcelFault ctx p b s)

/-! ### QUERY (R72) -/

/-- Writes the result of the oldest QUERY of a code. -/
def queryOf (c code : Nat) (s : State) : Out :=
  let mine := fun (p : Parcel) => p.kind = kQuery && !p.sample.isEmpty && p.failure.isNone && p.claimed.isNone
    && bitsN p.unit 7 0 = code
  match (s.ctx c).parcels.find? mine with
  | none => go s
  | some p =>
    if !s.active then go s
    else
      match devWrite s (parcelWriter c p.hostSeq) useWrite (bitsN p.unit 127 64) p.sample with
      | .ok s' => go (s'.modParcel c p.hostSeq fun q => { q with sample := [] })
      | .error b => go (parcelFault c p b s)

/-- QUERY, code 0x01 (R72). -/
def execQuerySequenceState (ctx : Nat) (s : State) : Out := queryOf ctx 1 s
/-- QUERY, code 0x02 (R72). -/
def execQueryContextCounters (ctx : Nat) (s : State) : Out := queryOf ctx 2 s
/-- QUERY, code 0x03 (R72, R405). -/
def execQueryModuleIdentity (ctx : Nat) (s : State) : Out := queryOf ctx 3 s

/-! ### The finish of a parcel (R73, R78, R104) -/

/-- Nothing of the parcel is left to do: no task, no operation on its way to a tally unit, no move, no held write. -/
def workDone (s : State) (c : Nat) (p : Parcel) : Bool :=
  let mine := fun (x : Nat) (h : W32) => decide (x = c) && decide (h = p.hostSeq)
  p.running = 0 && p.unplaced.isEmpty && !(s.inflight.any fun m => mine m.ctx m.hostSeq)
    && !(s.dg.held.any fun h => decide (h.ctx = c) && decide (h.hostSeq = some p.hostSeq))
    && (p.failure.isSome || ((p.kind ≠ kQuery || p.sample.isEmpty) && p.kind ≠ kAbort
      && (p.kind ≠ kTallyDump || decide (65536 ≤ p.entriesDone))
      && (p.kind ≠ kHotset && p.kind ≠ kMigrate || (decide (p.moveCount ≤ p.entriesDone)
        && !(s.merge.moves.any fun m => mine m.ctx m.hostSeq)))))

/-- PARCEL_FINISH (R104). A parcel that an ABORT has claimed is answered by that ABORT. A parcel of a dirty step waits
for what follows the error (log entry 50). The moves of a failed parcel are taken
back or keep their target (R288). -/
def execParcelFinish (ctx : Nat) (hostSeq : W32) (s : State) : Out :=
  match s.parcel ctx hostSeq with
  | none => go s
  | some p =>
    let aborting := (s.ctx ctx).aborts.any fun a => a.hostSeq = hostSeq
    if p.progress = .started && p.claimed.isNone && !aborting && !(s.ctx ctx).sealed.dirty && workDone s ctx p then
      let s1 := if p.failure.isSome then cutMoves (fun c h => decide (c = ctx) && decide (h = hostSeq)) s else s
      go (concludeParcel ctx p s1)
    else go s

/-! ### Completion records (R55, R56, R74 to R77) -/

/-- The 32 bytes of a record (Table 3.10). -/
def recordBytes (c version : Nat) (r : QRecord) (dev : W32) (duration : Word) : List Byte :=
  let two := if version = 1 then 0 else 1
  leBytes 32 (version + r.status * 2 ^ 8 + c * 2 ^ 16 + dev.toNat * 2 ^ 32 + r.hostSeq.toNat * 2 ^ 64
    + r.kind.toNat * 2 ^ 96
    + two * (b2n r.dropped * 2 ^ 104 + b2n r.nonfinite * 2 ^ 105 + b2n r.fallback * 2 ^ 106 + duration.toNat * 2 ^ 128)
    + r.address.toNat * 2 ^ 192)

/-- Bus address of a ring slot, after ATS where the ring asks for it. -/
def ringSlot (s : State) (x : CtRegs) (dev : W32) : Option Nat :=
  let a := x.ringBase.toNat + 32 * (dev.toNat % 2 ^ x.log2Entries.toNat)
  if x.ringAts then Config.atsTranslate s.freeCount a true else some a

/-- The ring has space for the next record (R75). -/
def ringSpace (x : CtRegs) : Bool := decide ((x.lastWritten + 1 - x.consumed).toNat ≤ 2 ^ x.log2Entries.toNat)

/-- Writes a record at its slot: it takes the next device sequence, its parcel finishes, and its vector fires. -/
def writeRecord (c : Nat) (r : QRecord) (a : Nat) (s : State) : State :=
  let x := s.ctx c
  let dev := x.regs.lastWritten + 1
  let (t, s1) := readTimer 8 s
  let bs := recordBytes c x.regs.recordVersion.toNat r dev (stamp 8 (t - r.since))
  let s2 := rawWrite .host a 32 (cellsOf 0 bs) s1
  let s3 := s2.modCtx c fun x => { x with
    records := x.records.drop 1, regs := { x.regs with lastWritten := dev, answered := r.hostSeq } }
  let s4 := if r.ofParcel then finishParcel c r.hostSeq (ledgerRecord c r dev s3) else s3
  if r.irq || (x.regs.irqOnError && failing r.status) then fireMsix c s4 else s4

/-- COMPLETION_RECORD_WRITE (R75). A ring slot whose address ATS refuses cannot be written, and the record waits. -/
def execCompletionRecordWrite (ctx : Nat) (s : State) : Out :=
  let x := s.ctx ctx
  match x.records with
  | [] => go s
  | r :: _ =>
    if !hostUp s || !x.isOpen || !ringSpace x.regs then go s
    else
      match ringSlot s x.regs (x.regs.lastWritten + 1) with
      | none => go { s with freeCount := s.freeCount + 1 }
      | some a => go (writeRecord ctx r a s)

end Sys2Proof.Machine
end

