-- ==== Sys2Proof/Machine/Contexts.lean ====
section
/-! DEFINITION. ABORT, opening and resetting contexts, their registers, and BAR4 (03_headgate_host.md R61, R76, R79 to
R82, R84 to R88; 13_utgor_links.md R373; Table 15.12). -/

namespace Sys2Proof.Machine

open Sys2Proof

/-! ### ABORT (R85 to R88, Table 3.25) -/

/-- Changes the run of an ABORT. -/
def modAbort (c : Nat) (h : W32) (f : AbortRun → AbortRun) (s : State) : State :=
  s.modCtx c fun x => { x with aborts := x.aborts.map fun a => if a.hostSeq = h then f a else a }

/-- Types whose aborted parcels leave the pages they were writing undefined. What an aborted SEAL, REPLAY, HOTSET or MIGRATE
leaves is stated for each of them (R88, R288, R447). -/
def writesPages (kind : Byte) : Bool := kind = kRun || kind = kCopy || kind = kQuery || kind = kTallyDump

/-- The step that an ABORT's parcels have touched, or whose re-execution it stops, is dirty, for software to repair (R88). -/
def abortDirties (s : State) (c : Nat) (a : AbortRun) : Bool :=
  let x := s.ctx c
  let began := x.parcels.any fun p => a.claimed.any (fun e => e.1 = p.hostSeq) && p.progress ≠ .waiting
    && (p.kind = kRun || p.kind = kCopy || p.kind = kHotset || p.kind = kMigrate || (p.kind = kReplay && p.running ≠ 0)
      || s.touched.any fun t => t.ctx = c && t.hostSeq = p.hostSeq)
  x.sealed.live && (began || x.sealed.inReplay)

/-- The Tasks, Engines and Settle phases of an ABORT: the work of its parcels ends, the pages they were writing are undefined
and their step is dirty, the module's rank leaves the context's rounds, the context's groups break and its tallies lose
their owner. -/
def runAbort (c : Nat) (a : AbortRun) (s : State) : State :=
  let gone := fun (x : Nat) (h : W32) => decide (x = c) && a.claimed.any fun e => e.1 = h
  let pages := fun (x : Nat) (h : W32) => decide (x = c) && a.claimed.any fun e => e.1 = h && writesPages e.2
  let s0 := freeCores (endWork gone (cutMoves gone (stopReplay c s)))
  let s1 := undefinedPages pages
    (if abortDirties s c a then s0.modSeal c fun y => { y with state := .dirty } else s0)
  let s2 := loseContext c 2 (breakSlots (fun k => k.ctx.toNat = c) none true (leaveRounds c s1))
  s2.modCtx c fun x => { x with
    parcels := x.parcels.map fun p => if a.claimed.any (fun e => e.1 = p.hostSeq) then
      { p with unplaced := [], running := 0 } else p }

/-- ABORT (R85, R86). It takes the oldest ABORT that has not begun. -/
def execAbort (ctx : Nat) (s : State) : Out :=
  match (s.ctx ctx).aborts.find? fun a => !a.begun with
  | none => go s
  | some a =>
    if s.active then go (modAbort ctx a.hostSeq (fun x => { x with begun := true }) (runAbort ctx a s)) else go s

/-- Queues the ABORTED record of a parcel that an ABORT has claimed. -/
def abortedRecord (c : Nat) (s : State) (e : W32 × Byte) : State :=
  match s.parcel c e.1 with
  | some p => queueRecord c { p.record with status := 6, address := 0 }
      (s.modParcel c e.1 fun q => { q with progress := .recorded })
  | none => s

/-- The ABORT's own record, with its count of parcels. On a module that has failed hard meanwhile it carries that failure
(R453). -/
def abortRecord (c : Nat) (a : AbortRun) (s : State) : State :=
  let status := match s.parcel c a.hostSeq with
    | some p => p.failure.getD 0
    | none => 0
  if a.quiet && status = 0 then finishParcel c a.hostSeq s
  else queueRecord c ⟨status, a.hostSeq, kAbort, false, false, false,
      if status = 0 then BitVec.ofNat 64 a.claimed.length else 0, a.irq, a.since, true⟩
    (s.modParcel c a.hostSeq fun q => { q with progress := .recorded })

/-- ABORT_FINISH (R86). The records follow in the order of the ABORTs, and the state returns to open after the last. -/
def execAbortFinish (ctx : Nat) (s : State) : Out :=
  match (s.ctx ctx).aborts with
  | [] => go s
  | a :: r =>
    if !a.begun || !s.active then go s
    else
      let s1 := abortRecord ctx a (a.claimed.foldl (abortedRecord ctx) s)
      go (s1.modCtx ctx fun x => { x with
        aborts := r, phase := if r.isEmpty && x.phase = .aborting then .opened else x.phase })

/-! ### Opening (R79) -/

/-- The L0 table that CT_PT_BASE names lies within its tier and out of the reserved ranges, and the reserved field is zero. -/
def rootOk (root : Nat) : Bool :=
  bitsN root 11 1 = 0 && !badRange (if bitN root 0 then .far else .near) (root / 4096 * 4096) 4096

/-- The open is accepted (R79). -/
def openOk (x : CtRegs) (level : BitVec 2) : Bool :=
  (level = 1 || level = 2) && 6 ≤ x.log2Entries.toNat && x.log2Entries.toNat ≤ 20
    && x.ringBase.toNat % (32 * 2 ^ x.log2Entries.toNat) = 0 && (x.recordVersion = 1 || x.recordVersion = 2)
    && rootOk x.ptRoot.toNat

/-- A context as it opens: the counts and the fault record are zero, executed-through takes last_accepted (Table 15.12,
note 2), and keys and detector are reset. -/
def Ctx.openAs (x : Ctx) (level : BitVec 2) (irqOnError : Bool) : Ctx :=
  { Ctx.reset with
    phase := .opened
    regs := { x.regs with
      enable := true, level := level, irqOnError := irqOnError, openRefused := false, executed := x.regs.lastAccepted
      lastWritten := 0, answered := 0, tail := 0, head := 0, duplicates := 0, gaps := 0, discarded := 0, halts := 0
      sat := 0, nonfinite := 0 } }

/-- A write of 1 to CT_CTL.enable. On an open context it changes irq_on_error alone (R79). -/
def openContext (ctx : Nat) (level : BitVec 2) (irqOnError : Bool) (s : State) : State :=
  let x := s.ctx ctx
  if ctx = 0 || x.phase = .resetting then s
  else if x.isOpen then s.modRegs ctx fun r => { r with irqOnError := irqOnError, openRefused := false }
  else if openOk x.regs level then s.modCtx ctx fun x => x.openAs level irqOnError
  else s.modRegs ctx fun r => { r with level := level, irqOnError := irqOnError, openRefused := true }

/-- CONTEXT_OPEN (R79, Table 3.13). -/
def execContextOpen (ctx : Nat) (level : BitVec 2) (irqOnError : Bool) (s : State) : Out :=
  hostCommand (.contextOpen ctx level irqOnError) (openContext ctx level irqOnError) s

/-! ### Resetting (R80, R81) -/

/-- The reset of an open context: its work ends without a record, its rank leaves its rounds, its groups break, its tallies
lose their owner, its ingests end with code 5, and its seal is discarded (R80, R333, R342, R373, R435; Table 15.12). -/
def resetContext (c : Nat) (s : State) : State :=
  let mine := fun (x : Nat) (_ : W32) => decide (x = c)
  let s1 := freeCores (endWork mine (cutMoves mine s))
  let s2 := loseContext c 1 (breakSlots (fun k => k.ctx.toNat = c) none true (leaveRounds c s1))
  { s2.modCtx c (fun x => { x with
      phase := .resetting, halt := .none, intake := [], arrivals := [], parcels := [], aborts := [], records := []
      sealed := SealCtx.reset
      regs := { x.regs with
        enable := false, level := 0, irqOnError := false, openRefused := false, consumedRefused := false } }) with
    touched := s2.touched.filter fun t => t.ctx ≠ c
    merge := { s2.merge with seen := s2.merge.seen.filter fun k => k.1 ≠ c }
    mt := { s2.mt with ingest := s2.mt.ingest.map fun e =>
      if e.2.cmd.context.toNat = c && e.2.state = 1 then (e.1, { e.2 with state := 3, code := 5 }) else e } }

/-- A write that resets a context. On a context that is not open it has no effect. -/
def resetOpen (ctx : Nat) (s : State) : State := if (s.ctx ctx).isOpen then resetContext ctx s else s

/-- CONTEXT_RESET (R80). -/
def execContextReset (ctx : Nat) (s : State) : Out := hostCommand (.contextReset ctx) (resetOpen ctx) s

/-- CONTEXT_RESET_COMPLETE (R80). -/
def execContextResetComplete (ctx : Nat) (s : State) : Out :=
  if (s.ctx ctx).phase = .resetting then go (s.modCtx ctx fun x => { x with phase := .closed }) else go s

/-! ### Registers of a context (R76, R82, R84) -/

/-- A write of 1 to CT_FAULT_INFO.valid. -/
def clearFault (ctx : Nat) (s : State) : State :=
  if ctx = 0 then s else s.modCtx ctx fun x => { x with fault := { x.fault with valid := false } }

/-- FAULT_RECORD_CLEAR (R82). -/
def execFaultRecordClear (ctx : Nat) (s : State) : Out := hostCommand (.faultRecordClear ctx) (clearFault ctx) s

/-- A write to HG_CTX_SNAP. -/
def snapshotCtx (ctx : Nat) (s : State) : State :=
  let r := (s.ctx ctx).regs
  { s with hg := { s.hg with
    snapCtx := BitVec.ofNat 10 ctx
    snapAccepted := BitVec.ofNat 64 (r.lastAccepted.toNat + r.head.toNat * 2 ^ 32)
    snapExecuted := BitVec.ofNat 64 (r.executed.toNat + r.tail.toNat * 2 ^ 32)
    snapCompleted := BitVec.ofNat 64 (r.lastWritten.toNat + r.answered.toNat * 2 ^ 32) } }

/-- CTX_SNAPSHOT (R84). -/
def execCtxSnapshot (ctx : Nat) (s : State) : Out := hostCommand (.ctxSnapshot ctx) (snapshotCtx ctx) s

/-- A write to CT_RING_CONSUMED. -/
def writeConsumed (ctx : Nat) (value : W32) (s : State) : State :=
  let x := s.ctx ctx
  if ctx = 0 then s
  else if x.isOpen && decide ((x.regs.lastWritten - x.regs.consumed).toNat < (value - x.regs.consumed).toNat) then
    s.modRegs ctx fun r => { r with consumedRefused := true }
  else s.modRegs ctx fun r => { r with consumed := value, consumedRefused := false }

/-- RING_CONSUMED_WRITE (R76). -/
def execRingConsumedWrite (ctx : Nat) (value : W32) (s : State) : Out :=
  hostCommand (.ringConsumedWrite ctx value) (writeConsumed ctx value) s

/-! ### BAR4 (R61) -/

/-- A BAR4 read is answered. -/
def answerRead (bs : List Byte) (poisoned : Bool) (s : State) : State :=
  { s with hg := { s.hg with readData := s.hg.readData ++ [(bs, poisoned)] } }

/-- The pieces of a BAR4 access. Every translation that fails is treated as that of an unmapped address (DESIGN CHOICE,
log entry 52: R61 names only unmapped and flash-tier addresses). -/
def bar4Pieces (s : State) (access off n : Nat) : Except Bad (List Piece) :=
  if s.hg.bar4Ctx = 0 then .error (.violation access 0 (s.hg.bar4Base.toNat + off))
  else range s s.hg.bar4Ctx.toNat (Use.of access nearFarHost) (s.hg.bar4Base.toNat + off) n

/-- A BAR4 access that is dropped, with the counters that its failure moves; a detected error that it meets on its way leaves
the context's step dirty (R61, R424). -/
def bar4Drop (b : Bad) (s : State) : State :=
  match b with
  | .detected e => dropAccess (detected s.hg.bar4Ctx.toNat 0 e s)
  | _ => dropAccess (noteBad s.hg.bar4Ctx.toNat 8 b s)

/-- Answers a BAR4 read of some pieces with the data as stored. Where `bad` says so, or a piece fails its check, the answer is
poisoned, and the context's step is dirty (R61, R424). -/
def readAnswer (c va : Nat) (bad : Bool) (ps : List Piece) (s : State) : State :=
  let e := match checkPieces s va ps, ps with
    | .error (.detected e), _ => some e
    | _, (t, b, _) :: _ => if bad then some (tierErr s va t b) else none
    | _, [] => none
  let s1 := answerRead (piecesBytes s.mem ps) e.isSome s
  match e with
  | some e => detected c 0 e s1
  | none => s1

/-- One row's part of a BAR4 read through an embedding window: each part is a completion of its own, and a row of another
module is answered when its reply comes (R61, R272, R277). -/
def bar4Row (c : Nat) (win : Window) (e : Emb) (detected' : Bool) (s : State) (p : Nat × Nat × Nat × Nat) : State :=
  let (row, off, k, _) := p
  let r : Except Bad State := do
    match ← homeOf s c e row with
    | .invalid => return answerRead (List.replicate k 0) false (emDrop true s)
    | .missing => return answerRead (List.replicate k 0) false (emDrop false s)
    | .at a _ =>
      return readAnswer c (a + off) detected' (← range s c useRead (a + off) k) s
    | .remote rank =>
      let (_, s1) ← sendOwner c 0 e rank (win.rowAddr e row) (.bar4 off k) 0
        (.request (BitVec.ofNat 64 e.addr) row e.span) s
      return s1
  match r with
  | .ok s' => s'
  | .error b => bar4Drop b (answerRead (List.replicate k 0xFF) false s)

/-- One section of a BAR4 read: within a window, or outside of them (R272). -/
def bar4Section (c : Nat) (detected' : Bool) (s : State) (x : Option Window × Nat × Nat) : State :=
  let (w, a, n) := x
  match w with
  | some win =>
    match embRead s c 0 win.record with
    | .ok e => (windowParts e (n / e.rowBytes + 2) (a - win.base) n 0).foldl (bar4Row c win e detected')
        (noteRecord c e.addr s)
    | .error b => bar4Drop b (answerRead (List.replicate n 0xFF) false s)
  | none =>
    match bar4Pieces s 0 (a - s.hg.bar4Base.toNat) n with
    | .error b => bar4Drop b (answerRead (List.replicate n 0xFF) false s)
    | .ok ps => readAnswer c a detected' ps s

/-- A BAR4 read. `detected` says that its data meets a detected error. Its walks are counted (Table 11.9). -/
def bar4Read (off n : Nat) (detected' : Bool) (s0 : State) : State :=
  let s := countWalks s0
  let c := s.hg.bar4Ctx.toNat
  let a := s.hg.bar4Base.toNat + off
  (if c = 0 || n = 0 then [(none, a, n)] else sections s c useRead a n).foldl (bar4Section c detected') s

/-- A BAR4 write: it takes effect before any later posted write, so that a first touch that it makes is copied at once
(R61, R437). -/
def bar4Write (off : Nat) (data : List Byte) (s0 : State) : State :=
  let s := countWalks s0
  match (do
    let ps ← bar4Pieces s 1 off data.length
    checkClocks s (s.hg.bar4Base.toNat + off) ps
    return ps : Except Bad (List Piece)) with
  | .error b => bar4Drop b s
  | .ok ps =>
    ps.foldl (fun (x : State) p => touchDone p.1 (p.2.1 / 65536) false x)
      (putPieces (mergeWriter s.hg.bar4Ctx.toNat) ps data s)

/-- The access lies within BAR4 as it is sized (R57). -/
def inBar4 (s : State) (off n : Nat) : Bool := decide (off + n ≤ 2 ^ s.hg.cfg.bar4Log2)

/-- BAR4_READ (R57, R61). An address beyond the BAR is none of the module's. -/
def execBar4Read (off bytes : Nat) (detected : Bool) (s : State) : Out :=
  if inBar4 s off bytes then hostAccess (.bar4Read off bytes detected) (bar4Read off bytes detected) s else go s

/-- BAR4_WRITE (R57, R61). -/
def execBar4Write (off : Nat) (data : List Byte) (s : State) : Out :=
  if inBar4 s off data.length then hostAccess (.bar4Write off data) (bar4Write off data) s else go s

end Sys2Proof.Machine
end

