-- ==== Sys2Proof/Machine/Reduce.lean ====
section
/-! DEFINITION. SEGRED, COMBINE and SCOPY (06_gather_aggregate.md R175 to R185). -/

namespace Sys2Proof.Machine

open Sys2Proof

/-! ### Segment reduction (R175 to R179) -/

/-- The segment-reduction descriptor with the func of SEGRED (Table 6.7). -/
structure SegDesc where
  func : Nat
  backward : Bool
  weighted : Bool
  valid : Bool
  inLocal : Bool
  outLocal : Bool
  argmax : Bool
  inFmt : Nat
  outFmt : Nat
  heads : Nat
  elems : Nat
  segCount : Nat
  segs : Nat
  inA : Nat
  outA : Nat
  weights : Nat
  aux : Nat
  stats : Nat
  deriving DecidableEq, Repr

def segDescOf (func w : Nat) : SegDesc :=
  { func := func, backward := bitN w 8, weighted := bitN w 9, valid := bitN w 10, inLocal := bitN w 11,
    outLocal := bitN w 12, argmax := bitN w 13, inFmt := bitsN w 19 16, outFmt := bitsN w 23 20,
    heads := bitsN w 27 24 + 1, elems := bitsN w 47 32, segCount := bitsN w 88 64, segs := bitsN w 191 128,
    inA := bitsN w 255 192, outA := bitsN w 319 256, weights := bitsN w 383 320, aux := bitsN w 447 384,
    stats := bitsN w 511 448 }

/-- The checks of Table 6.7: max backward needs argmax, and argmax belongs to max (R160, R178). -/
def segOk (func w : Nat) : Bool :=
  let g := segDescOf func w
  let z := fun hi lo => bitsN w hi lo = 0
  verOk (bitsN w 3 0) && bitsN w 7 4 = 3 && z 15 14 && z 31 28 && z 63 48 && z 127 89 && g.inFmt ≤ 1 && g.outFmt ≤ 1
    && 1 ≤ g.elems && g.elems ≤ 4096 && 1 ≤ g.segCount && g.segCount ≤ 2 ^ 24 && g.segs % 4 = 0
    && (if func = 3 then g.elems % g.heads = 0 else g.heads = 1) && (func = 2 || !g.argmax)
    && (!(g.backward && func = 2) || g.argmax)

/-- What a reduction reads: segment bounds, live edges, weights and rows. -/
structure SegData where
  bounds : List Nat
  live : Nat → Bool
  weight : Nat → Nat → W32       -- edge, head
  row : Nat → List W32           -- FP32 values of in row i

/-- Reads and checks the segment list (R179): it does not decrease, no segment passes 65,535 edges. -/
def readSegs (s : State) (w : Who) (t : Task) (g : SegDesc) : Except Bad (List Nat) := do
  let bs ← readLoc s w t false (Use.of 0 nearFar) g.segs (4 * (g.segCount + 1))
  let xs := (List.range (g.segCount + 1)).map fun i => leNat ((bs.drop (4 * i)).take 4)
  let bad := (List.range g.segCount).find? fun i =>
    xs.getD (i + 1) 0 < xs.getD i 0 || xs.getD (i + 1) 0 - xs.getD i 0 > 65535
  match bad with
  | some i => .error (.slMeta 7 (g.segs + 4 * (i + 1)) 127)
  | none => return xs

/-- A 32-bit word of a byte list. -/
def wordAt (bs : List Byte) (i : Nat) : W32 := BitVec.ofNat 32 (leNat ((bs.drop (4 * i)).take 4))

/-- Reads what a reduction needs. Edges are counted from 0 to the last offset. -/
def readSegData (s : State) (w : Who) (t : Task) (g : SegDesc) : Except Bad SegData := do
  let bounds ← readSegs s w t g
  let n := bounds.getLastD 0
  let v ← if g.valid then readLoc s w t false (Use.of 0 nearFar) g.aux (8 * ((n + 63) / 64)) else .ok []
  let perEdge := if g.func = 3 then g.heads else 1
  let ws ← if g.weighted || g.func = 3 then readLoc s w t false (Use.of 0 nearFar) g.weights (4 * n * perEdge) else .ok []
  let stride := rowStride g.inFmt g.elems
  let rows := if g.backward then g.segCount else n
  let bs ← readLoc s w t g.inLocal (Use.of 0 nearFar) g.inA (rows * stride)
  return { bounds := bounds,
           live := fun i => !g.valid || bitN ((v.getD (i / 8) 0).toNat) (i % 8),
           weight := fun i k => wordAt ws (i * perEdge + k),
           row := fun i => rowFp g.inFmt g.elems ((bs.drop (i * stride)).take stride) }

/-- Live edges of segment g, in increasing position. -/
def SegData.edges (x : SegData) (g : Nat) : List Nat :=
  ((List.range (x.bounds.getD (g + 1) 0 - x.bounds.getD g 0)).map (x.bounds.getD g 0 + ·)).filter x.live

/-- Max of R176 for one element: the value so far with its position. -/
def maxStep (acc : W32 × Nat) (x : W32 × Nat) : W32 × Nat :=
  if ordLt acc.1 x.1 && !isNan x.1 && !isNan acc.1 then x else if isNan x.1 && !isNan acc.1 then x else acc

/-- Out row of segment i, forward, for sum, mean and max, and the argmax positions (R176). -/
def segForward (g : SegDesc) (x : SegData) (i : Nat) : List W32 × List Nat :=
  let es := x.edges i
  let zero := List.replicate g.elems (0 : W32)
  if es.isEmpty then (zero, List.replicate g.elems 0xFFFF)
  else if g.func = 2 then
    let scaled := es.map fun e =>
      ((x.row e).map fun v => if g.weighted then fmul v (x.weight e 0) else v, e - x.bounds.getD i 0)
    let per := (List.range g.elems).map fun c =>
      match scaled.map fun r => (r.1.getD c 0, r.2) with
      | [] => ((0 : W32), 0)
      | h :: r => r.foldl maxStep h
    (per.map (·.1), per.map (·.2))
  else
    let acc := es.foldl (fun acc e =>
      List.zipWith (fun a v => if g.weighted then ffma (x.weight e 0) v a else fadd a v) acc (x.row e)) zero
    let n := fcvtif (BitVec.ofNat 64 es.length)
    (if g.func = 1 then acc.map fun a => fdiv a n else acc, [])

/-- Largest score over live edges, NaN where any is (R177). -/
def maxScore (l : List W32) : W32 :=
  if l.any isNan then nan32 else maxOfScores l
where
  maxOfScores : List W32 → W32
    | [] => 0
    | a :: r => r.foldl fmax a

/-- m, z and the weights a of head k over segment i (R177); m and z given in the backward form. -/
def softmax (x : SegData) (es : List Nat) (k : Nat) (given : Option (W32 × W32)) : W32 × W32 × List W32 :=
  if es.isEmpty then (0, 0, [])
  else
    let m := match given with | some p => p.1 | none => maxScore (es.map fun e => x.weight e k)
    let ex := es.map fun e => fexp (fsub (x.weight e k) m)
    let z := match given with
      | some p => p.2
      | none => ex.foldl fadd 0
    (m, z, ex.map fun v => fdiv v z)

/-- Slice k of a row of H heads. -/
def slice (g : SegDesc) (k : Nat) (r : List W32) : List W32 := (r.drop (k * (g.elems / g.heads))).take (g.elems / g.heads)

/-- Out row of segment i, softmax forward, with m and z of each head. -/
def softForward (g : SegDesc) (x : SegData) (i : Nat) : List W32 × List (W32 × W32) :=
  let es := x.edges i
  let per := (List.range g.heads).map fun k =>
    let (m, z, a) := softmax x es k none
    let zero := List.replicate (g.elems / g.heads) (0 : W32)
    ((es.zip a).foldl (fun acc (ea : Nat × W32) => List.zipWith (fun s v => ffma ea.2 v s) acc (slice g k (x.row ea.1))) zero, (m, z))
  (per.flatMap (·.1), per.map (·.2))

/-- Writes rows of FP32 values narrowed to the out format from row `first` on, and counts them. -/
def writeRows (w : Who) (t : Task) (isCis : Bool) (fmt elems a first : Nat) (rows : List (List W32)) (s : State) :
    Except Bad State := do
  let ys := rows.map (narrowRow fmt)
  let s1 ← writeLoc s w t isCis (Use.of 1 nearFar) (a + first * rowStride fmt elems) (ys.flatMap (·.1))
  return countNum t.ctx t.hostSeq (Who.die w) (ys.foldl (fun c y => c.add y.2) Counts.zero) s1

/-- Out row of edge e of segment i, backward, for sum, mean and max (R178). -/
def segBackward (g : SegDesc) (x : SegData) (arg : Nat → Nat → Nat) (i e : Nat) : List W32 :=
  let dy := x.row i
  let n := fcvtif (BitVec.ofNat 64 (x.edges i).length)
  let wt := fun v => if g.weighted then fmul v (x.weight e 0) else v
  if !x.live e then List.replicate g.elems 0
  else match g.func with
    | 0 => dy.map wt
    | 1 => dy.map fun v => wt (fdiv v n)
    | _ => (List.range g.elems).map fun c =>
        if arg i c = e - x.bounds.getD i 0 then dy.getD c 0 else 0

/-- Edges of segment i, live or not. -/
def SegData.all (x : SegData) (i : Nat) : List Nat :=
  (List.range (x.bounds.getD (i + 1) 0 - x.bounds.getD i 0)).map (x.bounds.getD i 0 + ·)

/-- The forward form (R176, R177). -/
def segredForward (w : Who) (t : Task) (g : SegDesc) (x : SegData) (s : State) : Except Bad State := do
  let segs := List.range g.segCount
  if g.func = 3 then
    let ys := segs.map (softForward g x)
    let s1 ← writeRows w t g.outLocal g.outFmt g.elems g.outA 0 (ys.map (·.1)) s
    if g.stats ≠ 0 then
      writeLoc s1 w t false (Use.of 1 nearFar) g.stats
        (ys.flatMap fun y => y.2.flatMap fun p => leBytes 4 p.1.toNat ++ leBytes 4 p.2.toNat)
    else return s1
  else
    let ys := segs.map (segForward g x)
    let s1 ← writeRows w t g.outLocal g.outFmt g.elems g.outA 0 (ys.map (·.1)) s
    if g.argmax then
      writeLoc s1 w t false (Use.of 1 nearFar) g.stats (ys.flatMap fun y => y.2.flatMap fun p => leBytes 2 p)
    else return s1

/-- The backward form (R178). -/
def segredBackward (w : Who) (t : Task) (g : SegDesc) (x : SegData) (s : State) : Except Bad State := do
  let segs := List.range g.segCount
  let n := x.bounds.getLastD 0
  let first := x.bounds.headD 0
  if g.func = 3 then
    let st ← readLoc s w t false (Use.of 0 nearFar) g.stats (8 * g.heads * g.segCount)
    let a := fun i k => softmax x (x.edges i) k (some (wordAt st (2 * (g.heads * i + k)), wordAt st (2 * (g.heads * i + k) + 1)))
    let as := segs.flatMap fun i =>
      let per := (List.range g.heads).map fun k => (a i k).2.2
      (x.all i).map fun e =>
        let at' := (x.edges i).idxOf e
        (i, (List.range g.heads).map fun k => if x.live e then ((per.getD k []).getD at' 0) else (0 : W32), e)
    let rows := as.map fun r =>
      if x.live r.2.2 then
        (List.range g.heads).flatMap fun k => (slice g k (x.row r.1)).map fun v => fmul (r.2.1.getD k 0) v
      else List.replicate g.elems 0
    let s1 ← writeRows w t g.outLocal g.outFmt g.elems g.outA first rows s
    -- a[i] of live edges as FP32 after the statistics
    as.foldlM (fun s r =>
      if x.live r.2.2 then
        writeLoc s w t false (Use.of 1 nearFar) (g.stats + 8 * g.heads * g.segCount + 4 * g.heads * r.2.2)
          (r.2.1.flatMap fun v => leBytes 4 v.toNat)
      else .ok s) s1
  else
    let arg ← if g.func = 2 then readLoc s w t false (Use.of 0 nearFar) g.stats (2 * g.elems * g.segCount) else .ok []
    let argOf := fun i c => leNat ((arg.drop (2 * (g.elems * i + c))).take 2)
    let rows := segs.flatMap fun i => (x.all i).map (segBackward g x argOf i)
    let _ := n
    writeRows w t g.outLocal g.outFmt g.elems g.outA first rows s

/-- What SEGRED does to the state at its issue. -/
def segredEffect (t : Who) (d : Fin 16) (func : BitVec 2) (x : Task) (s : State) : Except Bad State := do
  let w := (x.desc d).toNat
  let sd := segDescOf func.toNat w
  descCheck (segOk func.toNat w) d.val
  let dat ← readSegData s t x sd
  if sd.backward then segredBackward t x sd dat s else segredForward t x sd dat s

/-- What SEGRED names: its lists, its rows and its statistics. -/
def segNamed (w : Who) (d : Fin 16) (func : BitVec 2) (t : Task) (s : State) : Named :=
  let g := segDescOf func.toNat (t.desc d).toNat
  match readSegData s w t g with
  | .error _ => ⟨[], []⟩
  | .ok x =>
    let n := x.bounds.getLastD 0
    let first := x.bounds.headD 0
    let out := rowStride g.outFmt g.elems
    let rowsIn := (g.inA, (if g.backward then g.segCount else n) * rowStride g.inFmt g.elems)
    let rowsOut := if g.backward then (g.outA + first * out, (n - first) * out) else (g.outA, g.segCount * out)
    let reads := if g.backward && g.func = 3 then [(g.stats, 8 * g.heads * g.segCount)]
      else if g.backward && g.func = 2 then [(g.stats, 2 * g.elems * g.segCount)] else []
    let writes :=
      if g.func = 3 && g.backward then
        ((List.range (n - first)).filter fun i => x.live (first + i)).map fun i =>
          (g.stats + 8 * g.heads * g.segCount + 4 * g.heads * (first + i), 4 * g.heads)
      else if g.func = 3 && g.stats ≠ 0 then [(g.stats, 8 * g.heads * g.segCount)]
      else if g.argmax && !g.backward then [(g.stats, 2 * g.elems * g.segCount)]
      else []
    ⟨(g.segs, 4 * (g.segCount + 1)) :: (if g.valid then [(g.aux, (n + 63) / 64 * 8)] else [])
        ++ (if g.weighted || g.func = 3 then [(g.weights, 4 * n * if g.func = 3 then g.heads else 1)] else [])
        ++ (if g.inLocal then [] else [rowsIn]) ++ (if g.outLocal then [] else [rowsOut]) ++ reads ++ writes,
      (g.outLocal, rowsOut) :: writes.map fun r => (false, r)⟩

/-- SEGRED (R175 to R179). -/
def execSegred (t : Who) (g : Guard) (grp : Fin 8) (d : Fin 16) (func : BitVec 2) (s : State) : Out :=
  async t g grp anyLevel (plainOp t grp "SEGRED" (segNamed t d func) (segredEffect t d func)) s

/-! ### COMBINE (R180 to R182) -/

/-- The combine descriptor (Table 6.8). -/
structure CombineDesc where
  keyKind : Nat
  add : Bool
  drop : Bool
  valLocal : Bool
  valFmt : Nat
  dstFmt : Nat
  elems : Nat
  count : Nat
  rows : Nat
  keys : Nat
  vals : Nat
  dst : Nat
  report : Nat
  deriving DecidableEq, Repr

def combineDescOf (w : Nat) : CombineDesc :=
  { keyKind := bitsN w 9 8, add := bitN w 10, drop := bitN w 11, valLocal := bitN w 12, valFmt := bitsN w 19 16,
    dstFmt := bitsN w 23 20, elems := bitsN w 47 32, count := bitsN w 88 64, rows := bitsN w 143 96,
    keys := bitsN w 255 192, vals := bitsN w 319 256, dst := bitsN w 383 320, report := bitsN w 447 384 }

/-- What a COMBINE of these keys names. -/
def CombineDesc.named (g : CombineDesc) (ks : List Nat) : Named :=
  let stride := rowStride g.dstFmt g.elems
  let rows := ((ks.filter fun k => k < g.rows).dedup).map fun k => (g.dst + k * stride, stride)
  ⟨(g.keys, g.count * entryBytes g.keyKind)
      :: (if g.valLocal then [] else [(g.vals, g.count * rowStride g.valFmt g.elems)])
      ++ (if g.report = 0 then [] else [(g.report, 16)]) ++ rows,
    rows.map fun r => (false, r)⟩

def combineOk (w : Nat) : Bool :=
  let g := combineDescOf w
  let z := fun hi lo => bitsN w hi lo = 0
  bitsN w 3 0 = 2 && bitsN w 7 4 = 4 && z 15 13 && z 31 24 && z 63 48 && z 95 89 && z 191 144 && z 511 448
    && g.keyKind ≤ 2 && g.valFmt ≤ 1 && g.dstFmt ≤ 1 && 1 ≤ g.elems && g.elems ≤ 4096 && 1 ≤ g.count
    && g.count ≤ 2 ^ 24 && g.keys % entryBytes g.keyKind = 0

/-- Runs of equal keys: each key with its positions in increasing order, keys in increasing order (R181). -/
def keyRuns (keys : List Nat) : List (Nat × List Nat) :=
  let ps := ((List.range keys.length).zip keys).mergeSort fun a b => decide (a.2 ≤ b.2)
  ps.foldr (fun p acc => match acc with
    | (k, l) :: r => if k = p.2 then (k, p.1 :: l) :: r else (p.2, [p.1]) :: (k, l) :: r
    | [] => [(p.2, [p.1])]) []

/-- The sum of a run (R181). -/
def runSum (row : Nat → List W32) : List Nat → List W32
  | [] => []
  | p :: r => r.foldl (fun s q => List.zipWith fadd s (row q)) (row p)

/-- One run of equal keys. -/
def combineRun (w : Who) (t : Task) (g : CombineDesc) (win : Option (Window × Emb × Nat)) (id : Nat)
    (row : Nat → List W32) (s : State) (run : Nat × List Nat) : Except Bad State := do
  if run.1 ≥ g.rows then
    if g.drop then return countDropped t.ctx t.hostSeq 1 s
    else .error (.slMeta 1 (g.keys + run.2.headD 0 * entryBytes g.keyKind) (engineOf s (Who.die w) 0))
  else
    let sum := runSum row run.2
    let first' := run.2.headD 0
    match win.filter fun x => x.1.holds x.2.1 (x.2.2 + run.1) with
    | some (wn, e, first) =>
      let s := countRows (engineOf s (Who.die w) first') 1 s
      let r := narrowRow g.dstFmt sum
      let s1 ← windowWrite (t.writer w) t.hostSeq e (wn.rowAddr e (first + run.1)) (first + run.1) 0 g.add r.1 (.write id) s
      return countNum t.ctx t.hostSeq (Who.die w) r.2 s1
    | none =>
      let stride := rowStride g.dstFmt g.elems
      let a := g.dst + run.1 * stride
      let u : Use := Use.of 1 nearFar
      if g.add then reachCheck s (← range s t.ctx (Use.of 0 nearFar) a stride) else .ok ()
      let ps ← engPieces s t.ctx u a stride
      let s := countRows (unitFor s (Who.die w) first' ps) 1 s
      let old ← if g.add then devReadNew s t.ctx (Use.of 0 nearFar) a stride else .ok []
      let r := narrowRow g.dstFmt (if g.add then List.zipWith fadd (rowFp g.dstFmt g.elems old) sum else sum)
      let s1 ← devWrite s (t.writer w) u a r.1
      return countNum t.ctx t.hostSeq (Who.die w) r.2 s1

/-- What COMBINE does to the state at its issue, with its record or with what ends its parcel. -/
def combineEffect (t : Who) (grp : Fin 8) (d : Fin 16) (id : Nat) (x : Task) (s : State) : State × Except Bad AsyncOp :=
  let w := (x.desc d).toNat
  let gd := combineDescOf w
  let pre : Except Bad (Option (Window × Emb × Nat) × List Nat × List Byte) := do
    descCheck (combineOk w) d.val
    enginesCheck s (Who.die t)
    if gd.report ≠ 0 then reachCheck s (← range s x.ctx (Use.of 1 nearFar) gd.report 16) else .ok ()
    let win ← tableWindow s x 1 d.val gd.dst gd.dstFmt gd.elems false
    let ks ← readIndices s x.ctx gd.keyKind true gd.keys gd.count
    let vs ← engLoc s t x gd.valLocal useRead gd.vals (gd.count * rowStride gd.valFmt gd.elems)
    return (win, ks, vs)
  match pre with
  | .error b => (s, .error b)
  | .ok (win, ks, vs) =>
    let stride := rowStride gd.valFmt gd.elems
    let row := fun i => rowFp gd.valFmt gd.elems ((vs.drop (i * stride)).take stride)
    let runs := keyRuns ks
    let (s1, r) := inOrder (combineRun t x gd win id row) runs (noteWindow x.ctx win s)
    let out := droppedBy s1 x - droppedBy s x
    (s1, r.map fun _ => AsyncOp.bind { AsyncOp.of id t x grp.val "COMBINE" with
      report := gd.report, dropped := runs.length - out, lates := out, desc := x.desc d } s (gd.named ks))

/-- COMBINE (R180 to R182, level 2). Runs take effect in increasing key; those before one that fails stay. The report
holds the distinct keys written and the keys dropped. -/
def execCombine (t : Who) (g : Guard) (grp : Fin 8) (d : Fin 16) (s : State) : Out :=
  async t g grp level2 (combineEffect t grp d) s

/-! ### SCOPY (R183 to R185) -/

/-- What a read through a window gives: the parts that lie here, each with its place, and the positions of those that other
modules hold. -/
structure WindowData where
  parts : List (Nat × List Byte)
  open' : List Position

/-- Reads one part of a window range: on this module at once, elsewhere by a request to its owner. -/
def copyPart (w : Who) (t : Task) (win : Window) (e : Emb) (dstLocal : Bool) (id : Nat) (acc : State × WindowData)
    (p : Nat × Nat × Nat × Nat) : Except Bad (State × WindowData) := do
  let (row, off, k, dst) := p
  let s := acc.1
  if row < e.rows && e.owner row ≠ e.rank then
    let (tag, s1) ← sendOwner t.ctx t.hostSeq e (e.owner row) (win.rowAddr e row) (.remoteRow id) 0
      (.request (BitVec.ofNat 64 e.addr) row e.span) s
    return (s1, { acc.2 with open' := acc.2.open' ++ [{ Position.blank 0 dst dstLocal (List.replicate k 0) row
      (engineOf s (Who.die w) 0) with tag := tag, off := off, len := k }] })
  else
    match ← homeOf s t.ctx e row with
    | .at a _ => return (s, { acc.2 with parts := acc.2.parts ++ [(dst, ← engRead s t.ctx useRead (a + off) k)] })
    | _ =>
      let (s1, bs) ← windowRead (t.writer w) t.hostSeq e row off k s
      return (s1, { acc.2 with parts := acc.2.parts ++ [(dst, bs)] })

/-- Reads one section of a source that begins at src; the places of its parts count from dst. -/
def copySection (w : Who) (t : Task) (src dst : Nat) (dstLocal : Bool) (id : Nat) (acc : State × WindowData)
    (x : Option Window × Nat × Nat) : Except Bad (State × WindowData) := do
  let (win, a, n) := x
  let place := dst + (a - src)
  match win with
  | some win =>
    let e ← embRead acc.1 t.ctx 0 win.record
    (windowParts e (n / e.rowBytes + 2) (a - win.base) n place).foldlM (copyPart w t win e dstLocal id)
      (noteRecord t.ctx e.addr acc.1, acc.2)
  | none => return (acc.1, { acc.2 with parts := acc.2.parts ++ [(place, ← engRead acc.1 t.ctx useRead a n)] })

/-- Reads len bytes of device memory from src on, through the windows that they meet (R272). -/
def windowCopy (w : Who) (t : Task) (src len dst : Nat) (dstLocal : Bool) (id : Nat) (s : State) :
    Except Bad (State × WindowData) :=
  (sections s t.ctx useRead src len).foldlM (copySection w t src dst dstLocal id) (s, ⟨[], []⟩)

/-- A device range meets an embedding window. -/
def meetsWindow (s : State) (ctx a n : Nat) : Bool := (sections s ctx useRead a n).any fun x => x.1.isSome

/-- A copy under Table 6.10. -/
def scopyCopy (w : Who) (t : Task) (n id : Nat) (s : State) : Except Bad (State × List Position) := do
  let len := bitsN n 71 32
  let src := bitsN n 191 128
  let dst := bitsN n 255 192
  let sl := bitN n 8
  let dl := bitN n 9
  if !sl && meetsWindow s t.ctx src len then
    let (s1, x) ← windowCopy w t src len dst dl id s
    let s2 ← x.parts.foldlM (fun s p => engWrite s w t dl useWrite p.1 p.2) s1
    return (s2, x.open')
  else
    let cells ← if sl then
        if src + len > t.footprint then .error (cisOutside t.footprint 0 src)
        else (cisParity s w.core src len).map fun _ => Memory.slice (s.cis w.core) src len
      else do
        let ps ← range s t.ctx useRead src len
        reachCheck s ps
        checkPieces s src ps
        .ok (readPieces s.mem ps 0)
    if dl then
      if dst + len > t.footprint then .error (cisOutside t.footprint 1 dst)
      else
        let s1 := (clearErrs 5 (· = w.core) 4 dst len (spoil none (some w.core) none dst len s)).modCore w.core fun c =>
          { c with cistern := Memory.blit c.cistern dst len cells }
        return (s1, [])
    else
      let ps ← range s t.ctx useWrite dst len
      reachCheck s ps
      checkClocks s dst ps
      return (writePieces (t.writer w) ps cells 0 s, [])

def copyOk (n : Nat) : Bool :=
  verOk (bitsN n 3 0) && bitsN n 31 10 = 0 && 1 ≤ bitsN n 71 32 && bitsN n 127 72 = 0 && bitsN n 511 256 = 0

def maskOk (n : Nat) : Bool :=
  verOk (bitsN n 3 0) && bitsN n 15 13 = 0 && bitsN n 19 16 ≤ 1 && bitsN n 31 20 = 0 && 1 ≤ bitsN n 56 32
    && bitsN n 56 32 ≤ 2 ^ 24 && bitsN n 63 57 = 0 && bitsN n 127 96 = 0 && bitsN n 319 256 % 8 = 0
    && bitsN n 511 320 = 0

/-- slope × x, rounded once to the format; +0 where the slope is a zero (R185). -/
def slopeEl (fmt : Nat) (slope x : W32) : Nat × Counts :=
  if slope &&& 0x7FFFFFFF = 0 then (0, Counts.zero)
  else
    let v := (f32 slope).mul (f32 x)
    if fmt = 0 then ((round32 v).toNat, Counts.zero) else narrow fmt .nearest v

/-- Mask pack and apply (R184, R185) on the bytes of its source. -/
def maskApply (w : Who) (t : Task) (use' : Nat → List Tier → Use) (n : Nat) (bs : List Byte) (s : State) :
    Except Bad State := do
  let op := bitN n 8
  let test := bitN n 9
  let fmt := bitsN n 19 16
  let count := bitsN n 56 32
  let slope : W32 := BitVec.ofNat 32 (bitsN n 95 64)
  let dst := bitsN n 255 192
  let mask := bitsN n 319 256
  let ml := bitN n 12
  let words := (count + 63) / 64
  let xs := (List.range count).map fun i => (unpack fmt bs i, (widen32 fmt (unpack fmt bs i) 127).1)
  let out := fun (bits : Nat → Bool) => (List.range count).map fun i =>
    let x := xs.getD i (0, 0)
    if bits i then (x.1, Counts.zero) else slopeEl fmt slope x.2
  let write := fun (ys : List (Nat × Counts)) (nans : Nat) (s : State) => do
    let s1 ← engWrite s w t (bitN n 11) (use' 1 nearFarHost) dst (packEls fmt (ys.map (·.1)))
    return countNum t.ctx t.hostSeq (Who.die w) ⟨(ys.map (·.2.sat)).sum, (ys.map (·.2.nonfin)).sum - nans⟩ s1
  if op then
    let m ← engLoc s w t ml (use' 0 anyTier) mask (8 * words)
    write (out fun i => bitN ((m.getD (i / 8) 0).toNat) (i % 8)) 0 s
  else
    let bit := fun i =>
      let x := (xs.getD i (0, 0)).2
      if test then !x.msb else (f32 (0 : W32)).lt (f32 x)
    let mv := ((List.range count).map fun i => if bit i then 2 ^ i else 0).sum
    let s1 ← engWrite s w t ml (use' 1 nearFarHost) mask (leBytes (8 * words) mv)
    let s2 := countNum t.ctx t.hostSeq (Who.die w) ⟨0, (xs.filter fun x => isNan x.2).length⟩ s1
    -- a NaN met by pack is counted once, whether or not its product is narrowed too
    let again := ((List.range count).filter fun i =>
      !bit i && isNan (xs.getD i (0, 0)).2 && fmt ≠ 0 && slope &&& 0x7FFFFFFF ≠ 0).length
    if dst = 0 then return s2 else write (out bit) again s2

/-- Bytes of the source of a mask form. -/
def maskBytes (n : Nat) : Nat := packedBytes (bitsN n 19 16) (bitsN n 56 32)

/-- A byte list with a part replaced. -/
def patch (bs : List Byte) (at' : Nat) (part : List Byte) : List Byte :=
  bs.take at' ++ part ++ bs.drop (at' + part.length)

/-- A mask form at its issue: the state it leaves, the source as it is known, and the parts that other modules hold. With none
of those it is done at once; else it acts at its finish (R272). -/
def scopyMask (w : Who) (t : Task) (n id : Nat) (s : State) : Except Bad (State × List Byte × List Position) := do
  let len := maskBytes n
  let src := bitsN n 191 128
  if bitN n 10 || !meetsWindow s t.ctx src len then
    return (← maskApply w t Use.of n (← engLoc s w t (bitN n 10) useRead src len) s, [], [])
  else
    let (s1, x) ← windowCopy w t src len 0 false id s
    let bs := x.parts.foldl (fun bs p => patch bs p.1 p.2) (List.replicate len 0)
    if x.open'.isEmpty then return (← maskApply w t Use.of n bs s1, [], []) else return (s1, bs, x.open')

/-- What SCOPY names. -/
def scopyNamed (n : Nat) : Named :=
  let src := bitsN n 191 128
  let dst := bitsN n 255 192
  if bitsN n 7 4 = 6 then
    let len := bitsN n 71 32
    ⟨(if bitN n 8 then [] else [(src, len)]) ++ (if bitN n 9 then [] else [(dst, len)]), [(bitN n 9, dst, len)]⟩
  else
    let len := maskBytes n
    let mask := (bitsN n 319 256, (bitsN n 56 32 + 63) / 64 * 8)
    let out := if !bitN n 8 && dst = 0 then [] else [(bitN n 11, dst, len)]
    ⟨(if bitN n 10 then [] else [(src, len)]) ++ (if bitN n 12 then [] else [mask])
        ++ (out.filter fun r => !r.1).map fun r => r.2,
      out ++ if bitN n 8 then [] else [(bitN n 12, mask)]⟩

/-- What SCOPY does to the state at its issue, with its record or with what ends its parcel. A mask form that waits for rows of
other modules keeps its source in its record. -/
def scopyEffect (t : Who) (grp : Fin 8) (d : Fin 16) (id : Nat) (x : Task) (s : State) : State × Except Bad AsyncOp :=
  let n := (x.desc d).toNat
  let copy := decide (bitsN n 7 4 = 6)
  let r : Except Bad (State × List Byte × List Position) := do
    descCheck ((copy && copyOk n) || (bitsN n 7 4 = 5 && maskOk n)) d.val
    enginesCheck s (Who.die t)
    if copy then (scopyCopy t x n id s).map fun r => (r.1, [], r.2) else scopyMask t x n id s
  match r with
  | .error b => (s, .error b)
  | .ok (s1, data, ps) =>
    let name := if copy || ps.isEmpty then "SCOPY" else "MASK"
    (s1, .ok (AsyncOp.bind { AsyncOp.of id t x grp.val name with openPos := ps, desc := x.desc d, data := data } s
      (scopyNamed n)))

/-- SCOPY (R183 to R185). A copy from rows of other modules finishes when their owners have answered. -/
def execScopy (t : Who) (g : Guard) (grp : Fin 8) (d : Fin 16) (s : State) : Out :=
  async t g grp anyLevel (scopyEffect t grp d) s

end Sys2Proof.Machine
end

