-- ==== Sys2Proof/Machine/Sparse.lean ====
section
/-! DEFINITION. Sparse tiles and the active-neuron path: BMCHK, BMEXP and PREDICT
(06_gather_aggregate.md R186 to R190). -/

namespace Sys2Proof.Machine

open Sys2Proof

/-! ### Sparse tile images (R186, R187) -/

/-- A sparse tile as read: its header's fields, its element indices and its packed elements. -/
structure SparseTile where
  fmt : Nat
  dense : Bool
  maskOnly : Bool
  rows : Nat
  cols : Nat
  nnz : Nat
  size : Nat                     -- bytes of the image
  present : List Nat             -- present elements, in increasing index; all of them where dense
  elems : List Byte
  deriving DecidableEq, Repr

/-- Size of the dense image of a tile. -/
def denseImage (fmt n : Nat) : Nat := 16 + roundUp (packedBytes fmt n) 16

/-- Set bits of a word, in increasing order. -/
def setBits (w : Nat) : List Nat := (List.range 64).filter (bitN w)

/-- A format code with elements of a known size. -/
def elemFmtOk (t : Task) (c : Nat) : Bool := fmtOk t c

/-- Reads a tile under the checks of R187, by a reader and for a unit. -/
def readSparse (rd : Nat → Nat → Except Bad (List Byte)) (unit : Nat) (t : Task) (a : Nat) : Except Bad SparseTile := do
  let h := leNat (← rd a 16)
  let z := fun hi lo => bitsN h hi lo = 0
  let fmt := bitsN h 11 8
  let dense := bitN h 12
  let mask := bitN h 13
  let rows := bitsN h 19 16 + 1
  let cols := bitsN h 39 32 + 1
  let n := rows * cols
  let nnz := bitsN h 60 48
  let bytes := bitsN h 95 64
  let bad : Nat → Bad := fun c => .slMeta c a unit
  if !(bitsN h 3 0 = 2 && z 7 4 && z 15 14 && z 31 20 && z 47 40 && z 63 61 && z 127 96 && (dense || nnz ≤ 4096)
      && !(dense && mask) && (mask || elemFmtOk t fmt)) then .error (bad 3)
  else if dense then
    if bytes ≠ denseImage fmt n then .error (bad 3)
    else
      let bs ← rd (a + 16) (packedBytes fmt n)
      return ⟨fmt, dense, mask, rows, cols, nnz, bytes, List.range n, bs⟩
  else
    let l0 := leNat (← rd (a + 16) 8)
    let groups := setBits l0
    let head := 16 + roundUp (8 + 8 * groups.length) 16
    let size := if mask then head else head + roundUp (packedBytes fmt nnz) 16
    if bytes ≠ size || (!mask && size > denseImage fmt n) then .error (bad 3)
    else
      let l1 ← rd (a + 24) (8 * groups.length)
      let words := (List.range groups.length).map fun i => leNat ((l1.drop (8 * i)).take 8)
      let present := (groups.zip words).flatMap fun gw => (setBits gw.2).map fun j => 64 * gw.1 + j
      if words.any (· = 0) || groups.any (fun i => 64 * i ≥ n) || present.any (fun e => e ≥ n) || present.length ≠ nnz
      then .error (bad 2)
      else
        let bs ← if mask then .ok [] else rd (a + head) (packedBytes fmt nnz)
        return ⟨fmt, dense, mask, rows, cols, nnz, bytes, present, bs⟩

/-- An element's encoding is neither +0 nor -0 (R188). -/
def nonzeroCode (fmt code : Nat) : Bool :=
  match fmtCode fmt with
  | .fp f => code % 2 ^ (f.width - 1) ≠ 0
  | .mx f => code % 2 ^ (f.width - 1) ≠ 0
  | _ => code ≠ 0

/-- Element indices that BMEXP lists (R188). -/
def SparseTile.listed (x : SparseTile) : List Nat :=
  if x.dense then x.present.filter fun e => nonzeroCode x.fmt (unpack x.fmt x.elems e) else x.present

/-- The packed dense tile: present elements at their places, zeros elsewhere. -/
def SparseTile.denseBytes (x : SparseTile) : List Byte :=
  if x.dense then x.elems
  else
    let at' := x.present.zip (List.range x.present.length)
    packEls x.fmt ((List.range (x.rows * x.cols)).map fun e =>
      match at'.find? fun p => p.1 = e with
      | some p => unpack x.fmt x.elems p.2
      | none => 0)

/-- The checks of Table 6.12. -/
def sparseDescOk (n : Nat) : Bool :=
  bitsN n 3 0 = 2 && bitsN n 7 4 = 0xD && bitsN n 31 10 = 0 && bitsN n 127 64 % 16 = 0 && bitsN n 191 128 % 4 = 0
    && bitsN n 511 320 = 0

/-- What BMCHK does to the state at its issue. -/
def bmchkEffect (t : Who) (d : Fin 16) (x : Task) (s : State) : Except Bad State := do
  let n := (x.desc d).toNat
  descCheck (sparseDescOk n) d.val
  let _ ← readSparse (readLoc s t x (bitN n 8) useRead) 127 x (bitsN n 127 64)
  return s

/-- What a sparse-tile descriptor names: its image, and for BMEXP its list, dense tile and count. -/
def sparseNamed (w : Who) (d : Fin 16) (expand : Bool) (x : Task) (s : State) : Named :=
  let n := (x.desc d).toNat
  match readSparse (readLoc s w x (bitN n 8) useRead) 127 x (bitsN n 127 64) with
  | .error _ => ⟨[], []⟩
  | .ok tile =>
    let out := [(bitN n 9, bitsN n 191 128, 4 * tile.listed.length)]
      ++ (if bitsN n 255 192 = 0 || tile.maskOnly then [] else [(bitN n 9, bitsN n 255 192, tile.denseBytes.length)])
      ++ (if bitsN n 319 256 = 0 then [] else [(false, bitsN n 319 256, 8)])
    let outs := if expand then out else []
    ⟨(if bitN n 8 then [] else [(bitsN n 127 64, tile.size)]) ++ (outs.filter fun r => !r.1).map fun r => r.2, outs⟩

/-- BMCHK (R188). Checks a tile and writes nothing. -/
def execBmchk (t : Who) (g : Guard) (grp : Fin 8) (d : Fin 16) (s : State) : Out :=
  async t g grp anyLevel (plainOp t grp "BMCHK" (sparseNamed t d false) (bmchkEffect t d)) s

/-- What BMEXP does to the state at its issue. -/
def bmexpEffect (t : Who) (d : Fin 16) (x : Task) (s : State) : Except Bad State := do
  let n := (x.desc d).toNat
  descCheck (sparseDescOk n) d.val
  enginesCheck s (Who.die t)
  let tile ← readSparse (engLoc s t x (bitN n 8) useRead) (engineOf s (Who.die t) 0) x (bitsN n 127 64)
  let list := tile.listed
  let base := bitsN n 63 32
  let cnt := bitsN n 319 256
  let dense := bitsN n 255 192
  let s1 ← if cnt = 0 then .ok s else engWrite s t x false useWrite cnt (leBytes 8 list.length)
  let s2 ← engWrite s1 t x (bitN n 9) useWrite (bitsN n 191 128) (list.flatMap fun e => leBytes 4 (e + base))
  if dense = 0 || tile.maskOnly then return s2
  else engWrite s2 t x (bitN n 9) useWrite dense tile.denseBytes

/-- BMEXP (R188). Writes the count, the list and the dense tile. A mask tile carries no elements, so no dense tile is
written of it (log entry 25). -/
def execBmexp (t : Who) (g : Guard) (grp : Fin 8) (d : Fin 16) (s : State) : Out :=
  async t g grp anyLevel (plainOp t grp "BMEXP" (sparseNamed t d true) (bmexpEffect t d)) s

/-! ### PREDICT (R189, R190) -/

/-- The checks of Table 6.13. -/
def predictOk (n : Nat) : Bool :=
  let z := fun hi lo => bitsN n hi lo = 0
  let mn := bitsN n 396 384
  let mx := bitsN n 412 400
  bitsN n 3 0 = 2 && bitsN n 7 4 = 7 && z 15 9 && bitsN n 19 16 ≤ 1 && (bitsN n 23 20 = 1 || bitsN n 23 20 = 3)
    && z 31 24 && 1 ≤ bitsN n 38 32 && bitsN n 38 32 ≤ 64 && z 39 39 && z 47 44 && 1 ≤ bitsN n 63 48
    && bitsN n 63 48 ≤ 16384 && 1 ≤ bitsN n 76 64 && bitsN n 76 64 ≤ 4096 && z 95 77 && bitsN n 383 320 % 16 = 0
    && mn ≤ 4096 && z 399 397 && (mx = 0 || (mn ≤ mx && mx ≤ 4096)) && z 511 413

/-- A chain of fma in increasing index, from +0. -/
def fmaChain (xs ys : List W32) : W32 := (xs.zip ys).foldl (fun acc (p : W32 × W32) => ffma p.1 p.2 acc) 0

/-- Score a ranks before score b of a later column: a NaN ranks below every number, and the lower column wins ties. -/
def scoreBefore (a b : W32) : Bool := if isNan a then isNan b else isNan b || !(f32 a).lt (f32 b)

/-- The largest of scores, NaN ranking lowest (R190). -/
def bestScore : List W32 → W32
  | [] => nan32
  | a :: r => r.foldl (fun x y => if scoreBefore x y then x else y) a

/-- The active columns of R190, in increasing order. Columns above the threshold come first in rank order, so adding the
best inactive or removing the least active column moves the end of a prefix of that order. -/
def activeColumns (scores : List W32) (threshold : W32) (minA maxA : Nat) : List Nat :=
  let ranked := ((List.range scores.length).zip scores).mergeSort fun a b =>
    if scoreBefore a.2 b.2 && scoreBefore b.2 a.2 then decide (a.1 ≤ b.1) else scoreBefore a.2 b.2
  let a0 := (scores.filter fun x => (f32 threshold).lt (f32 x)).length
  let a1 := max a0 (min minA scores.length)
  let a2 := if maxA > 0 then min a1 maxA else a1
  ((ranked.take a2).map (·.1)).mergeSort

/-- The mask tile that marks columns out of n (R190, R186). -/
def maskTile (n : Nat) (active : List Nat) : List Byte :=
  let cols := min n 256
  let rows := (n + 255) / 256
  let word := fun i => ((active.filter fun c => c / 64 = i).map fun c => 2 ^ (c % 64)).sum
  let groups := (List.range 64).filter fun i => word i ≠ 0
  let l0 := (groups.map fun i => 2 ^ i).sum
  let size := 16 + roundUp (8 + 8 * groups.length) 16
  let head := 2 + 2 ^ 13 + (rows - 1) * 2 ^ 16 + (cols - 1) * 2 ^ 32 + active.length * 2 ^ 48 + size * 2 ^ 64
  takePad 0 size (leBytes 16 head ++ leBytes 8 l0 ++ groups.flatMap fun i => leBytes 8 (word i))

/-- The mask tile that PREDICT makes. -/
def predictTile (t : Who) (d : Fin 16) (x : Task) (s : State) : Except Bad (List Byte) := do
  let n := (x.desc d).toNat
  descCheck (predictOk n) d.val
  let xf := bitsN n 19 16
  let pf := bitsN n 23 20
  let rank := bitsN n 38 32
  let rows := bitsN n 43 40 + 1
  let k := bitsN n 63 48
  let cols := bitsN n 76 64
  let xb ← readLoc s t x (bitN n 8) useRead (bitsN n 191 128) (packedBytes xf (rows * k))
  let ab ← readLoc s t x false useRead (bitsN n 255 192) (packedBytes pf (k * rank))
  let bb ← readLoc s t x false useRead (bitsN n 319 256) (packedBytes pf (rank * cols))
  let el := fun (f : Nat) (bs : List Byte) (i : Nat) => (widen32 f (unpack f bs i) 127).1
  let row := fun r =>
    let xr := (List.range k).map fun i => el xf xb (r * k + i)
    let ts := (List.range rank).map fun j => fmaChain xr ((List.range k).map fun i => el pf ab (i * rank + j))
    (List.range cols).map fun c => fmaChain ts ((List.range rank).map fun j => el pf bb (j * cols + c))
  let ss := (List.range rows).map row
  let scores := (List.range cols).map fun c => bestScore (ss.map fun r => r.getD c 0)
  let act := activeColumns scores (BitVec.ofNat 32 (bitsN n 127 96)) (bitsN n 396 384) (bitsN n 412 400)
  return maskTile cols act

/-- What PREDICT does to the state at its issue. -/
def predictEffect (t : Who) (d : Fin 16) (x : Task) (s : State) : Except Bad State := do
  let tile ← predictTile t d x s
  writeLoc s t x false useWrite (bitsN (x.desc d).toNat 383 320) tile

/-- What PREDICT names: its inputs and its mask tile. -/
def predictNamed (t : Who) (d : Fin 16) (x : Task) (s : State) : Named :=
  let n := (x.desc d).toNat
  let k := bitsN n 63 48
  let rank := bitsN n 38 32
  let out := match predictTile t d x s with
    | .ok tile => [(bitsN n 383 320, tile.length)]
    | .error _ => []
  ⟨(if bitN n 8 then [] else [(bitsN n 191 128, packedBytes (bitsN n 19 16) ((bitsN n 43 40 + 1) * k))])
      ++ [(bitsN n 255 192, packedBytes (bitsN n 23 20) (k * rank)),
          (bitsN n 319 256, packedBytes (bitsN n 23 20) (rank * bitsN n 76 64))] ++ out,
    out.map fun r => (false, r)⟩

/-- PREDICT (R189, R190, level 2). -/
def execPredict (t : Who) (g : Guard) (grp : Fin 8) (d : Fin 16) (s : State) : Out :=
  async t g grp level2 (plainOp t grp "PREDICT" (predictNamed t d) (predictEffect t d)) s

end Sys2Proof.Machine
end

