-- ==== Sys2Proof/Machine/Sampling.lean ====
section
/-! DEFINITION. SHUF, SAMPLE and DEDUP (05_graph_sampling.md R119 to R154). -/

namespace Sys2Proof.Machine

open Sys2Proof

/-! ### Reads and writes of the samplers (R119, R128) -/

/-- The samplers reach the near, far and flash tiers, and write the near and far ones (R119, R300). -/
def smRead : Use := Use.of 0 [.near, .far, .flash]

/-- A little-endian value of n bytes. The structures of a graph, the seeds and the hop entries are read at whatever address names them
(DESIGN CHOICE, log entry 57: R122 speaks of column values alone). -/
def smNat (s : State) (ctx a n : Nat) : Except Bad Nat := do return leNat (← devRead s ctx smRead a n)

/-- A check of R128. -/
def smCheck (ok : Bool) (check a : Nat) : Except Bad Unit := if ok then .ok () else .error (.smMeta check a)

/-- A list of reads in order. -/
def readEach {α β : Type} (f : α → Except Bad β) : List α → Except Bad (List β)
  | [] => .ok []
  | x :: r => do
    let y ← f x
    let ys ← readEach f r
    return y :: ys

/-- A die with every sampler fenced takes no sampling instruction (R153). The buffers of those in service pass their code
(R424). -/
def samplersCheck (s : State) (d : Nat) : Except Bad Unit :=
  if (liveSamplers s d).isEmpty then .error (.status 13 0)
  else
    match (liveSamplers s d).find? fun k => bufferBad s 2 k with
    | some k => .error (.detected (bufferErr 2 k d))
    | none => .ok ()

/-- The instruction is one that the samplers take. -/
def AsyncOp.sampling (o : AsyncOp) : Bool := o.name == "SHUF" || o.name == "SAMPLE" || o.name == "DEDUP"

/-- Unfinished sampling instructions of a die, which its queue holds. -/
def samplerQueue (s : State) (d : Nat) : List AsyncOp := s.ops.filter fun o => o.sampling && decide (Who.die o.who = d)

/-- A sampling instruction: asynchronous, it waits to issue while its die's queue of 64 is full. -/
def samplerOp (w : Who) (g : Guard) (grp : Fin 8) (f : Nat → Task → State → State × Except Bad AsyncOp) (s : State) : Out :=
  let acts := match s.task w with
    | some t => t.entered && t.acts g
    | none => false
  waiting (acts && decide (64 ≤ (samplerQueue s (Who.die w)).length)) s (async w g grp anyLevel f s)

/-- Outstanding reads of the 32 samplers: flash pages, then all of them. What a sampler with work has outstanding is free
within the 4,096 of R152 and the samplers' 98,304 flash reads of R157 (log entry 16). -/
def samplerReads (s : State) : List (Nat × Nat) :=
  ((List.range 32).foldl (fun (acc : Nat × List (Nat × Nat)) k =>
    let busy := (liveSamplers s (k / 4)).contains k && !(samplerQueue s (k / 4)).isEmpty
    let reads := if busy then (Config.freeWord s.freeCount k).toNat % 4097 else 0
    let flash := min acc.1 (if busy then (Config.freeWord s.freeCount (32 + k)).toNat % (reads + 1) else 0)
    (acc.1 - flash, acc.2 ++ [(flash, reads)])) (98304, [])).2

/-- Adds to per-sampler counters: work of groups, each taken by one of the die's samplers (log entry 16). -/
def bumpGroups (s : State) (d : Nat) (t : Tab Nat) (work : List (Nat × Nat)) : Tab Nat :=
  work.foldl (fun (t : Tab Nat) w => t.bump (samplerFor s d w.1) w.2) t

/-! ### SHUF (R130 to R132) -/

def shufOk (n : Nat) : Bool :=
  let z := fun hi lo => bitsN n hi lo = 0
  verOk (bitsN n 3 0) && bitsN n 7 4 = 8 && z 31 8 && z 79 73 && z 127 120 && z 159 153 && z 511 256
    && 1 ≤ bitsN n 72 32 && bitsN n 72 32 ≤ 2 ^ 40 && 1 ≤ bitsN n 152 128 && bitsN n 152 128 ≤ 2 ^ 24
    && bitsN n 119 80 + bitsN n 152 128 ≤ bitsN n 72 32

/-- What SHUF does to the state at its issue. A malformed descriptor is found before the die's samplers are looked at (DESIGN CHOICE,
log entry 57). -/
def shufEffect (t : Who) (d : Fin 16) (x : Task) (s : State) : Except Bad State := do
  let w := (x.desc d).toNat
  descCheck (shufOk w) d.val
  samplersCheck s (Who.die t)
  let n := bitsN w 72 32
  let first := bitsN w 119 80
  let count := bitsN w 152 128
  let out := bitsN w 255 192
  alignCheck 1 out 8
  let key := (s.ctx x.ctx).shuffleKey
  let ps := (List.range count).map fun i => shufflePi key (bitsN w 191 160) n (first + i)
  let s1 ← devWrite s (x.writer t) (Use.of 1 nearFar) out (ps.flatMap fun p => leBytes 8 p.1)
  let work := (List.range count).map fun i => (i / 4096, (ps.getD i (0, 0)).2)
  return { s1 with
    freeCount := s1.freeCount + 1
    sm := { s1.sm with feistel := bumpGroups s1 (Who.die t) s1.sm.feistel work } }

/-- What SHUF names. -/
def shufNamed (d : Fin 16) (x : Task) (_s : State) : Named :=
  let w := (x.desc d).toNat
  ⟨[(bitsN w 255 192, 8 * bitsN w 152 128)], [(false, bitsN w 255 192, 8 * bitsN w 152 128)]⟩

/-- SHUF (R131). The keys are those that stand at issue (R129). -/
def execShuf (t : Who) (g : Guard) (grp : Fin 8) (d : Fin 16) (s : State) : Out :=
  samplerOp t g grp (plainOp t grp "SHUF" (shufNamed d) (shufEffect t d)) s

/-! ### DEDUP (R149) -/

def dedupOk (n : Nat) : Bool :=
  bitsN n 3 0 = 2 && bitsN n 7 4 = 0xA && bitsN n 31 8 = 0 && 1 ≤ bitsN n 56 32 && bitsN n 56 32 ≤ 2 ^ 24
    && bitsN n 63 57 = 0 && bitsN n 511 320 = 0

/-- Unique entries in order of first appearance, and each entry's index among them. -/
def dedupList (key : Nat → Nat) : List Nat → List Nat → List Nat → List Nat × List Nat
  | [], uniq, idx => (uniq, idx)
  | e :: r, uniq, idx =>
    let ks := uniq.map key
    if ks.contains (key e) then dedupList key r uniq (idx ++ [ks.idxOf (key e)])
    else dedupList key r (uniq ++ [e]) (idx ++ [uniq.length])

/-- What DEDUP does to the state at its issue. -/
def dedupEffect (t : Who) (d : Fin 16) (x : Task) (s : State) : Except Bad State := do
  let w := (x.desc d).toNat
  descCheck (dedupOk w) d.val
  samplersCheck s (Who.die t)
  let count := bitsN w 56 32
  alignCheck 0 (bitsN w 127 64) 8
  alignCheck 1 (bitsN w 191 128) 8
  alignCheck 1 (bitsN w 255 192) 4
  alignCheck 1 (bitsN w 319 256) 8
  let bs ← devRead s x.ctx smRead (bitsN w 127 64) (8 * count)
  let es := (List.range count).map fun i => leNat ((bs.drop (8 * i)).take 8)
  let (uniq, idx) := dedupList (· % 2 ^ 40) es [] []
  let u : Use := Use.of 1 nearFar
  let s1 ← devWrite s (x.writer t) u (bitsN w 191 128) (uniq.flatMap (leBytes 8))
  let s2 ← devWrite s1 (x.writer t) u (bitsN w 255 192) (idx.flatMap (leBytes 4))
  devWrite s2 (x.writer t) u (bitsN w 319 256) (leBytes 8 uniq.length)

/-- What DEDUP names: its list, the unique entries, the index of each entry and the count. -/
def dedupNamed (d : Fin 16) (x : Task) (s : State) : Named :=
  let w := (x.desc d).toNat
  let count := bitsN w 56 32
  let uniq := match devRead s x.ctx smRead (bitsN w 127 64) (8 * count) with
    | .ok bs => (dedupList (· % 2 ^ 40) ((List.range count).map fun i => leNat ((bs.drop (8 * i)).take 8)) [] []).1.length
    | .error _ => 0
  let outs := [(bitsN w 191 128, 8 * uniq), (bitsN w 255 192, 4 * count), (bitsN w 319 256, 8)]
  ⟨(bitsN w 127 64, 8 * count) :: outs, outs.map fun r => (false, r)⟩

/-- DEDUP (R149). -/
def execDedup (t : Who) (g : Guard) (grp : Fin 8) (d : Fin 16) (s : State) : Out :=
  samplerOp t g grp (plainOp t grp "DEDUP" (dedupNamed d) (dedupEffect t d)) s

/-! ### The graph table and its rows (R121 to R128) -/

/-- A graph table (Table 5.1). -/
structure Graph where
  addr : Nat
  hasWeights : Bool
  bf16 : Bool
  hasTimes : Bool
  hasAlias : Bool
  snLog2 : Nat
  nodes : Nat
  edges : Nat
  rows : Nat
  cols : Nat
  weights : Nat
  times : Nat
  aliases : Nat
  bitmaps : Nat
  supers : Nat
  deriving DecidableEq, Repr

/-- Reads and checks a graph table (R121). A node_count out of its range makes it malformed as well (DESIGN CHOICE, log entry 57). -/
def readGraph (s : State) (ctx a : Nat) : Except Bad Graph := do
  alignCheck 0 a 64
  let w ← smNat s ctx a 128
  let z := fun hi lo => bitsN w hi lo = 0
  let sn := bitsN w 21 16
  if verOk (bitsN w 3 0) && z 7 4 && z 15 13 && (sn = 0 || (16 ≤ sn && sn ≤ 40)) && z 31 22 && z 79 73 && z 1023 576
      && 1 ≤ bitsN w 72 32 && bitsN w 72 32 ≤ 2 ^ 40
  then return {
    addr := a, hasWeights := bitN w 8, bf16 := bitN w 9, hasTimes := bitN w 10, hasAlias := bitN w 12,
    snLog2 := if sn = 0 then s.sm.snDefault.toNat else sn, nodes := bitsN w 72 32, edges := bitsN w 127 80,
    rows := bitsN w 191 128, cols := bitsN w 255 192, weights := bitsN w 319 256, times := bitsN w 383 320,
    aliases := bitsN w 447 384, bitmaps := bitsN w 511 448, supers := bitsN w 575 512 }
  else .error (.violation 0 4 a)

/-- A row entry (Table 5.2). -/
structure Row where
  at' : Nat
  start : Nat
  degree : Nat
  form : Nat
  aux : Nat
  deriving DecidableEq, Repr

/-- The row of a node (R122, R134). Form 3 is reserved and fails as check 4 (DESIGN CHOICE, log entry 16). -/
def readRow (s : State) (ctx : Nat) (g : Graph) (v : Nat) : Except Bad Row := do
  let a := g.rows + 16 * v
  let w ← smNat s ctx a 16
  let r : Row := ⟨a, bitsN w 47 0, bitsN w 87 48, bitsN w 89 88, bitsN w 127 96⟩
  smCheck (r.start + r.degree ≤ g.edges) 8 a
  smCheck (r.form ≠ 3) 4 a
  return r

/-- Supernode treatment (R125). -/
def Row.super (r : Row) (g : Graph) : Bool := r.form = 2 || (r.form = 0 && r.degree ≥ 2 ^ g.snLog2)

/-- Numbers of the set bits of a word. -/
def bitsSet (w : Nat) : List Nat := (List.range 64).filter fun i => bitN w i

/-- Words of a bitmap record from a on, none of them zero (R124). -/
def bitmapWords (s : State) (ctx record a n : Nat) : Except Bad (List Nat) := do
  let ws ← readEach (fun i => smNat s ctx (a + 8 * i) 8) (List.range n)
  smCheck (ws.all fun w => w ≠ 0) 1 record
  return ws

/-- The columns of a bitmap row in increasing order (R123, R124). col_base is taken as it stands in its 40 bits: the rule
checks no more of it (log entry 16). -/
def bitmapCols (s : State) (ctx : Nat) (g : Graph) (r : Row) : Except Bad (List Nat) := do
  let a := g.bitmaps + 64 * r.aux
  alignCheck 0 a 64
  let base := (← smNat s ctx a 8) % 2 ^ 40
  let l0 ← smNat s ctx (a + 8) 8
  let segs := bitsSet l0
  let l1 ← bitmapWords s ctx a (a + 16) segs.length
  let groups := (segs.zip l1).flatMap fun p => (bitsSet p.2).map fun j => 64 * p.1 + j
  let l2 ← bitmapWords s ctx a (a + 16 + 8 * segs.length) groups.length
  let cols := (groups.zip l2).flatMap fun p => (bitsSet p.2).map fun b => base + 64 * p.1 + b
  smCheck (cols.length = r.degree) 1 a
  smCheck (base + 2 ^ 18 ≤ g.nodes || (match cols.getLast? with | some c => decide (c < g.nodes) | none => false)) 1 a
  return cols

/-- Columns of chosen ranks (R122, R123, R134). The bitmap record is read where some rank is chosen. -/
def readCols (s : State) (ctx : Nat) (g : Graph) (r : Row) (ranks : List Nat) : Except Bad (List Nat) :=
  if ranks.isEmpty then .ok []
  else if r.form = 1 then do
    let cs ← bitmapCols s ctx g r
    return ranks.map fun k => cs.getD k 0
  else readEach (fun k => do
    let a := g.cols + 5 * (r.start + k)
    let c ← smNat s ctx a 5
    smCheck (c < g.nodes) 2 a
    return c) ranks

/-! ### Draws (R135) -/

/-- The draws of one frontier entry at one hop. -/
structure Draws where
  seed : Word
  node : Nat
  hop : Nat
  deriving DecidableEq, Repr

/-- B(e). -/
def Draws.block (b : Draws) (e : Nat) : Mix := keyed b.seed (BitVec.ofNat 40 b.node) (BitVec.ofNat 24 (b.hop * 2 ^ 21 + e))
/-- Bits [63:0] of a draw. -/
def Draws.low (b : Draws) (e : Nat) : Nat := (b.block e).toNat % 2 ^ 64
def Draws.uint (b : Draws) (e m : Nat) : Nat := b.low e * m / 2 ^ 64
def Draws.coin (b : Draws) (e : Nat) : Nat := bitsN (b.block e).toNat 95 64

/-! ### The kinds on plain rows (R136 to R139) -/

/-- Floyd's selection of f ranks out of d (R136). -/
def floyd (b : Draws) (d f : Nat) : List Nat :=
  if d ≤ f then List.range d
  else
    ((List.range f).foldl (fun (chosen : List Nat) i =>
      let j := d - f + i
      let t := b.uint (1 + i) (j + 1)
      if chosen.contains t then j :: chosen else t :: chosen) []).mergeSort

/-- An alias entry of a table of n entries that starts at edge position e0 (R126, R134): keep and alias. -/
def readAlias (s : State) (ctx : Nat) (g : Graph) (e0 n k : Nat) : Except Bad (Nat × Nat) := do
  let a := g.aliases + 8 * (e0 + k)
  let w ← smNat s ctx a 8
  smCheck (bitsN w 63 32 < n) 3 a
  return (bitsN w 31 0, bitsN w 63 32)

/-- One draw from an alias table, with draw index i (R137). -/
def aliasDraw (s : State) (ctx : Nat) (g : Graph) (b : Draws) (e0 n i : Nat) : Except Bad Nat := do
  let k := b.uint i n
  let (keep, other) ← readAlias s ctx g e0 n k
  return if b.coin i < keep then k else other

/-- Timestamp of an edge position. -/
def readTime (s : State) (ctx : Nat) (g : Graph) (e : Nat) : Except Bad Nat := smNat s ctx (g.times + 4 * e) 4

/-- The binary search of R138 over [lo, hi). -/
def lowerRank (s : State) (ctx : Nat) (g : Graph) (start x : Nat) : Nat → Nat → Nat → Except Bad Nat
  | 0, lo, _ => .ok lo
  | fuel + 1, lo, hi =>
    if lo < hi then do
      let mid := (lo + hi) / 2
      let ts ← readTime s ctx g (start + mid)
      if ts < x then lowerRank s ctx g start x fuel (mid + 1) hi else lowerRank s ctx g start x fuel lo mid
    else .ok lo

/-- Weight of an edge position as an exact value (R139). -/
def readWeight (s : State) (ctx : Nat) (g : Graph) (e : Nat) : Except Bad Val := do
  let n := if g.bf16 then 2 else 4
  let a := g.weights + n * e
  let w ← smNat s ctx a n
  let v := f32 (BitVec.ofNat 32 (if g.bf16 then w * 65536 else w))
  smCheck (v ≠ .nan) 7 a
  return v

/-- The ranks of the f greatest weights, decreasing, the lower rank first among equal ones (R139). -/
def topK (ws : List Val) (f : Nat) : List Nat :=
  ((((List.range ws.length).zip ws).mergeSort fun a b =>
    if b.2.lt a.2 then true else if a.2.lt b.2 then false else decide (a.1 ≤ b.1)).take f).map (·.1)

/-! ### Supernodes (R145, R146) -/

/-- The first draw of a stratum that is not chosen; after the last one the lowest free rank is taken (R145). -/
def stratumDraw (b : Draws) (chosen : List Nat) (j lo hi : Nat) : Nat → Nat → Nat
  | 0, _ => ((List.range (hi - lo)).map (lo + ·)).find? (fun x => !chosen.contains x) |>.getD lo
  | fuel + 1, r =>
    let x := lo + b.uint (1 + j + 1024 * r) (hi - lo)
    if chosen.contains x then stratumDraw b chosen j lo hi fuel (r + 1) else x

/-- Stratified selection of f ranks out of [a, a + d), in order of the strata (R145). -/
def strata (b : Draws) (a d f : Nat) : List Nat :=
  (List.range f).foldl (fun (chosen : List Nat) j =>
    let p := a + (j * 2 ^ 64 + b.low 0) * d / (f * 2 ^ 64)
    let k := p / 65536
    chosen ++ [stratumDraw b chosen j (max a (65536 * k)) (min (a + d) (65536 * (k + 1))) 2047 0]) []

/-- A value rounded to FP64. -/
def round64 (v : Val) : Val := fmt64.val (fmt64.enc false v)
def div64 (a b : Val) : Val :=
  let q := a.div b
  fmt64.val (fmt64.enc q.2 q.1)

/-- A supernode record (Table 5.3). -/
structure Super where
  at' : Nat
  count : Nat
  total : Val
  chunks : Nat

/-- Reads the record of a form 2 row (R125, R127). -/
def readSuper (s : State) (ctx : Nat) (g : Graph) (r : Row) : Except Bad Super := do
  smCheck (r.form = 2) 4 r.at'
  let a := g.supers + 64 * r.aux
  alignCheck 0 a 64
  let w ← smNat s ctx a 64
  smCheck (bitsN w 39 0 = (r.degree + 65535) / 65536) 4 a
  return ⟨a, bitsN w 39 0, fmt64.val (bitsN w 127 64), bitsN w 191 128⟩

/-- cum_before of chunk k, checked against the values read on either side (R146). -/
def readCum (s : State) (ctx : Nat) (p : Super) (k : Nat) (below above : Val) : Except Bad Val := do
  let a := p.chunks + 16 * k
  let c := fmt64.val (bitsN (← smNat s ctx a 16) 63 0)
  let fin := match c with | .fin .. => true | _ => false
  smCheck (fin && !c.lt (.fin false 0 0) && !c.lt below && !above.lt c) 5 a
  return c

/-- The binary search of R146 between a chunk lo with its cum_before and a bound hi with its value. Which entries it reads, and so
which bad one ends the parcel, is the model's choice: entry 0 for every stratum, then midpoints; where no chunk serves, the last
one looked at is named (DESIGN CHOICE, log entry 57). -/
def chunkSearch (s : State) (ctx : Nat) (p : Super) (q : Val) : Nat → Nat → Nat → Val → Val → Except Bad (Nat × Val × Val)
  | 0, lo, _, cl, ch => .ok (lo, cl, ch)
  | fuel + 1, lo, hi, cl, ch =>
    if hi ≤ lo + 1 then .ok (lo, cl, ch)
    else do
      let mid := (lo + hi) / 2
      let c ← readCum s ctx p mid cl (if hi = p.count then .inf false else ch)
      if q.lt c then chunkSearch s ctx p q fuel lo mid cl c else chunkSearch s ctx p q fuel mid hi c ch

/-- Stratum j of a weighted hop (R146). -/
def weightedStratum (s : State) (ctx : Nat) (g : Graph) (r : Row) (p : Super) (b : Draws) (f j : Nat) :
    Except Bad Nat := do
  let u := round64 (.fin false (b.low 0) (-64))
  let q := div64 (round64 ((round64 ((Val.fin false j 0).add u)).mul p.total)) (.fin false f 0)
  let c0 ← readCum s ctx p 0 (.fin false 0 0) (.inf false)
  let (k, cl, ch) ← chunkSearch s ctx p q 41 0 p.count c0 p.total
  smCheck (q ≠ .nan && !q.lt cl && q.lt ch) 5 (p.chunks + 16 * k)
  let n := min 65536 (r.degree - 65536 * k)
  return 65536 * k + (← aliasDraw s ctx g b (r.start + 65536 * k) n (1 + j))

/-! ### Hops and blocks (R141 to R144) -/

/-- A hop entry (Table 5.7). -/
structure HopEntry where
  kind : Nat
  latest : Bool
  fanout : Nat
  window : Nat
  deriving DecidableEq, Repr

/-- Reads and checks hop entry h (R133). -/
def readHop (s : State) (ctx : Nat) (n : Nat) (lvl2 : Bool) (h : Nat) : Except Bad HopEntry := do
  let a := bitsN n 255 192 + 16 * h
  let w ← smNat s ctx a 16
  let e : HopEntry := ⟨bitsN w 2 0, bitN w 3, bitsN w 18 8, bitsN w 63 32⟩
  let z := fun hi lo => bitsN w hi lo = 0
  if e.kind ≤ 3 && z 7 4 && z 31 19 && z 127 64 && 1 ≤ e.fanout && e.fanout ≤ 1024
      && (e.kind = 2 || (!e.latest && e.window = 0)) && (e.kind ≠ 2 || bitN n 12)
      && (e.kind < 2 || (lvl2 && bitsN n 3 0 = 2))
  then return e
  else .error (.violation 5 4 a)

/-- A hop's arrays are there (R121). -/
def hopArrays (g : Graph) (e : HopEntry) : Bool :=
  match e.kind with
  | 1 => g.hasAlias | 2 => g.hasTimes | 3 => g.hasWeights | _ => true

/-- Ranks that a frontier entry emits, and whether they were drawn by strata (R136 to R147). The record of a form 2 row is read by
weighted hops alone, and a top-k hop reads every weight of its row (DESIGN CHOICE, log entry 57). -/
def expandRow (s : State) (ctx : Nat) (g : Graph) (e : HopEntry) (r : Row) (b : Draws) (t : Nat) :
    Except Bad (List Nat × Bool) :=
  let d := r.degree
  let f := e.fanout
  match e.kind with
  | 0 => .ok (if r.super g && d > f then (strata b 0 d f, true) else (floyd b d f, false))
  | 1 =>
    if d = 0 then .ok ([], false)
    else if r.super g then do
      let p ← readSuper s ctx g r
      return (← readEach (weightedStratum s ctx g r p b f) (List.range f), true)
    else do
      return (← readEach (fun j => aliasDraw s ctx g b r.start d (1 + j)) (List.range f), false)
  | 2 => do
    let lo ← lowerRank s ctx g r.start (t - e.window) 41 0 d
    let hi ← lowerRank s ctx g r.start t 41 0 d
    if e.latest then
      let from' := max lo (hi - f)
      return ((List.range (hi - from')).map (from' + ·), false)
    else if r.super g && hi - lo > f then return (strata b lo (hi - lo) f, true)
    else return ((floyd b (hi - lo) f).map (lo + ·), false)
  | _ => do
    let ws ← readEach (fun k => readWeight s ctx g (r.start + k)) (List.range d)
    return (topK ws f, false)

/-- A frontier entry: node and time. -/
abbrev Entry := Nat × Nat

/-- A block as it grows. -/
structure Block where
  segs : List Nat
  edges : List (Nat × Nat × Nat)     -- edge position, source index, timestamp
  srcs : List Entry
  rows : List (Nat × Nat)            -- rows expanded, by group of work
  written : List (Nat × Nat)         -- edges, by group of work

/-- Adds a source, and answers its index (R142). -/
def addSource (e : Entry) (srcs : List Entry) : List Entry × Nat :=
  if srcs.contains e then (srcs, srcs.idxOf e) else (srcs ++ [e], srcs.length)

/-- Expands destination i of hop h (R142). -/
def expandOne (s : State) (ctx : Nat) (g : Graph) (timed : Bool) (h : Nat) (e : HopEntry) (blk : Block)
    (di : Nat × Entry) : Except Bad Block := do
  let (i, v, t) := di
  let r ← readRow s ctx g v
  let key := (s.ctx ctx).samplingKey
  let b : Draws := ⟨if e.kind = 2 then key ^^^ BitVec.ofNat 64 t else key, v, h⟩
  let (ranks, strat) ← expandRow s ctx g e r b t
  let cols ← readCols s ctx g r ranks
  let times ← if g.hasTimes then readEach (fun k => readTime s ctx g (r.start + k)) ranks else .ok []
  let es := (ranks.zip cols).zip (takePad 0 ranks.length times)
  let (srcs, edges) := es.foldl (fun (acc : List Entry × List (Nat × Nat × Nat)) (x : (Nat × Nat) × Nat) =>
    let time := if !timed then 0 else if e.kind = 2 then x.2 else t
    let (srcs, k) := addSource (x.1.2, time) acc.1
    (srcs, acc.2 ++ [(r.start + x.1.1, k, x.2)])) (blk.srcs, blk.edges)
  let base := h * 2 ^ 34
  let groups := if strat then (List.range ((e.fanout + 63) / 64)).map fun k => (base + 2 ^ 33 + 16 * i + k, 1)
    else [(base + i / 64, 1)]
  return { segs := blk.segs ++ [edges.length], edges := edges, srcs := srcs, rows := blk.rows ++ groups,
           written := blk.written ++ (if strat then (List.range ranks.length).map fun j => (base + 2 ^ 33 + 16 * i + j / 64, 1)
             else [(base + i / 64, ranks.length)]) }

/-- A section padded to 64 bytes (R143). -/
def pad64 (bs : List Byte) : List Byte := takePad 0 (roundUp bs.length 64) bs

/-- The bytes of block h (R143), with the number of duplicate seeds and whether another block follows. -/
def blockBytes (h : Nat) (timed : Bool) (dsts : Nat) (blk : Block) (dup a : Nat) (last : Bool) : List Byte :=
  let segs := pad64 (blk.segs.flatMap (leBytes 4))
  let edges := pad64 (blk.edges.flatMap fun e => leBytes 16 (e.1 + e.2.1 * 2 ^ 48 + e.2.2 * 2 ^ 80))
  let srcs := pad64 (blk.srcs.flatMap fun e => leBytes 8 e.1)
  let times := if timed then pad64 (blk.srcs.flatMap fun e => leBytes 4 e.2) else []
  let so := 1 + segs.length / 64
  let ro := so + edges.length / 64
  let tmo := ro + srcs.length / 64
  let next := a + 64 * tmo + times.length
  let head := 2 + h * 2 ^ 4 + b2n timed * 2 ^ 7 + dsts * 2 ^ 32 + blk.srcs.length * 2 ^ 64 + blk.edges.length * 2 ^ 96
    + (if last then 0 else next) * 2 ^ 128 + dup * 2 ^ 192 + 1 * 2 ^ 256 + so * 2 ^ 288 + ro * 2 ^ 320
    + (if timed then tmo else 0) * 2 ^ 352
  leBytes 64 head ++ segs ++ edges ++ srcs ++ times

/-- One hop: its block is written where it fits the region (R143, R144). `src` is the state from which each destination of each hop
is expanded; the answer holds the next block's address and destinations. -/
def sampleHop (t : Who) (by' : Writer) (src : Nat → Nat → State) (g : Graph) (timed : Bool) (dup limit hops : Nat)
    (acc : State × Nat × List Entry) (he : Nat × HopEntry) : Except Bad (State × Nat × List Entry) := do
  let (s, a, dsts) := acc
  let blk ← ((List.range dsts.length).zip dsts).foldlM
    (fun b di => expandOne (src he.1 di.1) by'.ctx g timed he.1 he.2 b di) ⟨[0], [], dsts, [], []⟩
  let bs := blockBytes he.1 timed dsts.length blk (if he.1 = 0 then dup else 0) a (decide (he.1 + 1 = hops))
  if a + bs.length > limit || blk.srcs.length ≥ 2 ^ 32 || blk.edges.length ≥ 2 ^ 32 then .error (.violation 1 4 limit)
  else
    let s1 ← devWrite s by' (Use.of 1 [.near]) a bs
    return ({ s1 with sm := { s1.sm with
      rows := bumpGroups s (Who.die t) s1.sm.rows blk.rows
      edges := bumpGroups s (Who.die t) s1.sm.edges blk.written } }, a + bs.length, blk.srcs)

/-- The hops in order: blocks complete before a fault stay written. The answer holds the end of the blocks and every node
met. -/
def sampleHops (step : State × Nat × List Entry → Nat × HopEntry → Except Bad (State × Nat × List Entry)) :
    List (Nat × HopEntry) → State × Nat × List Entry → State × Except Bad (Nat × List Entry)
  | [], acc => (acc.1, .ok acc.2)
  | e :: r, acc =>
    match step acc e with
    | .ok acc' => sampleHops step r acc'
    | .error b => (acc.1, .error b)

/-- The descriptor of a SAMPLE (R133, Table 5.6). An output region that is not aligned to 64 bytes makes it malformed (DESIGN CHOICE,
log entry 57). -/
def sampleOk (n : Nat) : Bool :=
  let z := fun hi lo => bitsN n hi lo = 0
  verOk (bitsN n 3 0) && bitsN n 7 4 = 9 && 1 ≤ bitsN n 11 8 && bitsN n 11 8 ≤ 8 && z 31 13 && 1 ≤ bitsN n 56 32
    && bitsN n 56 32 ≤ 2 ^ 24 && z 63 57 && bitsN n 319 256 % 64 = 0 && z 511 360

/-- A seed (R134). -/
def readSeed (s : State) (ctx : Nat) (g : Graph) (timed : Bool) (a : Nat) : Except Bad Entry := do
  let w ← smNat s ctx a (if timed then 16 else 8)
  smCheck (bitsN w 39 0 < g.nodes) 6 a
  return (bitsN w 39 0, if timed then bitsN w 95 64 else 0)

/-- The ranges of a graph that a SAMPLE of these hops over these nodes reads (R121): the table, the arrays, and the bitmap and
supernode records of the nodes' rows. A bitmap record holds at most 33,296 bytes. -/
def graphRanges (s : State) (ctx : Nat) (g : Graph) (hs : List HopEntry) (nodes : List Nat) : List (Nat × Nat) :=
  let uses := fun (kind : Nat) => hs.any fun e => e.kind = kind
  let records := nodes.flatMap fun v => match readRow s ctx g v with
    | .ok r =>
      if r.form = 1 then [(g.bitmaps + 64 * r.aux, 33296)]
      else if r.form = 2 && uses 1 then match readSuper s ctx g r with
        | .ok p => [(p.at', 64), (p.chunks, 16 * p.count)]
        | .error _ => [(g.supers + 64 * r.aux, 64)]
      else []
    | .error _ => []
  [(g.addr, 128), (g.rows, 16 * g.nodes), (g.cols, 5 * g.edges)]
    ++ (if uses 3 then [(g.weights, (if g.bf16 then 2 else 4) * g.edges)] else [])
    ++ (if g.hasTimes then [(g.times, 4 * g.edges)] else [])
    ++ (if uses 1 then [(g.aliases, 8 * g.edges)] else []) ++ records

/-- Address of a SAMPLE's output region. -/
def sampleOut (n : Nat) : Nat := bitsN n 319 256

/-- What a SAMPLE starts from: its graph, read from the state `g`, its hops and its seeds. -/
def sampleStart (x : Task) (n : Nat) (g s : State) : Except Bad (Graph × List HopEntry × List Entry) := do
  let timed := bitN n 12
  let hs ← readEach (readHop s x.ctx n (level2 x)) (List.range (bitsN n 11 8))
  let gr ← readGraph g x.ctx (bitsN n 127 64)
  if hs.all (hopArrays gr) then .ok () else .error (.violation 0 4 gr.addr)
  let _ ← range s x.ctx (Use.of 1 [.near]) (sampleOut n) (64 * bitsN n 359 320)
  let seeds ← readEach (fun i => readSeed s x.ctx gr timed (bitsN n 191 128 + (if timed then 16 else 8) * i))
    (List.range (bitsN n 56 32))
  return (gr, hs, seeds)

/-- A whole SAMPLE: its blocks are written one after the other. `src` is the state from which each destination of each hop is
expanded; the answer holds the end of the blocks and the ranges of the graph that it has read. The checks come in the order of this
text: hop entries, graph table, output region, seeds, then hop by hop (DESIGN CHOICE, log entry 57). -/
def sampleRun (t : Who) (x : Task) (by' : Writer) (n : Nat) (src : Nat → Nat → State) (s : State) :
    State × Except Bad (Nat × List (Nat × Nat)) :=
  match sampleStart x n (src 8 0) s with
  | .error b => (s, .error b)
  | .ok (gr, hs, seeds) =>
    let d0 := seeds.foldl (fun (l : List Entry) e => (addSource e l).1) []
    let (s1, r) := sampleHops
      (sampleHop t by' src gr (bitN n 12) (seeds.length - d0.length) (sampleOut n + 64 * bitsN n 359 320) hs.length)
      ((List.range hs.length).zip hs) (s, sampleOut n, d0)
    ({ s1 with freeCount := s1.freeCount + 1 }, r.map fun x => (x.1, graphRanges (src 8 0) by'.ctx gr hs (x.2.map (·.1)).dedup))

/-- One of the bytes that a write replaced, or what stands there: a free bit for each byte chooses (R120). -/
def mixBefore (s : State) (place : Nat) (m : Mem) (x : Nat × Before) : Mem :=
  let b := x.2
  m.setTier b.tier (Memory.write (m.tier b.tier) b.addr ((List.range b.bytes).map fun j =>
    if (Config.freeWord s.freeCount ((place * 2 ^ 32 + x.1) * 2 ^ 48 + j)).getLsbD 0 then Memory.byte b.cells j
    else Memory.byte (m.tier b.tier) (b.addr + j)))

/-- The state from which a SAMPLE expands destination i of hop h at its finish: some mixture of what stood in memory since its issue
and of what stands there, with the keys and the stash records as they stood at its issue (R120, R129, R264). -/
def AsyncOp.mixture (o : AsyncOp) (s : State) (h i : Nat) : State :=
  let m := ((List.range o.before.length).zip o.before).foldl (mixBefore s (h * 2 ^ 32 + i)) s.mem
  let m' := o.binds.foldl (fun (m : Mem) r => match translatePage s o.ctx (Use.of 0 nearFar) r.1 with
    | .ok (t, a) => m.setTier t (Memory.write (m.tier t) a r.2)
    | .error _ => m) m
  { s.modCtx o.ctx (fun c => { c with samplingKey := o.key }) with mem := m' }

/-- What SAMPLE does to the state at its issue, with its record or with what ends its parcel: what fails, fails at once, and the blocks
are written at its finish (log entry 9). -/
def sampleEffect (t : Who) (grp : Fin 8) (d : Fin 16) (id : Nat) (x : Task) (s : State) : State × Except Bad AsyncOp :=
  let n := (x.desc d).toNat
  match (do
    descCheck (sampleOk n) d.val
    samplersCheck s (Who.die t) : Except Bad Unit) with
  | .error b => (s, .error b)
  | .ok _ =>
    match sampleRun t x (x.writer t) n (fun _ _ => s) s with
    | (s1, .error b) => (s1, .error b)
    | (_, .ok (stop, ranges)) =>
      ({ s with freeCount := s.freeCount + 1 },
        .ok (AsyncOp.bind { AsyncOp.of id t x grp.val "SAMPLE" with desc := x.desc d, key := (s.ctx x.ctx).samplingKey } s
          ⟨(sampleOut n, stop - sampleOut n) :: ranges, []⟩))

/-- SAMPLE (R133 to R148). -/
def execSample (t : Who) (g : Guard) (grp : Fin 8) (d : Fin 16) (s : State) : Out :=
  samplerOp t g grp (sampleEffect t grp d) s

end Sys2Proof.Machine
end

