-- ==== Sys2Proof/Machine/Async.lean ====
section
/-! DEFINITION. The finish of asynchronous instructions: read replies, deadlines, tag timeouts, reports and completion
groups (04_selod_isa.md R90, R104; 06_gather_aggregate.md R158, R165, R170 to R173; 07_cube_array.md R203, R204). -/

namespace Sys2Proof.Machine

open Sys2Proof

/-! ### Records of asynchronous instructions and their tags -/

def findTag (s : State) (tag : Nat) : Option Tag := s.tags.find? fun t => t.tag = tag

/-- The tag is abandoned: its reply will be discarded (R87). -/
def abandonTag (tag : Nat) (s : State) : State :=
  { s with tags := s.tags.map fun t => if t.tag = tag then { t with abandoned := true } else t }

/-! ### Positions -/

/-- Rows of position i of a schedule that are undecided fall by one; at the last one the position has been decided. -/
def countDown (i : Nat) (o : AsyncOp) : AsyncOp :=
  { o with posOpen := o.posOpen.map fun p => if p.pos = i then { p with left := p.left - 1 } else p }

/-- Bits as bytes, bit i mod 8 of byte i div 8, in whole words of 8 bytes. -/
def bitBytes (bs : List Bool) : List Byte :=
  (List.range ((bs.length + 63) / 64 * 8)).map fun i =>
    BitVec.ofNat 8 (((List.range 8).map fun k => b2n (bs.getD (8 * i + k) false) * 2 ^ k).sum)

/-- Rows and fallback of a prefetch entry (Table 11.6). -/
def pfRows (e : Nat) : Nat := bitsN e 79 64 + 1
def pfFallback (e : Nat) : Nat := bitsN e 146 144
def pfAlt (e : Nat) : Nat := bitsN e 255 192

/-- The valid bitmap of a position under fallback 4, one bit per row (R308). -/
def pfBitmap (o : AsyncOp) (p : PfPosition) (s : State) : Except Bad State :=
  if pfFallback p.entry = 4 then
    devWrite s o.writer (o.use 1 nearFar) (pfAlt p.entry)
      (bitBytes ((List.range (pfRows p.entry)).map fun r => !p.late.contains r))
  else .ok s

/-- The position is decided: its valid bitmap is written. -/
def finishPosition (o : AsyncOp) (s : State) (p : PfPosition) : State :=
  if p.left ≠ 0 || p.written then s
  else
    match pfBitmap o p s with
    | .error b => opFails o b s
    | .ok s1 => modOp o.id (fun x => { x with posOpen := x.posOpen.map fun q =>
        if q.pos = p.pos then { q with written := true } else q }) s1

/-- The schedule announces a position with a SIGNAL(1) on its ready tally, on behalf of its task (R307). -/
def announce (o : AsyncOp) (s : State) (p : PfPosition) : State :=
  let task := match s.task o.who with
    | some t => t.taskIndex
    | none => 0
  { modOp o.id (fun x => { x with posOpen := x.posOpen.filter fun q => q.pos ≠ p.pos }) s with
    mt := { s.mt with pfEntries := satAdd top48 s.mt.pfEntries 1 }
    inflight := s.inflight ++ [⟨.signal 1, o.pfTally + p.pos % o.pfBuffers, o.who, o.ctx, o.hostSeq, some o.id, task, 0, false⟩] }

/-- Announces the positions whose every row has been decided. The SIGNAL releases: it waits for the held writes of the task, the
valid bitmap's among them (R107, R307). -/
def signalReady (id : Nat) (s : State) : State :=
  match findOp s id with
  | none => s
  | some o =>
    let s1 := o.posOpen.foldl (finishPosition o) s
    match findOp s1 id with
    | none => s1
    | some o1 => if heldBy s1 o.who then s1 else (o1.posOpen.filter (·.written)).foldl (announce o1) s1

/-- Announces the positions that have waited for a held write; the module does so while no command waits. -/
def announceHeld (s : State) : State := (s.ops.map (·.id)).foldl (fun (x : State) id => signalReady id x) s

/-- A row is decided: it is written at its place, counted at its engine, and no more open. -/
def decideRow (o : AsyncOp) (p : Position) (bs : List Byte) (nonfin : Nat) (s : State) : State :=
  match putRow o p bs s with
  | .error b => opFails o b s
  | .ok s1 =>
    let s2 := countNum o.ctx o.hostSeq (Who.die o.who) ⟨0, nonfin⟩ (if o.name = "SCOPY" || o.name = "MASK" then s1 else countRows p.unit 1 s1)
    signalReady o.id (modOp o.id (fun x =>
      countDown p.index { x with openPos := x.openPos.filter fun q => q.tag ≠ p.tag }) s2)

/-- The bytes that a remote row gives its position: the row as a GATHER delivers it, or the part that a copy takes. -/
def remoteBytes (o : AsyncOp) (p : Position) (row : List Byte) : List Byte × Nat :=
  if o.name = "GATHER" then
    let g := gatherDescOf o.desc.toNat
    convertRow g.rowFmt g.outFmt g.elems row
  else (takePad 0 p.len (row.drop p.off), 0)

/-! ### Replies (R170, R172, R424) -/

/-- Address that an engine reads a position's row from, or the tile that holds it. -/
def rowSource (p : Position) : Nat := p.off

/-- Die of an engine (R155). -/
def engineDie (unit : Nat) : Nat := if unit < 64 then unit / 8 else 8 + (unit - 64) / 4

/-- The detected error that a row's read met: the unit of its tier, or the engine where it has read no memory of its own. -/
def rowErr (s : State) (p : Position) : DataErr :=
  let va := rowSource p
  match p.src.head? with
  | some (t, a, _) => tierErr s va t a
  | none => ⟨7, 3, p.unit, engineDie p.unit, va, none⟩

/-- A row that meets a detected error is written as zeros, takes no fallback, and its context's step is dirty (R172). -/
def rowInError (o : AsyncOp) (p : Position) (e : DataErr) (s : State) : State :=
  detected o.ctx o.hostSeq e (decideRow o p (List.replicate p.bytes.length 0) 0 s)

/-- What a row is read from waits for a part of the flash map (R315, R399). -/
def Position.mapWaits (p : Position) (s : State) : Bool :=
  match checkPieces s 0 p.src with
  | .error .wait => true
  | _ => false

/-- A row's read has come back: its tile, its data and the engine's buffer pass their codes, or the row is in error (R172,
R424). -/
def deliverRow (o : AsyncOp) (p : Position) (s : State) : State :=
  match p.bad with
  | some e => rowInError o p e s
  | none =>
  if bufferBad s 3 p.unit then rowInError o p (bufferErr 3 p.unit (engineDie p.unit)) s
  else
    match checkPieces s (rowSource p) p.src with
    | .error (.detected e) => rowInError o p e s
    | _ => decideRow o p p.bytes p.nonfin s

/-- ENGINE_READ_REPLY (R170). A read that waited for its place among the outstanding ones goes out then (R156). While the part
of the flash map that a read needs is missing, no good reply to it comes (R315). -/
def execEngineReadReply (tag : Nat) (outcome : ReadOutcome) (s : State) : Out :=
  match findTag s tag with
  | none => go s
  | some t =>
    match t.use with
    | .engine id .. =>
      if t.abandoned then go s
      else
        let s1 := dropTag tag s
        match (findOp s id).bind fun o => (o.openPos.find? fun p => p.tag = tag).map (o, ·) with
        | none => go (lateReads s1)
        | some (o, p) =>
          match outcome with
          | .good => if p.mapWaits s then go s else go (lateReads (deliverRow o p s1))
          | .detected => go (lateReads (rowInError o p (rowErr s p) s1))
    | _ => go s

/-- ABANDONED_REPLY (R87). -/
def execAbandonedReply (tag : Nat) (s : State) : Out :=
  match findTag s tag with
  | some t => if t.abandoned then go (lateReads (dropTag tag s)) else go s
  | none => go s

/-- The detected error of a tag that has timed out (R158, R362). -/
def timeoutErr (s : State) (t : Tag) : DataErr :=
  let o := match t.use with
    | .engine id .. => findOp s id
    | .remoteRow id => findOp s id
    | .write id => findOp s id
    | _ => none
  let die := match t.use with
    | .engine _ u _ => engineDie u
    | .remoteLoad w .. => Who.die w
    | .remoteStore w => Who.die w
    | _ => match o with
      | some o => Who.die o.who
      | none => 8
  let unit := match t.use with
    | .engine _ u _ => u
    | .remoteRow _ => match o with
      | some o => match o.openPos.find? fun p => p.tag = t.tag with
        | some p => p.unit
        | none => 8 * die
      | none => 8 * die
    | _ => 8 * die
  let charged := match t.use with
    | .engine .. => true
    | .remoteRow _ => true
    | .write _ => true
    | _ => false
  ⟨8, if charged then 3 else 0, if charged then unit else 0, die, t.window.toNat, none⟩

/-- What waits for the answer goes on: a row is written as zeros, and a task is no longer held. -/
def timedOut (t : Tag) (s : State) : State :=
  match t.use with
  | .engine id u src =>
    let s0 := { s with mt := if hostReads src = 0 then s.mt else { s.mt with detHost := satAdd top48 s.mt.detHost 1 } }
    let s1 := { s0 with sl := { s0.sl with expired := s0.sl.expired.bump u 1 } }
    match findOp s1 id with
    | some o => match o.openPos.find? fun p => p.tag = t.tag with
      | some p => decideRow o p (List.replicate p.bytes.length 0) 0 s1
      | none => s1
    | none => s1
  | .remoteRow id =>
    match findOp s id with
    | some o => match o.openPos.find? fun p => p.tag = t.tag with
      | some p => decideRow o p (List.replicate p.bytes.length 0) 0
          { s with sl := { s.sl with expired := s.sl.expired.bump p.unit 1 } }
      | none => s
    | none => s
  | .remoteLoad w .. => hold w .ready s
  | .remoteStore w => hold w .ready s
  | .bar4 _ n => answerRead (List.replicate n 0) true s
  | _ => s

/-- TAG_TIMEOUT (R158). An abandoned tag returns to its pool; any other is a detected data error on its row. -/
def execTagTimeout (tag : Nat) (s : State) : Out :=
  match findTag s tag with
  | none => go s
  | some t =>
    let s1 := dropTag tag s
    go (lateReads (if t.abandoned then s1 else detected t.ctx t.hostSeq (timeoutErr s t) (timedOut t s1)))

/-! ### Deadlines of a GATHER (R170 to R172) -/

/-- Counts a row taken by fallback (R172). -/
def countFallback (o : AsyncOp) (p : Position) (s : State) : State :=
  let s1 := s.modParcel o.ctx o.hostSeq fun q => { q with fallback := true }
  { s1 with sl := { s1.sl with fallback := satAdd top48 s1.sl.fallback 1, late := s1.sl.late.bump p.unit 1 } }

/-- An undecided position of a GATHER takes the fallback, and its reply is abandoned. A row whose fallback meets a detected error is
a row in error (R172). -/
def takeFallback (id : Nat) (s : State) (p : Position) : State :=
  match findOp s id with
  | none => s
  | some o =>
    match fallbackRow s o (gatherDescOf o.desc.toNat) p.row with
    | .error (.detected e) => rowInError o p e (abandonTag p.tag s)
    | .error b => opFails o b s
    | .ok (bs, n) =>
      let s1 := modOp id (fun x => { clearValid p.index x with lates := x.lates + 1 }) (abandonTag p.tag s)
      decideRow o p bs n (countFallback o p s1)

/-- Every undecided position of a GATHER takes the fallback. -/
def expireGather (o : AsyncOp) (s : State) : State := o.openPos.foldl (takeFallback o.id) s

/-- GATHER_DEADLINE (R170). -/
def execGatherDeadline (op : Nat) (s : State) : Out :=
  match findOp s op with
  | none => go s
  | some o =>
    if s.active && o.name = "GATHER" && o.deadline ≠ 0 then go (expireGather o s) else go s

/-! ### The finish (R90, R104, R165) -/

/-- The valid bitmap of fallback 4, a mask whose source came from other modules, and the report: an instruction's last acts
(R165, R171, R185). -/
def lastActs (o : AsyncOp) (s : State) : Except Bad State := do
  let by' := o.writer
  let s1 ← if o.name = "GATHER" && o.fallback = 4 then devWrite s by' (o.use 1 nearFar) o.validAddr (bitBytes o.valid) else .ok s
  let s2 ← match o.name, s.task o.who with
    | "MASK", some t => maskApply o.who t o.use o.desc.toNat o.data s1
    | _, _ => .ok s1
  if o.report ≠ 0 then devWrite s2 by' (o.use 1 nearFar) o.report (leBytes 8 o.dropped ++ leBytes 8 o.lates) else return s2

/-- n free bytes. -/
def freeBytes (s : State) (n : Nat) : List Byte :=
  (List.range n).map fun i => (Config.freeWord s.freeCount i).truncate 8

/-- A range of an instruction's results takes free bytes; what cannot be written is left. -/
def freeOut (o : AsyncOp) (s : State) (r : Bool × Nat × Nat) : State :=
  let bs := freeBytes s r.2.2
  let s1 := { s with freeCount := s.freeCount + 1 }
  if r.1 then cisPut o.who.core r.2.1 bs s1
  else
    match devWrite s1 o.writer (o.use 1 nearFarHost) r.2.1 bs with
    | .ok s2 => s2
    | .error _ => s1

/-- The results of an instruction whose operands were written before its finish are undefined: free values in the tile of an
MXM, and in the ranges that the others name (R203, R266). -/
def undefine (o : AsyncOp) (s : State) : State := o.outs.foldl (freeOut o) (freeTile o o.holds s)

/-- The instruction has nothing left to wait for: every position decided, every write answered, no write held, and an MXM
has had the array in its turn: its steps have started, or nothing withholds them (R204, R362, R390). -/
def opDone (s : State) (o : AsyncOp) : Bool :=
  o.openPos.isEmpty && o.posOpen.isEmpty && !heldBy s o.who
    && !(s.tags.any fun t => !t.abandoned && (t.use = .write o.id || t.use = .remoteRow o.id))
    && (o.name ≠ "MXM" || ((s.core o.who.core).mxmQueue.head? = some o.id && (o.steps = 0 || !withheld s o.who.core)))

/-- The core's array passes from an MXM to the next of the queue. -/
def leaveArray (o : AsyncOp) (s : State) : State :=
  if o.name = "MXM" then
    startArray o.who.core ((startSteps o s).modCore o.who.core fun c => { c with mxmQueue := c.mxmQueue.filter fun i => i ≠ o.id })
  else s

/-- The group's counter falls by one, and a task that has executed HALT ends with its last instruction (R104). An MXM whose
result still stands in its tile is remembered until a CWAIT covers it (R203). -/
def leaveGroup (o : AsyncOp) (s : State) : State :=
  let s0 := leaveArray o s
  let s1 := { s0 with
    ops := s0.ops.filter fun x => x.id ≠ o.id
    loose := s0.loose ++ if o.cells.isEmpty || o.spoiled then [] else [o] }
  match s1.task o.who with
  | none => s1
  | some t =>
    let t' := { t with groups := t.groups.put o.group (t.groups.get 0 o.group - 1) }
    let s2 := s1.setTask o.who t'
    if t'.status = .haltPending && t'.drained then retire o.who t' s2 else s2

/-- An MXM or accumulator move finds the array's parity in error (R217): its tile is undefined, but for what has been written anew
since its issue, and the step is dirty. -/
def arrayParity (o : AsyncOp) (s : State) : State :=
  if o.tile.isSome && s.errs.contains ⟨6, o.who.core, 0⟩ then
    detected o.ctx o.hostSeq (coreErr 6 o.who.core) (freeTile o (fun r c => (o.reach.getD r 0).testBit c) s)
  else s

/-- The ticks during which the samplers of a die had every read slot in use, which are free, are counted at the finish of an
instruction that reads memory (Table 5.16). -/
def countStarve (o : AsyncOp) (s : State) : State :=
  if o.name = "SAMPLE" || o.name = "DEDUP" then
    { s with
      sm := { s.sm with starve := (liveSamplers s (Who.die o.who)).foldl (fun (t : Tab Nat) k =>
        t.bump k (Config.freeWord s.freeCount (64 + k)).toNat) s.sm.starve }
      freeCount := s.freeCount + 1 }
  else s

/-- A SAMPLE gathers its blocks at its finish, from its graph as the writes made since its issue leave it open (R120); the state,
and the instruction with the range of its blocks. What ends its parcel leaves the blocks before it. -/
def sampleBlocks (o : AsyncOp) (s : State) : State × Except Bad AsyncOp :=
  match o.name, s.task o.who with
  | "SAMPLE", some t =>
    let (s1, r) := sampleRun o.who t o.writer o.desc.toNat (o.mixture s) s
    (s1, r.map fun x => { o with outs := [(false, sampleOut o.desc.toNat, x.1 - sampleOut o.desc.toNat)] })
  | _, _ => (s, .ok o)

/-- Finishes an instruction. -/
def finishOp (o0 : AsyncOp) (s0 : State) : State :=
  let (s, r) := sampleBlocks o0 s0
  match r.bind fun o => (lastActs o s).map (o, ·) with
  | .error b => opFails o0 b s
  | .ok (o, s1) =>
    let s2 := if o.spoiled then undefine o s1 else s1
    leaveGroup o (countStarve o (arrayParity o s2))

end Sys2Proof.Machine
end

