-- ==== Sys2Proof/Machine/Prefetch.lean ====
section
/-! DEFINITION. Prefetch schedules, and the finish of asynchronous instructions (11_memory_tiers.md R305 to R310;
04_selod_isa.md R90, R104). -/

namespace Sys2Proof.Machine

open Sys2Proof

/-! ### PFSCHED (R305, Table 11.5) -/

def AsyncOp.pfCount (o : AsyncOp) : Nat := bitsN o.desc.toNat 55 32
def AsyncOp.pfFirst (o : AsyncOp) : Nat := bitsN o.desc.toNat 135 96
def AsyncOp.pfBase (o : AsyncOp) : Nat := bitsN o.desc.toNat 191 160
def AsyncOp.pfBytes (o : AsyncOp) : Nat := bitsN o.desc.toNat 223 192
def AsyncOp.pfEntries (o : AsyncOp) : Nat := bitsN o.desc.toNat 319 256
def AsyncOp.pfStatus (o : AsyncOp) : Nat := bitsN o.desc.toNat 383 320
def AsyncOp.pfStatusLocal (o : AsyncOp) : Bool := bitN o.desc.toNat 12

def pfSrc (e : Nat) : Nat := bitsN e 63 0
/-- Bytes of a row (Table 11.6). -/
def pfLen (e : Nat) : Nat := 4 * (bitsN e 95 80 + 1)
def pfSrcStride (e : Nat) : Nat := bitsN e 127 96
def pfDstStride (e : Nat) : Nat := 64 * bitsN e 143 128
def pfFmt (e : Nat) : Nat := bitsN e 150 147
def pfAltFmt (e : Nat) : Nat := bitsN e 154 151
def pfDeadline (e : Nat) : Nat := bitsN e 175 160

/-- Elements of a row in its format. -/
def pfElems (e : Nat) : Nat := 8 * pfLen e / fmtWidth (pfFmt e)

/-- The rows of an entry. -/
def pfSources (e : Nat) : List (Nat × Nat) := (List.range (pfRows e)).map fun r => (pfSrc e + r * pfSrcStride e, pfLen e)

/-- The range at alt that an entry's fallback uses (R308). -/
def pfAltRange (e : Nat) : Option (Nat × Nat) :=
  match pfFallback e with
  | 1 => some (pfAlt e, (pfRows e - 1) * pfSrcStride e + pfLen e)
  | 2 => some (pfAlt e, pfRows e * rowStride (pfAltFmt e) (pfElems e))
  | 3 => some (pfAlt e, pfLen e)
  | 4 => some (pfAlt e, (pfRows e + 63) / 64 * 8)
  | _ => none

/-- The descriptor is well formed. -/
def pfOk (t : Task) (w : Nat) : Bool :=
  let z := fun hi lo => bitsN w hi lo = 0
  let b := bitsN w 11 8 + 1
  let count := bitsN w 55 32
  let bytes := bitsN w 223 192
  let entries := bitsN w 319 256
  bitsN w 3 0 = 2 && bitsN w 7 4 = 0xC && z 31 13 && z 63 56 && z 159 136 && z 255 224 && z 511 384
    && 1 ≤ count && 1 ≤ bitsN w 79 64 && bitsN w 95 80 + 2 * b ≤ 65536 && bitsN w 135 96 < count * bitsN w 79 64
    && bitsN w 191 160 % 64 = 0 && 64 ≤ bytes && bytes % 64 = 0 && bytes ≤ 4194304
    && bitsN w 191 160 + b * bytes ≤ t.footprint && entries % 32 = 0 && bitsN w 383 320 % 8 = 0

/-- The entry list lies in the near or far tier: one that does not makes the descriptor malformed, and whatever else keeps it
from being reached is the instruction's own failure (R305, Table 11.5). -/
def pfListCheck (s : State) (t : Task) (d w : Nat) : Except Bad Unit :=
  match range s t.ctx (Use.of 0 nearFar) (bitsN w 319 256) (32 * bitsN w 55 32) with
  | .ok ps => reachCheck s ps
  | .error b => match b with
    | .violation _ 2 _ => .error (descFault d)
    | _ => .error b

/-- What a schedule names: its entries, its status, and the sources and fallbacks of its entries as they stand. -/
def pfNamed (s : State) (t : Task) (w : Nat) : Named :=
  let entries := bitsN w 319 256
  let status := bitsN w 383 320
  let one := fun (i : Nat) => match engRead s t.ctx (Use.of 0 nearFar) (entries + 32 * i) 32 with
    | .ok bs => let e := leNat bs; pfSources e ++ (pfAltRange e).toList
    | .error _ => []
  ⟨(entries, 32 * bitsN w 55 32) :: (if status = 0 || bitN w 12 then [] else [(status, 16)])
      ++ (List.range (bitsN w 55 32)).flatMap one,
    [(true, bitsN w 191 160, (bitsN w 11 8 + 1) * bitsN w 223 192)]⟩

/-- What PFSCHED does to the state at its issue, with its record or with what ends its parcel. A WAIT that stands on a ready tally by
then needs its position already (R308). -/
def pfschedEffect (t : Who) (grp : Fin 8) (d : Fin 16) (id : Nat) (x : Task) (s : State) : State × Except Bad AsyncOp :=
  let w := (x.desc d).toNat
  let r : Except Bad AsyncOp := do
    descCheck (pfOk x w) d.val
    pfListCheck s x d.val w
    enginesCheck s (Who.die t)
    let o := { AsyncOp.of id t x grp.val "PFSCHED" with desc := x.desc d, nextPos := bitsN w 135 96 }
    return (((List.range o.pfBuffers).map (o.pfTally + ·)).foldl (AsyncOp.need s) o).bind s (pfNamed s x w)
  (s, r)

/-- PFSCHED (R305, R310). -/
def execPfsched (t : Who) (g : Guard) (grp : Fin 8) (d : Fin 16) (s : State) : Out :=
  async t g grp anyLevel (pfschedEffect t grp d) s

/-! ### One position (R306, R307) -/

/-- The fallback fields keep R171, but for where alt lies. -/
def pfFallbackOk (t : Task) (e : Nat) : Bool :=
  let f := pfFallback e
  f ≤ 4 && (pfDeadline e = 0 || f ≠ 0)
    && (if f = 2 then fmtOk t (pfFmt e) && fmtOk t (pfAltFmt e) && deliverOk (pfAltFmt e) (pfFmt e)
          && blockRowOk (pfAltFmt e) (pfElems e)
        else pfFmt e = 0 && pfAltFmt e = 0)

/-- The entry is well formed (R306). -/
def pfEntryOk (t : Task) (o : AsyncOp) (e : Nat) : Bool :=
  bitsN e 159 155 = 0 && bitsN e 191 176 = 0 && pfLen e ≤ pfDstStride e
    && (pfRows e - 1) * pfDstStride e + pfLen e ≤ o.pfBytes && pfFallbackOk t e

/-- Row r of position i: it takes a tag, and its bytes are those its source holds now. -/
def pfRow (o : AsyncOp) (i e : Nat) (acc : State × List Position) (r : Nat) : Except Bad (State × List Position) := do
  let a := pfSrc e + r * pfSrcStride e
  let ps ← engPieces acc.1 o.ctx (o.use 0 anyTier) a (pfLen e)
  let (tag, s1) := reserveTag acc.1
  let dst := o.pfBase + i % o.pfBuffers * o.pfBytes + pfDstStride e * r
  return (s1, acc.2 ++ [{ Position.blank i dst true (piecesBytes s1.mem ps) r (unitFor s1 (Who.die o.who) r ps) with
    tag := tag, off := a, len := pfLen e, src := ps, slots := ps, issued := false, ats := atsRanges s1 o.ctx (a, pfLen e) }])

/-- The next position starts: its entry is read and checked, and its rows are issued. The schedule then waits on the free
tally of the slot after it, where that slot is in use (R307). -/
def startPosition (o : AsyncOp) (t : Task) (s : State) : Except Bad State := do
  let i := o.nextPos
  let a := o.pfEntries + 32 * (i % o.pfCount)
  let e := leNat (← engRead s o.ctx (o.use 0 nearFar) a 32)
  if !pfEntryOk t o e then .error (.violation 0 4 a)
  else
    match pfAltRange e with
    | none => .ok ()
    | some r => altCheck s o.ctx o.binds (.violation 0 4 a) (pfFallback e = 4) r.1 r.2
    let (s1, ps) ← (List.range (pfRows e)).foldlM (pfRow o i e) (s, [])
    let s2 := modOp o.id (fun x => { x with
      nextPos := i + 1, openPos := x.openPos ++ ps, posOpen := x.posOpen ++ [⟨i, pfRows e, e, [], false⟩] }) s1 |> issueReads o.id (o.openPos ++ ps)
    if o.pfFirst + o.pfBuffers ≤ i + 1 && i + 1 < o.pfTotal then
      return sendSync .wait (o.pfTally + o.pfBuffers + (i + 1) % o.pfBuffers) o.who t (some o.id) s2
    else return s2

/-- PREFETCH_POSITION_START (R307). The first B positions start at once; a later one takes a grant of its slot's free
tally, once no grant before it takes the same route (R20). -/
def execPrefetchPositionStart (op : Nat) (s : State) : Out :=
  match findOp s op with
  | none => go s
  | some o =>
    match s.task o.who with
    | none => go s
    | some t =>
      if !s.active || o.name ≠ "PFSCHED" || o.cut || o.pfTotal ≤ o.nextPos then go s
      else
        let start := fun (s : State) => match startPosition o t s with
          | .ok s' => go s'
          | .error b => go (opFails o b s)
        if o.nextPos < o.pfFirst + o.pfBuffers then start s
        else
          match s.grants.findIdx? fun g => g.pf = some op with
          | some k => if (s.grants[k]?).any (nextGrant s k) then start { s with grants := s.grants.eraseIdx k } else go s
          | none => go s

/-! ### Deadlines (R308) -/

/-- The bytes that the fallback gives row r, with the elements that widening made infinite. -/
def pfFallbackRow (s : State) (o : AsyncOp) (e r : Nat) : Except Bad (List Byte × Nat) := do
  match pfFallback e with
  | 1 => return (← engRead s o.ctx (o.use 0 [.near]) (pfAlt e + r * pfSrcStride e) (pfLen e), 0)
  | 2 =>
    let l := rowStride (pfAltFmt e) (pfElems e)
    let row ← engRead s o.ctx (o.use 0 [.near]) (pfAlt e + r * l) l
    let x := convertRow (pfAltFmt e) (pfFmt e) (pfElems e) row
    return (takePad 0 (pfLen e) x.1, x.2)
  | 3 => return (← engRead s o.ctx (o.use 0 [.near]) (pfAlt e) (pfLen e), 0)
  | _ => return (List.replicate (pfLen e) 0, 0)

/-- A row of a position takes the fallback, and its reply is abandoned. It is counted as R172 has it, and in MT_PF_LATE (R308). -/
def pfFall (id e : Nat) (s : State) (p : Position) : State :=
  match findOp s id with
  | none => s
  | some o =>
    match pfFallbackRow s o e p.row with
    | .error (.detected x) => rowInError o p x (abandonTag p.tag s)
    | .error b => opFails o b s
    | .ok (bs, n) =>
      let late := fun (x : AsyncOp) => { x with
        lates := x.lates + 1
        posOpen := x.posOpen.map fun q => if q.pos = p.index then { q with late := q.late ++ [p.row] } else q }
      let s1 := countFallback o p (modOp id late (abandonTag p.tag s))
      decideRow o p bs n { s1 with mt := { s1.mt with pfLate := satAdd top48 s1.mt.pfLate 1 } }

/-- Every undecided row of a position takes the fallback. -/
def expirePosition (o : AsyncOp) (q : PfPosition) (s : State) : State :=
  (o.openPos.filter fun p => p.index = q.pos).foldl (pfFall o.id q.entry) s

/-- PREFETCH_DEADLINE (R308). It runs from the position's need. -/
def execPrefetchDeadline (op position : Nat) (s : State) : Out :=
  match findOp s op with
  | none => go s
  | some o =>
    match o.posOpen.find? fun q => q.pos = position with
    | none => go s
    | some q =>
      if s.active && o.name = "PFSCHED" && o.needs.contains position && pfDeadline q.entry ≠ 0 then
        go (expirePosition o q s)
      else go s

/-! ### The finish (R90, R309) -/

/-- The 16 bytes of a schedule's status. -/
def pfStatusBytes (o : AsyncOp) : List Byte :=
  leBytes 8 (o.nextPos % 2 ^ 56 + b2n o.cut * 2 ^ 63) ++ leBytes 8 o.lates

/-- Writes a schedule's status, if one is asked for. -/
def pfWriteStatus (o : AsyncOp) (s : State) : Except Bad State :=
  if o.pfStatus = 0 then .ok s
  else if o.pfStatusLocal then
    match s.task o.who with
    | some t => writeLoc s o.who t true useWrite o.pfStatus (pfStatusBytes o)
    | none => .ok s
  else devWrite s o.writer (o.use 1 nearFarHost) o.pfStatus (pfStatusBytes o)

/-- A schedule finishes. -/
def finishSchedule (o : AsyncOp) (s : State) : State :=
  match pfWriteStatus o s with
  | .error b => opFails o b s
  | .ok s1 => leaveGroup o (if o.spoiled then undefine o s1 else s1)

/-- The instruction can finish: a schedule has no position left to start. -/
def canFinish (s : State) (o : AsyncOp) : Bool :=
  opDone s o && (o.name ≠ "PFSCHED" || o.cut || decide (o.pfTotal ≤ o.nextPos))

/-- Finishes an instruction of any kind. -/
def finishAny (o : AsyncOp) (s : State) : State := if o.name = "PFSCHED" then finishSchedule o s else finishOp o s

/-- ASYNC_INSTRUCTION_FINISH (R90). -/
def execAsyncInstructionFinish (op : Nat) (s : State) : Out :=
  match findOp s op with
  | none => go s
  | some o => if s.active && canFinish s o then go (finishAny o s) else go s

end Sys2Proof.Machine
end

