-- ==== Sys2Proof/Machine/Link.lean ====
section
/-! DEFINITION. The commands of the link ports: bringing a port up, its control flits and replays, and check and pace flits
(13_utgor_links.md R351 to R365, R368, R371, R372). -/

namespace Sys2Proof.Machine

open Sys2Proof

/-! ### Bringing a port up (R352 to R354, Table 13.2) -/

/-- The port enters Train, where the symbol errors of its lanes start again. -/
def Port.train (p : Port) : Port := { p with state := .train, lanesErr := [] }

/-- A port that may come up: enabled, down, not under test, and with its clock (R47). -/
def canDetect (s : State) (p : Nat) : Bool := (s.port p).state = .down && !s.inBist 7 p && clockGood s (768 + p)

/-- LK_CTL.enable is set. -/
def enablePort (port : Nat) (s : State) : State :=
  let s1 := s.modPort port fun p => { p with enable := true }
  if canDetect s1 port then s1.modPort port Port.detect else s1

/-- LK_CTL.enable is cleared. -/
def disablePort (port : Nat) (s : State) : State :=
  portDown port 6 (s.modPort port fun p => { p with enable := false })

/-- PORT_ENABLE (R352). -/
def execPortEnable (port : Nat) (s : State) : Out := hostAccess (.portEnable port) (enablePort port) s

/-- PORT_DISABLE (R352). -/
def execPortDisable (port : Nat) (s : State) : Out := hostAccess (.portDisable port) (disablePort port) s

/-- The port retrains; with its budget used up it goes down with cause 4 (R361). -/
def retrainNow (p : Nat) (s : State) : State :=
  let r := retrain p s
  if r.2 then portFails p 4 r.1 else r.1

/-- A write of LK_CTL.retrain. A port that is down starts Detect if it is enabled. -/
def retrainPort (port : Nat) (s : State) : State :=
  let p := s.port port
  if p.state = .active then retrainNow port s
  else if p.enable && canDetect s port then s.modPort port Port.detect
  else s

/-- PORT_RETRAIN (R352). -/
def execPortRetrain (port : Nat) (s : State) : Out := hostAccess (.portRetrain port) (retrainPort port) s

/-- SIGNAL_DETECT (R352). After a loss of signal the returned signal starts Detect again. -/
def execSignalDetect (port : Nat) (s : State) : Out :=
  let p := s.port port
  if !s.active || !p.enable then go s
  else if p.state = .detect then go (s.modPort port Port.train)
  else if canDetect s port && p.downCause = 1 then go (s.modPort port fun p => p.detect.train)
  else go s

/-- Width of a Train from the lanes that locked: full, lower half, upper half, or none (R354). -/
def trainedWidth (lanes : Byte) : Option (Bool × Bool) :=
  if lanes = 0xFF then some (false, false)
  else if lanes &&& 0x0F = 0x0F then some (true, false)
  else if lanes &&& 0xF0 = 0xF0 then some (true, true)
  else none

/-- What a port offers in its capability flit: versions in bits 1:0, half width in bit 2 (R353). -/
def Port.offer (p : Port) : Nat := b2n p.allowUl1 + 2 * b2n p.allowUl2 + 4 * b2n p.allowHalf

/-- Both ends accept half width, as far as the peer's offer is known. -/
def Port.halfOk (p : Port) : Bool := p.allowHalf && (!p.peerValid || p.peerHalf)

/-- The capability flit that a port sends: its offer, the module's address and its own number (R353). -/
def capability (s : State) (port : Nat) : Nat := (s.port port).offer + s.links.modAddr.toNat * 2 ^ 3 + port * 2 ^ 35

/-- The port leaves Train: to Negotiate, or to Align after the second Train of UL2. -/
def leaveTrain (port : Nat) (half upper : Bool) (s : State) : State :=
  let p := s.port port
  let s1 := s.modPort port fun p => { p with
    half := half, upper := upper, trainFails := 0, state := if p.trainedUl2 then .align else .negotiate }
  if p.trainedUl2 then s1 else sendControl port 3 (capability s port) s1

/-- TRAIN_COMPLETE (R352, R354). A retrain keeps the width, so its lanes must lock again. -/
def execTrainComplete (port : Nat) (lanes : Byte) (s : State) : Out :=
  let p := s.port port
  if !s.active then go s
  else if p.state = .train then
    match trainedWidth lanes with
    | some (half, upper) => if half && !p.halfOk then go (portFails port 3 s) else go (leaveTrain port half upper s)
    | none => go (portFails port 3 s)
  else if p.state = .retrain then
    let need : Byte := if p.half then (if p.upper then 0xF0 else 0x0F) else 0xFF
    if lanes &&& need = need then go s else go (portFails port 3 s)
  else go s

/-- CAPABILITY (R353, R354, R358). The flit is laid out as at version 1, whatever the port runs. -/
def execCapability (port : Nat) (offer : OfferFlit) (half : Bool) (addr : W32) (peerPort : BitVec 5) (s : State) : Out :=
  let p := s.port port
  let versions := offer.versions
  if !s.active || p.state ≠ .negotiate then go s
  else if !headOk { p with version := 1 } offer.head false then go (badFlits port 1 s)
  else
    let both := p.offer % 4 &&& versions.toNat
    let s1 := s.modPort port fun p => { p with
      peerAddr := addr, peerPort := peerPort, peerValid := true, peerVersions := versions, peerHalf := half }
    if both = 0 then go (portFails port 2 s1)
    else if p.half && !half then go (portFails port 3 s1)
    else if 2 ≤ both then go (s1.modPort port fun p => { p.train with version := 2, trainedUl2 := true })
    else go (s1.modPort port fun p => { p with version := 1, state := .align })

/-- The port becomes Active after Negotiate: its numbers and credits start afresh (R359, R363). -/
def Port.fresh (p : Port) : Port :=
  { p with state := .active, txSeq := 0, rxNext := 0, nakSent := false, replay := [], credits := [], got := [] }

/-- The port becomes Active after a retrain: its replay buffer is sent again, with fresh counts of sends (R361). -/
def Port.resumed (p : Port) : Port :=
  { p with state := .active, nakSent := false, replayed := satAdd top48 p.replayed (p.replay.length)
           replay := p.replay.map fun (e : BitVec 12 × Flit × Nat) => (e.1, { e.2.1 with ack := p.lastIn }, 1) }

/-- ALIGN_COMPLETE (R352, R359, R361). -/
def execAlignComplete (port : Nat) (s : State) : Out :=
  let p := s.port port
  if !s.active then go s
  else if p.state = .align then go (drainPort port (changePort port Port.fresh s))
  else if p.state = .retrain then go (drainPort port (changePort port Port.resumed s))
  else go s

/-- PORT_STATE_TIMEOUT (R352). -/
def execPortStateTimeout (port : Nat) (s : State) : Out :=
  let p := s.port port
  if !s.active then go s
  else
    match p.state with
    | .train =>
      if 2 ≤ p.trainFails then go (portFails port 3 s)
      else go (s.modPort port fun p => { p.train with trainFails := p.trainFails + 1 })
    | .negotiate => go (portFails port 3 s)
    | .align => go (s.modPort port Port.train)
    | .retrain => go (portFails port 3 s)
    | _ => go s

/-- LOSS_OF_SIGNAL (R352). A port in Detect has no signal to lose. -/
def execLossOfSignal (port : Nat) (s : State) : Out :=
  if (s.port port).state = .detect then go s else go (portFails port 1 s)

/-! ### Control flits and timers (R357, R360, R361, R363, R365) -/

/-- A port that is Active. -/
def onActive (port : Nat) (f : State → State) (s : State) : Out :=
  if s.active && (s.port port).state = .active then go (f s) else go s

/-- Replays from a number on; a flit sent 16 times makes the port retrain. What waited for room follows the replay. -/
def replayPort (port : Nat) (seq : BitVec 12) (s : State) : State :=
  let (p, many) := (s.port port).replayFrom seq
  let s1 := s.modPort port fun _ => p
  if many then retrainNow port s1 else drainPort port s1

/-- A flit that takes no number: its trailer acknowledges as any other's, and R358 says whether it is acted on. -/
def unnumbered (port : Nat) (h : FlitHead) (f : State → State) (s : State) : Out :=
  onActive port (fun s =>
    let s0 := takeAck port h s
    if headOk (s.port port) h false then f s0 else badFlits port 1 s0) s

/-- IDLE (R356 to R358). A flit of a reserved kind that takes a number moves the number on (R358). -/
def execIdle (port : Nat) (h : FlitHead) (s : State) : Out :=
  if 7 ≤ h.kind then go (receive port h h.cls false 1 true id s) else unnumbered port h id s

/-- ACK (R360). -/
def execAck (port : Nat) (flit : AckFlit) (s : State) : Out := unnumbered port flit.head (ackPort port flit.num) s

/-- NAK (R360). The number that the receiver expects tells that those before it have arrived; what is replayed goes before what
waited for their room. -/
def execNak (port : Nat) (flit : AckFlit) (s : State) : Out :=
  unnumbered port flit.head (fun s => replayPort port flit.num (s.modPort port fun p => p.acked (flit.num - 1))) s

/-- CREDIT (R363). -/
def execCredit (port vc : Nat) (flit : CreditFlit) (s : State) : Out :=
  unnumbered port flit.head (fun s => drainPort port (s.modPort port fun p =>
    { p with credits := p.credits.put vc (p.credits.get 32 vc + flit.count) })) s

/-- ACK_TIMER (R360). -/
def execAckTimer (port : Nat) (s : State) : Out := onActive port (sendAck port) s

/-- LINK_REPLAY_TIMEOUT (R360). -/
def execLinkReplayTimeout (port : Nat) (s : State) : Out :=
  onActive port (fun s =>
    if (s.port port).replay.isEmpty then s else replayPort port (s.port port).oldest s) s

/-- A port that receives codewords: every state after Detect (Table 13.2). -/
def Port.receives (p : Port) : Bool := p.state ≠ .down && p.state ≠ .detect && p.state ≠ .fenced

/-- FLIT_CRC_FAILURE (R351, R358, R360). A flit has failed its CRC; `uncorrectable` says that it is the first that a codeword which
the code cannot correct has touched. It is counted in whatever state; numbers are expected, and a nak sent, only in Active. -/
def execFlitCrcFailure (port : Nat) (uncorrectable : Bool) (s : State) : Out :=
  if !s.active || !(s.port port).receives then go s
  else
    let s1 := s.modPort port fun p => { p with
      crcFail := satAdd top48 p.crcFail 1, fecUncorr := satAdd top48 p.fecUncorr (b2n uncorrectable) }
    if (s1.port port).nakSent || (s1.port port).state ≠ .active then go s1
    else go (sendControl port 1 (s1.port port).rxNext.toNat (s1.modPort port fun p => { p with nakSent := true }))

/-- Every message handed to a bundle's live ports has been acknowledged. -/
def bundleQuiet (s : State) (b : Nat) : Bool :=
  (s.links.livePorts b).all fun e => (s.port e.1).replay.isEmpty && !((s.port e.1).waiting.any fun f => f.cls ≠ 3)

/-! ### Check flits (R340, R342, R368) -/

/-- A check flit of a wave: of no bound slot, or on a port that the slot does not name, it is counted as bad. -/
def checkFlit (port : Nat) (h : FlitHead) (group gen : W32) (wave : Nat) (s : State) : Out :=
  go (receive port h 3 false 1 true (fun s =>
    match slotOf s group h.context with
    | none => badFlits port 1 s
    | some (n, c) =>
      if c.treePorts.contains port then (checkWave n port wave gen s).getD s else badFlits port 1 s) s)

/-- CHECK_COMPLETE (R340). -/
def execCheckComplete (port : Nat) (h : FlitHead) (group gen : W32) (s : State) : Out := checkFlit port h group gen 0 s
/-- CHECK_RELEASE (R340). -/
def execCheckRelease (port : Nat) (h : FlitHead) (group gen : W32) (s : State) : Out := checkFlit port h group gen 1 s
/-- CHECK_CLOSE (R340). -/
def execCheckClose (port : Nat) (h : FlitHead) (group gen : W32) (s : State) : Out := checkFlit port h group gen 2 s
/-- CHECK_CLOSED (R340). -/
def execCheckClosed (port : Nat) (h : FlitHead) (group gen : W32) (s : State) : Out := checkFlit port h group gen 3 s
/-- CHECK_RELEASE2 (R340). -/
def execCheckRelease2 (port : Nat) (h : FlitHead) (group gen : W32) (s : State) : Out := checkFlit port h group gen 4 s
/-- CHECK_BREAK (R342). -/
def execCheckBreak (port : Nat) (h : FlitHead) (group gen : W32) (s : State) : Out := checkFlit port h group gen 5 s

/-! ### Pace notices (R371, R372) -/

/-- Sends a pace notice on a tree port of a slot, unless the port runs UL1 or is down. -/
def sendPace (slot port level duration : Nat) (s : State) : State :=
  let c := s.slot slot
  if (s.port port).live && (s.port port).version = 2 then
    let s1 := sendOn port c.ctx.toNat (.pace c.group level duration) s
    { s1 with links := { s1.links with paceTx := satAdd top48 s1.links.paceTx 1 } }
  else s

/-- PACE_NOTICE (R371). -/
def execPaceNotice (port : Nat) (h : FlitHead) (group : W32) (level duration : Nat) (s : State) : Out :=
  go (receive port h 3 true 1 true (fun s =>
    let s1 := s.modPort port fun p => { p with paceRx := satAdd top48 p.paceRx 1 }
    match slotOf s1 group h.context with
    | none => s1
    | some (n, c) =>
      if c.state = .broken || !c.treePorts.contains port then s1
      else
        let s2 := if duration = 0 then s1.modSlot n fun c => { c with pace := false } else startPace n s1
        (c.treePorts.filter fun p => p ≠ port).foldl (fun (x : State) p => sendPace n p level duration x) s2) s)

end Sys2Proof.Machine
end

