-- ==== Sys2Proof/Machine/MemTier.lean ====
section
/-! DEFINITION. Invalidation of translations, ingests and trims, and the background work of the flash translation layer
(11_memory_tiers.md R301 to R303, R311 to R317). -/

namespace Sys2Proof.Machine

open Sys2Proof

def State.modMt (s : State) (f : MemTier → MemTier) : State := { s with mt := f s.mt }

/-! ### Invalidation (R302, R303) -/

/-- A write of MT_INVAL.go. The base of the range stands in MT_INVAL_ADDR. -/
def startInvalidation (ctx sizeLog2 : Nat) (s : State) : State :=
  if s.mt.invalBusy then s
  else s.modMt fun m => { m with
    invalCtx := BitVec.ofNat 10 ctx, invalSize := BitVec.ofNat 6 sizeLog2, invalBusy := true }

/-- TRANSLATION_INVALIDATE (R302). -/
def execTranslationInvalidate (ctx sizeLog2 : Nat) (s : State) : Out :=
  hostAccess (.translationInvalidate ctx sizeLog2) (startInvalidation ctx sizeLog2) s

/-- Device ranges whose translations an unfinished instruction holds: those it names, what its stash bindings lead to, and the rows
of its undecided positions. A schedule's binding lasts as long as it does (R302). -/
def AsyncOp.ranges (o : AsyncOp) : List (Nat × Nat) :=
  o.uses ++ o.bound ++ (o.openPos.filter fun p => p.issued && !p.src.isEmpty).map fun p => (p.off, (p.src.map (·.2.2)).sum)

/-- Device ranges whose translations the unfinished accesses of a context hold: its instructions', and the rows it has asked of
other modules. -/
def openUses (s : State) (c : Nat) : List (Nat × Nat) :=
  (s.ops.filter fun o => o.ctx = c).flatMap AsyncOp.ranges
    ++ s.tags.filterMap fun t => match t.use with
      | .engine .. => none
      | .withdraw _ => none
      | _ => if t.ctx = c && !t.abandoned then some (t.window.toNat, 4096) else none

/-- An access that took a translation of the range under invalidation has not finished; a held write of the context may be one
(R302). -/
def invalOpen (s : State) : Bool :=
  let c := s.mt.invalCtx.toNat
  (openUses s c).any (overlaps s.mt.invalBase.toNat (2 ^ s.mt.invalSize.toNat))
    || s.dg.held.any fun w => w.ctx = c && w.bytes ≠ 0

/-- INVALIDATION_COMPLETE (R302). This model keeps no translation from one access to the next, so no cache holds one; busy
clears once no access uses an old one any more (log entry 13). -/
def execInvalidationComplete (s : State) : Out :=
  if invalOpen s then go s else go (s.modMt fun m => { m with invalBusy := false })

/-- Host ranges whose ATS translations an unfinished instruction holds, as it took them: its own, and those of its outstanding
reads (R303). -/
def AsyncOp.hostUses (o : AsyncOp) : List (Nat × Nat) := o.ats ++ (o.openPos.filter (·.issued)).flatMap (·.ats)

/-- An access that took an ATS translation of the range has not finished (R303). -/
def atsOpen (s : State) (host : Nat × Nat) : Bool := s.ops.any fun o => o.hostUses.any (overlaps host.1 host.2)

/-- ATS invalidations whose accesses have finished are completed (R303). -/
def settleAts (s : State) : State :=
  let left := s.hg.atsWaiting.filter (atsOpen s)
  { s with hg := { s.hg with
      atsWaiting := left, atsDone := s.hg.atsDone + (s.hg.atsWaiting.length - left.length) } }

/-- ATS_INVALIDATION_REQUEST (R303). It completes at once, or when the accesses that use its range have finished (log entry
13). -/
def execAtsInvalidationRequest (addr size : Nat) (s : State) : Out :=
  hostEvent (fun s => settleAts { s with hg := { s.hg with atsWaiting := s.hg.atsWaiting ++ [(addr, size)] } }) s

/-! ### Ingest and trim (R311, R312, R314, R315, Table 11.11) -/

def State.ingest (s : State) (slot : Nat) : Ingest := s.mt.ingest.get Ingest.reset slot
def State.modIngest (s : State) (slot : Nat) (f : Ingest → Ingest) : State :=
  s.modMt fun m => { m with ingest := m.ingest.put slot (f (s.ingest slot)) }

/-- Ends a command of an ingest slot in state error. -/
def ingestFails (slot code : Nat) (s : State) : State :=
  s.modIngest slot fun i => { i with state := 3, code := BitVec.ofNat 6 code }

/-- The sectors of a slot's range. -/
def Ingest.range (i : Ingest) : Nat × Nat := (i.cmd.fla / 4096, i.cmd.len / 4096)

/-- The error that a command ends with before it touches a sector; 0 for none (Table 11.11). Where several apply the spec
names no order: alignment, then capacity, then the reserve (log entry 18). -/
def ingestRefusal (s : State) (i : Ingest) : Nat :=
  if i.cmd.fla % 4096 ≠ 0 || i.cmd.len = 0 || i.cmd.len % 4096 ≠ 0 then 6
  else if s.mt.capSectors < i.range.1 + i.range.2 then 2
  else if !i.cmd.op && reserveReadOnly s then 3
  else 0

/-- A go write: ignored unless the slot is idle or done. -/
def startIngest (slot : Nat) (trim : Bool) (s : State) : State :=
  let n := slot % 16
  let i := s.ingest n
  if i.state = 1 || i.state = 3 then s
  else
    let r := { i.regs with op := trim }
    let j : Ingest := { regs := r, cmd := r, state := 1, code := 0, sectors := 0, order := s.mt.ingestGo }
    let s1 := (s.modIngest n fun _ => j).modMt fun m => { m with ingestGo := m.ingestGo + 1 }
    let e := ingestRefusal s j
    if e = 0 then s1 else ingestFails n e s1

/-- INGEST (R311). -/
def execIngest (slot : Nat) (s : State) : Out := hostAccess (.ingest slot) (startIngest slot false) s
/-- TRIM (R311). -/
def execTrim (slot : Nat) (s : State) : Out := hostAccess (.trim slot) (startIngest slot true) s

/-- A slot must wait for a command with an earlier go write (R312). -/
def ingestWaits (s : State) (n : Nat) : Bool :=
  s.mt.ingest.any fun e => e.1 ≠ n && e.2.state = 1 && e.2.order < (s.ingest n).order

/-- Sectors that lie on a fenced channel are placed on another, which the FTL chooses (R315). -/
def placeSectors (first n : Nat) (s : State) : State :=
  if s.mt.fenceFlash = 0 then s
  else
    let live := (List.range 32).filter fun c => !s.mt.fenceFlash.getLsbD c
    let choose := fun (k : Nat) => live.getD ((Config.freeWord s.freeCount k).toNat % max 1 live.length) 0
    let old := ((List.range n).map (first + ·)).filter fun k => s.mt.fenceFlash.getLsbD (sectorChannel s k)
    { s.modMt fun m => { m with placed := old.foldl (fun (t : Tab Nat) k => t.put k (choose k)) m.placed } with
      freeCount := s.freeCount + 1 }

/-- Writes n sectors of the flash from first on; they are readable again (R317). -/
def writeSectors (first n : Nat) (cs : List Host.Cell) (s : State) : State :=
  (rawWrite .flash (4096 * first) (4096 * n) cs (placeSectors first n s)).modMt fun m => { m with
    badSectors := m.badSectors.filter fun k => !(decide (first ≤ k) && decide (k < first + n)) }

/-- The first n sectors of a slot's range take their new contents, which are durable. -/
def makeDurable (slot n : Nat) (cs : List Host.Cell) (s : State) : State :=
  (writeSectors (s.ingest slot).range.1 n cs s).modIngest slot fun i => { i with sectors := n }

/-- The pieces of an ingest's source. Context 0 has none. -/
def Ingest.source (i : Ingest) (s : State) : Except Bad (List Piece) :=
  let c := i.cmd.context.toNat
  if c = 0 then .error (.violation 0 0 0) else Machine.range s c (Use.of 0 nearFarHost) i.cmd.src.toNat i.cmd.len

/-- A transfer meets a detected error: how many sectors were durable by then is open (R312, Table 11.11). -/
def ingestError (n : Nat) (cs : List Host.Cell) (e : DataErr) (s : State) : State :=
  let i := s.ingest n
  let k := (Config.freeWord s.freeCount n).toNat % i.range.2
  detected i.cmd.context.toNat 0 e (ingestFails n 4 (makeDurable n k cs { s with freeCount := s.freeCount + 1 }))

/-- INGEST_COMPLETE (R311, R312). `bad` says that the source meets a detected error. -/
def execIngestComplete (slot : Nat) (bad : Bool) (s : State) : Out :=
  let n := slot % 16
  let i := s.ingest n
  if !s.active || i.state ≠ 1 || ingestWaits s n then go s
  else if i.cmd.op then go ((makeDurable n i.range.2 [] s).modIngest n fun i => { i with state := 2 })
  else
    let s := countWalks s
    match i.source s with
    | .error (.detected e) => go (detected i.cmd.context.toNat 0 e (ingestFails n 4 s))
    | .error b => go (ingestFails n 1 (noteBad i.cmd.context.toNat 8 b s))
    | .ok ps =>
      let cs := readPieces s.mem ps 0
      let found := match checkPieces s i.cmd.src.toNat ps, ps with
        | .error (.detected e), _ => some e
        | _, (t, b, _) :: _ => if bad then some (tierErr s i.cmd.src.toNat t b) else none
        | _, [] => none
      match found with
      | some e => go (ingestError n cs e s)
      | none => go ((makeDurable n i.range.2 cs s).modIngest n fun i => { i with state := 2 })

/-! ### Background work of the flash translation layer (R313 to R317, Table 11.7) -/

/-- A block of a channel that is in service, and that has not been retired. -/
def blockLive (s : State) (channel block : Nat) : Bool :=
  s.active && decide (channel < 32) && decide (block < 2 ^ 24) && !s.mt.fenceFlash.getLsbD channel
    && !s.mt.retired.contains (channel, block)

/-- Background work takes a share of the bus time, which the spec bounds by no rule but its percentage. -/
def background (s : State) : State :=
  { s.modMt (fun m => { m with bg := (Config.freeWord s.freeCount 0).toNat % 101 }) with freeCount := s.freeCount + 1 }

/-- WEAR_LEVELLING (R313). `wear` is the mean erase count as a percentage of 3,000 cycles. -/
def execWearLevelling (wear : Nat) (s : State) : Out :=
  if s.active then go ((background s).modMt fun m => { m with wear := min 1023 wear }) else go s

/-- READ_DISTURB_RELOCATION (R313). -/
def execReadDisturbRelocation (channel block : Nat) (s : State) : Out :=
  if blockLive s channel block then go ((background s).modMt fun m => { m with reloc := satAdd top48 m.reloc 1 }) else go s

/-- RETENTION_REFRESH (R313). -/
def execRetentionRefresh (channel block : Nat) (s : State) : Out :=
  if blockLive s channel block then go ((background s).modMt fun m => { m with refresh := satAdd top48 m.refresh 1 }) else go s

/-- POWER_ON_SCAN (R313): the blocks with low read margin are refreshed. -/
def execPowerOnScan (blocks : Nat) (s : State) : Out :=
  if s.active then go ((background s).modMt fun m => { m with refresh := satAdd top48 m.refresh blocks }) else go s

/-- BAD_BLOCK_RETIREMENT (R313, R317). -/
def execBadBlockRetirement (channel block : Nat) (s : State) : Out :=
  if blockLive s channel block then go (retireBlock channel block (background s)) else go s

/-- MAP_REBUILD_COMPLETE (R315). -/
def execMapRebuildComplete (s : State) : Out :=
  if s.mt.rebuilding then go (s.modMt fun m => { m with mapFence := 0, rebuilding := false }) else go s

end Sys2Proof.Machine
end

