-- ==== Sys2Proof/Machine/Weir.lean ====
section
/-! DEFINITION. Operating points, estimates, the governor, the weir, droop and pace calls
(14_weir_power.md R376 to R395; 02_handshake_timing.md R42, R43). The temperature loop stands in Power.lean. -/

namespace Sys2Proof.Machine

open Sys2Proof

def State.modWeir (s : State) (f : Weir → Weir) : State := { s with weir := f s.weir }

/-- A compute die that runs: powered, and not held in reset. -/
def dieRuns (s : State) (d : Nat) : Bool := decide (d < 8) && (s.die d).up && !(s.die d).resetting

/-- The module's dies are powered and its loops run. -/
def loopsRun (s : State) : Bool :=
  s.active || s.power.phase = .computing || s.power.phase = .initialised

/-! ### Temperatures (R35) -/

/-- Last reading of a sensor, in 0.1 °C. -/
def reading (s : State) (index : Nat) : Int := s.power.sensors.get 0 index

/-- The hottest junction sensor of a die, of eight on a compute die and two on an I/O die. -/
def hottest (s : State) (d : Nat) : Int :=
  ((List.range (if d < 8 then 8 else 2)).map fun k => reading s (64 * d + k)).foldl max (reading s (64 * d))

/-- Every junction sensor of a compute die reads below 90 °C (R378). -/
def below90 (s : State) (d : Nat) : Bool := decide (hottest s d < 900)

/-! ### Points (R376) -/

def Die.pointOf (x : Die) (p : Nat) : OpPoint := x.points.getD p ⟨550, 700, 3, 7, 0, 0, 0⟩

/-- A die's admitted points (R42, R393). -/
def Die.admitted (x : Die) : List Nat := (List.range 16).filter fun p => 1000 ≤ (x.pointOf p).minRate

/-- Unfenced cores of a die. -/
def liveCores (s : State) (d : Nat) : Nat := ((List.range 64).filter fun k => !(s.core (64 * d + k)).fenced).length

/-- What a count of activity comes to in W: its weight in µW, scaled by the gain (R379, R380). -/
def gained (s : State) (microwatts : Nat) : Nat := microwatts * s.weir.gain / 32768 / 1000000

/-- Array steps that a throttle index admits of one core in one interval of 2 µs, at a step rate in millions a second (R381). -/
def stepsAt (rate index : Nat) : Nat :=
  if index ≤ 63 then 2 * rate * (64 - index) / 64 else 2 * rate * (16 - (index - 63)) / (64 * 16)

/-- Predicted power of a die at a rail voltage and bias code with a throttle index (R382): its last estimate, its array work
replaced by that of every unfenced core, in the format most used in the last interval, at the rate the index admits. -/
def predictAt (s : State) (d vcd : Nat) (bias : Int) (index : Nat) : Nat :=
  let x := s.die d
  let rest := x.estimate - x.arrayPart
  (if vcd = x.vcd && bias = x.bias then rest else Config.restAt d x.vcd vcd bias rest)
    + gained s (liveCores s d * stepsAt (Config.stepRate d vcd bias) index * Config.weight d x.mostUsed)

/-- Predicted power of a die at a point with a throttle index (R378, R382, R385). -/
def predict (s : State) (d p index : Nat) : Nat :=
  predictAt s d ((s.die d).pointOf p).vcd ((s.die d).pointOf p).bias index

/-- The die's budget holds a point at some index up to 63 (R378). -/
def holdsPoint (s : State) (d p : Nat) : Bool := (List.range 64).any fun t => predict s d p t ≤ (s.die d).budget

/-! ### The estimate of a die (R379, R383) -/

/-- Sum of a table over n units of a die. -/
def sumUnits (t : Tab Nat) (d n : Nat) : Nat := ((List.range n).map fun k => t.get 0 (n * d + k)).sum

/-- Lanes of a die's ports that run. -/
def lanesUp (s : State) (d : Nat) : Nat :=
  ((List.range 4).map fun k =>
    let p := s.port (4 * d + k)
    if p.state = .active then if p.half then 4 else 8 else 0).sum

/-- Counters of a die's activity beside array steps, as far as the state counts it: on a compute die instructions issued, the
work of samplers and engines and link flits; on an I/O die the decompressor's output. -/
def activity (s : State) (d : Nat) : List Nat :=
  if d < 8 then
    [((List.range 64).map fun k => (s.core (64 * d + k)).issues).sum, sumUnits s.sm.edges d 4, sumUnits s.sm.rows d 4,
     sumUnits s.sm.feistel d 4, sumUnits s.sl.rows d 8,
     ((List.range 4).map fun k => (s.port (4 * d + k)).tx + (s.port (4 * d + k)).rx).sum]
  else [if d = 8 then s.sl.dxOut0 else s.sl.dxOut1]

/-- Kinds of activity for which the spec names no counter: on a compute die bytes of cistern and near memory, fabric flits and
segment reductions; on an I/O die its logic, LPDDR6 bytes and refreshes, flash commands, and on IOD0 PCIe flits and the keeper. -/
def freeKinds (d : Nat) : Nat := if d < 8 then 5 else if d = 8 then 6 else 4

/-- Array work of an interval, in µW before the gain. -/
def arrayWork (s : State) (d : Nat) : Nat := ((s.die d).acts.map fun e => e.2 * Config.weight d e.1).sum

/-- The other work of an interval, in µW before the gain: what the counters have grown by, the lanes that run, and the free
counts of log entry 14. -/
def otherWork (s : State) (d : Nat) : Nat :=
  let x := s.die d
  let grown := (activity s d).zipIdx.map fun e => (e.1 - x.seen.get 0 e.2) * Config.weight d (16 + e.2)
  let free := (List.range (freeKinds d)).map fun k => (Config.freeWord s.freeCount k).toNat * Config.weight d (32 + k)
  grown.sum + (if d < 8 then lanesUp s d * Config.weight d 31 else 0) + free.sum

/-- The static term (R379). -/
def staticTerm (s : State) (d : Nat) : Nat := Config.leakage d (s.die d).vcd (s.die d).bias (hottest s d)

/-- The estimate of an interval, in W: activity counters by their fused weights and the gain, and the static term. -/
def rawEstimate (s : State) (d : Nat) : Nat := gained s (arrayWork s d + otherWork s d) + staticTerm s d

/-- The minor class with the most array steps of an interval; FP8, minor 0, if none was started (R382). -/
def mostUsed (acts : Tab Nat) : Nat :=
  (acts.foldl (fun (b : Nat × Nat) e => if b.2 < e.2 then e else b) (0, 0)).1

/-- Slew share of a die for one interval: 4 A × VMAIN / 8 (R382). -/
def slewShare (s : State) : Nat := s.power.vmainMv / 2000

/-- Array steps of the interval that no MXM has claimed: those that the index admits on the unfenced cores of quadrants without
droop withholding, less those started. -/
def idleSteps (s : State) (d : Nat) : Nat :=
  let x := s.die d
  let cores := (List.range 64).filter fun k => !(s.core (64 * d + k)).fenced && !x.droop.getLsbD (k / 16)
  cores.length * stepsAt (Config.stepRate d x.vcd x.bias) x.index - (x.acts.map (·.2)).sum

/-- Weight of a shelf step: an array step on zero operands. -/
def shelfWeight (d : Nat) : Nat := Config.weight d 15

/-- Shelf steps of an interval (R383): where array work has ended and the estimate would fall by more than the share, as many as
hold it to the share, or all that are to be had. -/
def shelfSteps (s : State) (d : Nat) : Nat :=
  let x := s.die d
  let raw := rawEstimate s d
  if decide (d < 8) && decide (gained s (arrayWork s d) < x.arrayPart) && decide (raw + slewShare s < x.estimate) then
    let lacking := ((x.estimate - slewShare s - raw) * 1000000 * 32768 + s.weir.gain - 1) / s.weir.gain
    min (idleSteps s d) ((lacking + shelfWeight d - 1) / shelfWeight d)
  else 0

/-- The estimate of an interval with its shelf steps, which take it to the share exactly where they suffice. -/
def shelved (s : State) (d : Nat) : Nat :=
  let n := shelfSteps s d
  let share := (s.die d).estimate - slewShare s
  if n = 0 then rawEstimate s d else min (max share (rawEstimate s d)) (rawEstimate s d + gained s (n * shelfWeight d))

/-- ESTIMATE_INTERVAL (R379, R383). -/
def execEstimateInterval (die : Nat) (s : State) : Out :=
  let x := s.die die
  if !(decide (die < 10) && x.up && !x.resetting && loopsRun s) then go s
  else
    let est := shelved s die
    go { s.modDie die (fun x => { x with
        estimate := est, shelf := satAdd top48 x.shelf (shelfSteps s die), dynamic := est - staticTerm s die
        arrayPart := est - (rawEstimate s die - gained s (arrayWork s die)), mostUsed := mostUsed x.acts, acts := []
        seen := (activity s die).zipIdx.map fun e => (e.2, e.1) }) with
      freeCount := s.freeCount + 1 }

/-! ### The governor (R380, R384 to R388) -/

/-- Sum of a figure over the compute dies. -/
def sumDies (f : Nat → Nat) : Nat := ((List.range 8).map f).sum

/-- A fenced or reset die keeps its F and D as estimated (R385). -/
def keepsShare (s : State) (d : Nat) : Bool := (s.die d).resetting || listed s 16 d || liveCores s d = 0

/-- F and D of R385: predicted power at the floor, and at the point's lowest index. -/
def floorPower (s : State) (d : Nat) : Nat :=
  if keepsShare s d then (s.die d).lastFloor else predict s d (s.die d).point 78
def fullPower (s : State) (d : Nat) : Nat :=
  if keepsShare s d then (s.die d).lastFull
  else predict s d (s.die d).point ((s.die d).pointOf (s.die d).point).minIndex

/-- A figure with the conversion loss at it (R380). -/
def withLoss (s : State) (w : Nat) : Nat := w + Config.convLoss w s.power.vmainMv

/-- Latest estimates of the I/O dies. -/
def ioPower (s : State) : Nat := (s.die 8).estimate + (s.die 9).estimate

/-- The budget of a die from the cap (R385). -/
def budgetOf (s : State) (cap d : Nat) : Nat :=
  let a := cap - ioPower s - Config.convLoss cap s.power.vmainMv
  let f := sumDies (floorPower s)
  let m := sumDies (fullPower s)
  let fd := floorPower s d
  let dd := fullPower s d
  if m ≤ a then dd + (a - m) / 8
  else if f ≤ a then fd + (a - f) * (dd - fd) / (m - f)
  else fd

/-- The module floor (R387). -/
def moduleFloor (s : State) : Nat := withLoss s (sumDies (fun d => predict s d 0 78) + ioPower s)

/-- The cap becomes unattainable: counted, recorded, signalled on vector 0 and by an alert (R387). -/
def capEvent (cap floor : Nat) (s : State) : State :=
  raiseAlert (fireMsix 0 (report { Spill.of 6 8 1 with detail0 := BitVec.ofNat 64 (cap % 65536 + floor % 65536 * 65536) }
    (s.modWeir fun w => { w with unattain := satAdd top48 w.unattain 1 })))

/-- A RUN that has started, and neither ended nor failed: its tasks run while the cap stands unattainable (R388). -/
def Parcel.runsNow (p : Parcel) : Bool := p.kind = kRun && p.progress = .started && p.failure.isNone

/-- GOVERNOR_INTERVAL (R380, R384, R385, R387, R388). -/
def execGovernorInterval (s : State) : Out :=
  if !loopsRun s then go s
  else
    let cap := min 4000 (min s.weir.capHost s.weir.capSideband)
    let est := withLoss s (sumDies (fun d => (s.die d).estimate) + ioPower s)
    let floor := moduleFloor s
    let bad := decide (cap < floor)
    let s1 := s.modWeir fun w => { w with
      capEffective := cap, estimate := est, floor := floor, unattainable := bad, energy := w.energy + 2 * est
      trimSum := w.trimSum + est, trimCount := w.trimCount + 1
      trimDyn := w.trimDyn + ((List.range 10).map fun d => (s.die d).dynamic).sum }
    let s2 := (List.range 8).foldl (fun (x : State) d => x.modDie d fun y => { y with
      budget := budgetOf s cap d, lastFloor := floorPower s d, lastFull := fullPower s d }) s1
    let s3 := if bad && !s.weir.unattainable then capEvent cap floor s2 else s2
    if bad then
      go { s3 with ctxs := s3.ctxs.map fun e =>
        (e.1, { e.2 with parcels := e.2.parcels.map fun p => if p.runsNow then { p with capped := true } else p }) }
    else go s3

/-- The gain that makes the averaged estimate agree with the measured power: it scales the part that weights make, so that part
grows by the difference. The limits hold it to 0.90 to 1.10 (R380). -/
def Weir.trimmed (w : Weir) (measured : Nat) : Nat :=
  let part := w.trimDyn / w.trimCount
  let want := part + measured - w.trimSum / w.trimCount
  if part = 0 then w.gain else max 29491 (min 36045 (w.gain * want / part))

/-- ESTIMATOR_TRIM (R380), over the governor's intervals since the last. -/
def execEstimatorTrim (measured : Nat) (s : State) : Out :=
  if !loopsRun s || s.weir.trimCount = 0 then go s
  else go (s.modWeir fun w => { w with gain := w.trimmed measured, trimSum := 0, trimDyn := 0, trimCount := 0 })

/-! ### The target point (R378) -/

/-- The preferred point of a phase: unmarked first, then those of R253. -/
def phasePoint (s : State) (mark : Option (Fin 6)) : Nat :=
  match mark with
  | none => s.weir.phases.getD 0 0
  | some k => s.weir.phases.getD (k.val + 1) 0

/-- A core is active: it holds a task that is not descheduled. -/
def coreActive (s : State) (c : Nat) : Bool :=
  (s.coreTasks c).any fun t => t.2.status ≠ .waitDesched && t.2.status ≠ .arriveDesched

/-- The highest entry among the phases of a die's active cores, or the idle entry. -/
def wantedPoint (s : State) (d : Nat) : Nat :=
  match ((List.range 64).map (64 * d + ·)).filter (coreActive s) with
  | [] => s.weir.phases.getD 7 0
  | cs => (cs.map fun c => phasePoint s (s.core c).mark).foldl max 0

/-- The highest of some points that meets a condition. -/
def highest (ps : List Nat) (ok : Nat → Bool) : Option Nat := (ps.filter ok).getLast?

/-- The target point (R378, R387). Boost reads "with that index at 0" as the predicted power of the point with T = 0
(DEDUCED, log entry 40). -/
def targetPoint (s : State) (d : Nat) : Nat :=
  let x := s.die d
  let low := if x.fixed then x.lowestFixed else 0
  let p1 := wantedPoint s d
  let p2 := if s.weir.boost && !x.fixed && below90 s d then
      match highest (List.range (s.weir.boostMax + 1)) fun p => predict s d p 0 ≤ x.budget with
      | some p => max p1 p
      | none => p1
    else p1
  let p3 := max p2 low
  let p4 := if holdsPoint s d p3 then p3 else max low ((highest (List.range p3) (holdsPoint s d)).getD 0)
  let p5 := if 0 < x.thermal then min p4 (max x.nominal low) else p4
  if s.weir.unattainable then low else p5

/-! ### Moving the point (R377) -/

/-- The rails and codes stand at a point. -/
def Die.settled (x : Die) (o : OpPoint) : Bool :=
  x.vcd = o.vcd && x.vcs = o.vcs && x.bias = o.bias && x.assist = o.assist

/-- One interval of a change of point: `mv` is how far VCD moves. Rising: assist and VCS, then VCD, then bias. Falling: bias,
then VCD, then VCS and assist. -/
def Die.movePoint (x : Die) (target mv : Nat) : Die :=
  let o := x.pointOf target
  if x.vcd ≤ o.vcd then
    let v := min o.vcd (x.vcd + mv)
    if v = o.vcd then { x with target := target, vcd := v, vcs := o.vcs, assist := o.assist, bias := o.bias, point := target }
    else { x with target := target, vcd := v, vcs := o.vcs, assist := o.assist }
  else if x.bias ≠ o.bias then { x with target := target, bias := o.bias }
  else
    let v := max o.vcd (x.vcd - mv)
    if v = o.vcd then { x with target := target, vcd := v, vcs := o.vcs, assist := o.assist, point := target }
    else { x with target := target, vcd := v }

/-! ### The throttle index (R381, R382, R386) -/

/-- The allowance: budget and slew share bound it, and it falls by no more than the share. The flag says that the share
limits it. -/
def allowanceOf (s : State) (d : Nat) : Nat × Bool :=
  let x := s.die d
  let up := x.estimate + slewShare s
  let a := min x.budget up
  let b := max a (x.allowance - slewShare s)
  (b, decide (up < x.budget) || decide (a < b))

/-- The cap index: the lowest whose predicted power fits the allowance, at the rail and code in force. -/
def capIndexOf (s : State) (d allowance : Nat) : Nat :=
  let x := s.die d
  ((List.range 79).find? fun t => predictAt s d x.vcd x.bias t ≤ allowance).getD 78

/-! ### Pace calls (R395) -/

/-- Contexts with a task resident on a die. -/
def residents (s : State) (d : Nat) : List Nat :=
  ((s.tasks.filter fun e => e.1 / 256 = d).map fun e => e.2.ctx).dedup

/-- Sends pace notices of a die's call: on every tree port of every bound slot of each of its contexts (R371, R395). -/
def paceFrom (d duration : Nat) (s : State) : State :=
  if !s.weir.pace then s
  else
    let cs := residents s d
    let mine := s.slots.filter fun e => e.2.bound && cs.contains e.2.ctx.toNat
    let level := min (s.die d).index 63
    mine.foldl (fun (x : State) e => e.2.treePorts.foldl (fun (y : State) p => sendPace e.1 p level duration y) x) s

/-- One interval of a die's pace call. -/
def paceStep (d : Nat) (s : State) : State :=
  let x := s.die d
  let th := s.weir.threshold
  let hi := decide (th ≤ x.index) && (decide (th ≤ x.capIndex) || decide (th ≤ x.thermal))
  let lo := decide (x.index + 8 < th)
  let s1 := s.modDie d fun y => { y with
    paceHigh := if hi then min 2 (y.paceHigh + 1) else 0, paceLow := if lo then min 4 (y.paceLow + 1) else 0 }
  let y := s1.die d
  if !x.pacing && y.paceHigh = 2 then paceFrom d s.weir.paceTicks.toNat (s1.modDie d fun z => { z with pacing := true })
  else if x.pacing && y.paceLow = 4 then paceFrom d 0 (s1.modDie d fun z => { z with pacing := false })
  else s1

/-- PACE_NOTICE_RESEND (R395). -/
def execPaceNoticeResend (die : Nat) (s : State) : Out :=
  if s.active && dieRuns s die && (s.die die).pacing then go (paceFrom die s.weir.paceTicks.toNat s) else go s

/-! ### The interval of a die's weir (R377, R378, R382, R386, R393) -/

/-- The mode is in force once some compute die runs in it (R393). -/
def noteFixed (s : State) : State :=
  s.modWeir fun w => { w with fixedActive := (List.range 8).any fun d => (s.die d).fixed }

/-- WEIR_INTERVAL (R377, R378, R382, R386, R393, R395). No change of point begins under droop withholding; T is never below
the lowest index of the higher of the two points of a change. In fixed-rate mode VCD does not begin to fall in an interval
that still lowers T. -/
def execWeirInterval (die : Nat) (s : State) : Out :=
  if !(dieRuns s die && loopsRun s) then go s
  else
    let s1 := noteFixed (s.modDie die fun x => { x with
      fixed := s.weir.fixedRate, throttled := satAdd top48 x.throttled (if 0 < x.index then 200 else 0) })
    let x := s1.die die
    let (allow, slew) := allowanceOf s1 die
    let cap := capIndexOf s1 die allow
    let want := targetPoint s1 die
    let held := x.droop ≠ 0 && x.settled (x.pointOf x.point)
    let least := max (x.pointOf x.point).minIndex (x.pointOf (if held then x.point else want)).minIndex
    let index := max (max cap least) x.thermal
    let waits := x.fixed && decide (index < x.index) && x.vcd = (x.pointOf x.point).vcd && (x.pointOf want).vcd < x.vcd
    let mv := if waits then 0 else 44 + (Config.freeWord s.freeCount die).toNat % 13
    let moved := if held then { x with target := want } else x.movePoint want mv
    go (paceStep die { s1.modDie die (fun _ => { moved with
        allowance := allow, slewing := slew, capIndex := cap, index := index }) with
      freeCount := s.freeCount + 1 })

/-- PACER_TOKEN (R42, R394). The pacer hands a token to a core, which spends it on the instruction that it issues; a token
handed out while one is held adds none. One that its period ended without a use is gone, and counts when its core has an
instruction ready and could not issue it. DESIGN CHOICE, log entry 6: which of the die's link-port PLLs clocks its pacer is open, and
tokens come whatever PLL is out of lock. -/
def execPacerToken (core : Nat) (late : Bool) (s : State) : Out :=
  let d := core / 64
  if !(s.active && dieRuns s d && (s.die d).fixed) then go s
  else
    let s1 := s.modCore core fun c => { c with token := !late }
    if late && (List.range 4).any (slotReady s core) then
      go (s1.modDie d fun x => { x with pacerMiss := satAdd top48 x.pacerMiss 1 })
    else go s1

/-! ### Host writes (R384, R393) -/

/-- A write of WR_CAP's host cap. -/
def writeHostCap (watts : Nat) (s : State) : State := s.modWeir fun w => { w with capHost := min 4000 watts }

/-- HOST_CAP_WRITE (R384). -/
def execHostCapWrite (watts : Nat) (s : State) : Out := hostAccess (.hostCapWrite watts) (writeHostCap watts) s

/-- A compute die that holds an unfenced core (R393). -/
def dieInUse (s : State) (d : Nat) : Bool := (List.range 64).any fun k => !(s.core (64 * d + k)).fenced

/-- Some such die has no admitted point. -/
def noFixedPoint (s : State) : Bool := (List.range 8).any fun d => dieInUse s d && (s.die d).admitted.isEmpty

/-- A write of WR_CTL.fixed_rate. -/
def writeFixedRate (on : Bool) (s : State) : State :=
  s.modWeir fun w =>
    let refused := on && noFixedPoint s
    { w with fixedRate := on && !refused, fixedRefused := refused }

/-- FIXED_RATE_WRITE (R393). -/
def execFixedRateWrite (on : Bool) (s : State) : Out := hostAccess (.fixedRateWrite on) (writeFixedRate on) s

/-! ### Droop (R389 to R391) -/

/-- DROOP_WARNING (R390). A crossing during the hold begins it again and is counted as well. -/
def execDroopWarning (die quadrant : Nat) (s : State) : Out :=
  if dieRuns s die && decide (quadrant < 4) then
    go (s.modDie die fun x => { x with droop := x.droop ||| BitVec.twoPow 4 quadrant, droops := satAdd top48 x.droops 1 })
  else go s

/-- The value of WR_D_DIP_LAST (Table 14.8). -/
def dipWord (q depth duration : Nat) : Word :=
  BitVec.ofNat 64 (q % 4 + depth % 256 * 2 ^ 2 + duration % 2 ^ 32 * 2 ^ 10 + 2 ^ 42)

/-- DROOP_RECOVERY_HOLD_EXPIRY (R390, R391). The dip is recorded when the withholding ends. -/
def execDroopRecoveryHoldExpiry (die quadrant depth duration : Nat) (s : State) : Out :=
  if !(dieRuns s die && decide (quadrant < 4) && (s.die die).droop.getLsbD quadrant) then go s
  else
    let s1 := s.modDie die fun x => { x with
      droop := x.droop &&& ~~~ BitVec.twoPow 4 quadrant, dipQuadrant := BitVec.ofNat 2 quadrant
      dipDepth := BitVec.ofNat 8 depth, dipDuration := BitVec.ofNat 32 duration, dipValid := true }
    let cores := (List.range 16).map fun k => 64 * die + 16 * quadrant + k
    go (report { Spill.of 6 die 0 with kind := 16, index := die, detail1 := dipWord quadrant depth duration }
      ((cores.foldl (fun (x : State) c => startArray c x) s1).modWeir fun w => { w with dips := satAdd top48 w.dips 1 }))

/-! ### Reset of a die (R390, R425, Table 15.12) -/

/-- The work that a die holds: its tasks and their asynchronous instructions end; their grants, waits and tags go. -/
def endDie (d : Nat) (s : State) : State :=
  let on := fun (w : Who) => decide (w.core / 64 = d)
  let out := (s.ops.filter fun o => on o.who).map (·.id)
  let here := fun (w : Waiter) => on w.who && !w.saved
  let s1 := removeWaiters here s
  { s1 with
    errs := s1.errs.filter fun e => !((e.source = 5 || e.source = 6) && e.unit / 64 = d)
    tasks := s1.tasks.filter fun e => !on (keyWho e.1)
    ops := s1.ops.filter fun o => !on o.who
    tags := s1.tags.map fun t => match t.use with
      | .engine op .. => if out.contains op then { t with abandoned := true } else t
      | .remoteRow op => if out.contains op then { t with abandoned := true } else t
      | .write op => if out.contains op then { t with abandoned := true } else t
      | .remoteLoad w _ _ _ => if on w then { t with abandoned := true } else t
      | .remoteStore w => if on w then { t with abandoned := true } else t
      | _ => t
    inflight := s1.inflight.filter fun m => !on m.who
    grants := s1.grants.filter fun g => !on g.who || (s.task g.who).isNone
    slots := s1.slots.map fun e => (e.1, { e.2 with
      heldNow := e.2.heldNow.filter (fun w => !on w.1)
      heldNext := e.2.heldNext.filter (fun w => !on w.1), pendingDie := e.2.pendingDie.filter (fun w => !on w.1) })
    cores := s1.cores.map fun e =>
      if e.1 / 64 = d then (e.1, { e.2 with cistern := [], footprint := none, mark := none, mxmQueue := [], issues := 0 }) else e }

/-- Contexts that lose a task, a wait or a group by a reset of the die: those with a task on it, with a waiter at a tally or a
task held at a check slot homed on it, or with a frame that the digest engine in service there copies (R425, R439). -/
def dieContexts (d : Nat) (s : State) : List Nat :=
  (residents s d
    ++ ((s.tallies.filter fun e => homeDie e.1 = d).flatMap fun e => e.2.queue.map fun w => w.ctx)
    ++ ((s.slots.filter fun e => e.2.bound && e.2.home.toNat = d && !(e.2.heldNow.isEmpty && e.2.heldNext.isEmpty)).map fun e =>
      e.2.ctx.toNat)
    ++ (s.dg.held.filter fun w => servingEngine s w.tier w.frame = d).filterMap fun w => uncopiedOwner s w.tier w.frame).dedup

/-- An ABORT under way stops where it stands for the wider event that its context meets, and writes no record: the parcels that it
has claimed are then those of the dirty step (R414; DEDUCED, log entry 55). -/
def dropAborts (c : Nat) (s : State) : State :=
  let cut := (s.ctx c).aborts.map (·.hostSeq)
  let s1 := s.modCtx c fun x => { x with
    aborts := [], phase := if x.phase = .aborting then .opened else x.phase
    parcels := x.parcels.map fun p => if p.claimed.isSome then
      { p with claimed := none, progress := if p.progress = .recorded then .started else p.progress } else p }
  cut.foldl (fun (x : State) h => finishParcel c h x) s1

/-- A port with its counters at zero. -/
def Port.uncounted (p : Port) : Port :=
  { p with tx := 0, rx := 0, fecCorr := 0, fecUncorr := 0, crcFail := 0, replayed := 0, retrained := 0, badFlit := 0,
           lost := 0, paceRx := 0 }

/-- Counters of the die's units start again (Table 15.12): samplers, engines, tally pool, staging buffer, ports, weir. -/
def dieCounters (d : Nat) (s : State) : State :=
  let out := fun (n : Nat) (t : Tab Nat) => t.filter fun e => e.1 / n ≠ d
  { s with
    sm := { s.sm with edges := out 4 s.sm.edges, rows := out 4 s.sm.rows, feistel := out 4 s.sm.feistel
                      starve := out 4 s.sm.starve }
    sl := { s.sl with rows := out 8 s.sl.rows, late := out 8 s.sl.late, expired := out 8 s.sl.expired
                      starve := out 8 s.sl.starve }
    tl := { s.tl with poolFull := out 1 s.tl.poolFull }
    log := { s.log with overflow := out 1 s.log.overflow }
    links := { s.links with ports := s.links.ports.map fun e => (e.1, if portDie e.1 = d then e.2.uncounted else e.2) } }

/-- The state of a die as it stands in reset: OP0 with T = 78, its allowance to ramp, its timer running on. -/
def Die.inReset (x : Die) : Die :=
  let o := x.pointOf 0
  { Die.reset with
    ticks := x.ticks, points := x.points, nominal := x.nominal, lowestFixed := x.lowestFixed, fixedOk := x.fixedOk
    vcd := o.vcd, vcs := o.vcs, bias := o.bias, assist := o.assist, estimate := x.estimate, budget := x.budget
    dynamic := x.dynamic, arrayPart := x.arrayPart
    lastFloor := x.lastFloor, lastFull := x.lastFull
    resetting := true, up := x.up }

/-- Ports of a die that are Active retrain. -/
def diePorts (d : Nat) (s : State) : State :=
  ((List.range 4).map (4 * d + ·)).foldl (fun (x : State) p =>
    if (x.port p).state = .active then retrainNow p x else x) s

/-- A compute die resets (R390, R425, R448). `sensor` is the quadrant whose sensor crossed below reset. -/
def resetDie (d : Nat) (sensor : Option Nat) (s : State) : State :=
  let cs := dieContexts d s
  let s1 := dieCounters d (endDie d s)
  let s2 := breakSlots (fun c => c.home.toNat = d) none false
    { s1 with tallies := s1.tallies.filter fun e => homeDie e.1 ≠ d }
  let s3 := diePorts d (s2.modDie d Die.inReset)
  let s4 := report { Spill.of 0 d 3 with
    kind := 16, index := d, detail0 := 9, detail1 := BitVec.ofNat 64 (sensor.getD 0) } s3
  charge 16 d (cs.foldl (fun (x : State) c => dropAborts c (makeDirty c false x)) s4)

/-- DROOP_RESET (R390). -/
def execDroopReset (die quadrant : Nat) (s : State) : Out :=
  if dieRuns s die && decide (quadrant < 4) then go (resetDie die (some quadrant) s) else go s

/-- DIE_RESET (R413, R425): the keeper resets a die on a die fault. -/
def execDieReset (die : Nat) (s : State) : Out :=
  if dieRuns s die then go (resetDie die none s) else go s

/-- DIE_RESET_COMPLETE (R413). -/
def execDieResetComplete (die : Nat) (s : State) : Out :=
  if (s.die die).resetting then go (s.modDie die fun x => { x with resetting := false }) else go s

end Sys2Proof.Machine
end

