-- ==== Sys2Proof/Machine/Power.lean ====
section
/-! DEFINITION. Start-up, resets, supplies, entry into Drowse and Deep, temperature and loss of lock
(15_startup_states.md R397 to R404, R413 to R423; 01_module.md R17, R24 to R37; 02_handshake_timing.md R47). Leaving Drowse
stands in Wake.lean. -/

namespace Sys2Proof.Machine

open Sys2Proof

def State.modPower (s : State) (f : Power → Power) : State := { s with power := f s.power }
def State.modKeeper (s : State) (f : Keeper → Keeper) : State := { s with keeper := f s.keeper }
def State.inPhase (s : State) (p : Phase) : Bool := s.power.phase = p

/-- Keeper firmware or the recovery ROM answers the sideband (R397, R402). -/
def sidebandUp (s : State) : Bool := !(s.inPhase .off || s.inPhase .romStarted || s.inPhase .imageVerified)

/-- Every open context is reset (R80). -/
def resetOpenContexts (s : State) : State :=
  ((s.ctxs.filter fun e => e.2.isOpen).map (·.1)).foldl (fun (x : State) c => resetContext c x) s

/-- Some context is open. -/
def anyOpen (s : State) : Bool := s.ctxs.any fun e => e.2.isOpen

/-! ### What survives (R423, Table 15.12) -/

/-- The fuses of a die, its points among them, with its rails off (Table 15.8). -/
def Die.fused (x : Die) : Die :=
  { Die.reset with points := x.points, nominal := x.nominal, lowestFixed := x.lowestFixed, fixedOk := x.fixedOk }

/-- A die that starts: its rails at OP0 with T = 78. -/
def Die.started (x : Die) : Die :=
  let o := x.pointOf 0
  { x.fused with vcd := o.vcd, vcs := o.vcs, bias := o.bias, assist := o.assist }

/-- What the flash itself holds. -/
def MemTier.flashKept (m : MemTier) : MemTier :=
  { MemTier.reset with
    wear := m.wear, reserve := m.reserve, factory := m.factory, placed := m.placed, badSectors := m.badSectors
    retired := m.retired }

/-- What has left the host port stays sent. -/
def Headgate.sent (h : Headgate) : Headgate := { Headgate.reset with msix := h.msix, readData := h.readData, atsDone := h.atsDone }

/-- The module in Off, or as power-on finds it: fuses, keeper store, fence list and flash sectors are kept. -/
def afterOff (s : State) : State :=
  { State.reset with
    pending := s.pending, freeCount := s.freeCount, nextOp := s.nextOp, nextTag := s.nextTag
    power := { Power.reset with
      vmain := s.power.vmain, vmainMv := s.power.vmainMv, inputOpen := s.power.inputOpen, perst := s.power.perst }
    fuses := s.fuses
    keeper := { Keeper.reset with
      slotA := s.keeper.slotA, slotB := s.keeper.slotB, preferB := s.keeper.preferB, newImage := s.keeper.newImage
      firstStart := s.keeper.firstStart, certChain := s.keeper.certChain, romDigest := s.keeper.romDigest, fenceList := s.keeper.fenceList
      answers := s.keeper.answers }
    hg := s.hg.sent
    mem := { Mem.reset with host := s.mem.host, flash := s.mem.flash }
    mt := s.mt.flashKept
    merge := { Merge.reset with nextMove := s.merge.nextMove }
    fence := { Fencing.reset with ucie := s.fence.ucie }
    dies := s.dies.map fun e => (e.1, e.2.fused)
    errs := s.errs.filter fun e => e.source = 3 || e.source = 4 }

/-- The module in Deep: the keeper's state, its charges and pending fences among it, the ROS fields and IOD0's timer are kept
as well, the requests of EL_FENCE and EL_BIST among them; debug is locked. The keeper's own staging buffer lies in its domain
(log entry 41). -/
def afterDeep (cause : Nat) (s : State) : State :=
  let o := afterOff s
  settleFences { o with
    fence := { s.fence with bistBusy := false, pllBad := [] }
    power := { s.power with
      phase := .deep, converting := false, vstbFromVint := false, ready := false, keeperPll := false, wakeHeld := false
      starting := false, rwlLocked := false, alert := false }
    keeper := { s.keeper with scopes := 0, pwrRequest := 0, deepCause := BitVec.ofNat 4 cause }
    mt := { o.mt with grown := s.mt.grown }
    dies := o.dies.put 8 { (s.die 8).fused with ticks := (s.die 8).ticks }
    weir := { Weir.reset with capSideband := s.weir.capSideband, gain := s.weir.gain }
    log := { s.log with
      ringLost := 0, overflow := [], classes := []
      staging := match s.log.staging.find 8 with
        | some l => [(8, l)]
        | none => [] } }

/-- Entry into Deep, or into Off where VAUX is not there to carry the standby supply (R17, R31, R419). -/
def enterDeep (cause : Nat) (s : State) : State := if s.power.vaux then afterDeep cause s else afterOff s

/-- A fenced port stays fenced; any other is as after a reset. -/
def Port.afterReset (p : Port) : Port :=
  if p.state = .fenced then { Port.reset with state := .fenced, downCause := 5 } else Port.reset

/-- A module reset: memory contents, keeper, fences and the spill-log ring are kept, and P10 runs again (R413). -/
def afterModuleReset (s : State) : State :=
  settleFences { s with
    power := { s.power with phase := .computing, ready := false, rwlLocked := false, wakeHeld := false }
    keeper := { s.keeper with scopes := 0, pwrRequest := 0 }
    hg := s.hg.sent
    ctxs := [], tasks := [], saved := [], ops := [], loose := [], tags := [], tallies := [], tl := TallyRegs.reset, inflight := []
    grants := [], slots := []
    cores := s.cores.map fun e => (e.1, { Core.reset with fenced := e.2.fenced })
    links := { Links.reset with ports := s.links.ports.map fun e => (e.1, e.2.afterReset) }
    merge := { Merge.reset with fenced := s.merge.fenced, nextMove := s.merge.nextMove }
    mt := { s.mt.flashKept with
      fenceFar := s.mt.fenceFar, fenceFlash := s.mt.fenceFlash, fenceNear := s.mt.fenceNear
      framesNear := s.mt.framesNear, framesFar := s.mt.framesFar, mapFence := s.mt.mapFence, mapReady := s.mt.mapReady
      rebuilding := s.mt.rebuilding, capSectors := s.mt.capSectors, grown := s.mt.grown, bg := s.mt.bg }
    sm := { Samplers.reset with fenced := s.sm.fenced }
    sl := { Sluice.reset with fenced := s.sl.fenced, fencedIo := s.sl.fencedIo, decompFenced := s.sl.decompFenced }
    dies := s.dies.map fun e => (e.1, { e.2.started with ticks := e.2.ticks, up := e.2.up })
    weir := { Weir.reset with capSideband := s.weir.capSideband, gain := s.weir.gain }
    log := { s.log with ringLost := 0, overflow := [], classes := [] }
    fence := { s.fence with bistBusy := false }
    errs := s.errs.filter fun e => e.source < 5
    touched := []
    dg := { Digest.reset with fenced := s.dg.fenced } }

/-! ### Power-up (R397 to R403, Table 15.1) -/

/-- The 512 bytes of an image's header (Table 15.2). -/
def imageHeader (i : Image) : List Byte :=
  leBytes 4 i.magic.toNat ++ [i.version, BitVec.ofNat 8 i.keyIndex.val, i.svn.zeroExtend 8, i.reserved]
    ++ leBytes 4 i.length ++ leBytes 4 i.fwVersion.toNat ++ recBytes i.digest ++ leBytes 132 i.signature.toNat
    ++ leBytes 132 i.publicKey.toNat ++ leBytes 168 i.tail.toNat

/-- The bytes of its body that count. -/
def imageBody (i : Image) : List Byte := takePad 0 i.length i.body

/-- The SHA-512 digest of its public key. -/
def imageKeyDigest (i : Image) : Rec := bytesRec (sha512 (leBytes 132 i.publicKey.toNat))

/-- The first step of R402 that an image fails, or 0. In Test an image may be signed under any unrevoked key slot
(Table 15.5). -/
def imageFails (s : State) (i : Image) : Nat :=
  let slotOk := fun (k : Nat) => !s.fuses.fwRevoked.getD k true && s.fuses.fwDigest.getD k 0 = imageKeyDigest i
  let keyOk := if s.fuses.lifecycle = 1 then (List.range 4).any slotOk else slotOk i.keyIndex.val
  if i.magic ≠ 0x464B5A43 || i.version ≠ 2 || i.reserved ≠ 0 || i.tail ≠ 0 then 1
  else if i.length = 0 || 4194304 - 512 < i.length then 2
  else if !keyOk then 3
  else if i.svn.ult s.fuses.svnMin then 4
  else if bytesRec (sha512 (imageBody i)) ≠ i.digest then 5
  else if !i.sigOk then 6
  else 0

/-- The image in a slot. -/
def Keeper.image (k : Keeper) (b : Bool) : Image := if b then k.slotB else k.slotA

/-- A byte of the keeper store by its offset (R401): slot A from 0 and slot B from 4 MiB on, each an image with its header first.
Where the rest lies in the 8 MiB from offset 8 MiB is not given. -/
def Keeper.storeByte (k : Keeper) (off : Nat) : Option Byte :=
  if off < 2 ^ 23 then
    let i := k.image (decide (2 ^ 22 ≤ off))
    some ((imageHeader i ++ i.body).getD (off % 2 ^ 22) 0)
  else none

/-- The ROM starts on the fast oscillator, with the straps as sampled (P1). -/
def startRom (straps : BitVec 3) (s : State) : State :=
  (s.modKeeper fun k => { k with straps := straps, address := 0x58#7 ||| straps.zeroExtend 7, dynamicAddr := false }).modPower
    fun p => { p with phase := .romStarted }

/-- POWER_ON (R23, R397). -/
def execPowerOn (strap : BitVec 3) (s : State) : Out :=
  if s.inPhase .off then go ((startRom strap (afterOff s)).modPower fun p => { p with vaux := true }) else go s

/-- A boot-class record (Table 16.3). -/
def bootRecord (severity step : Nat) (slot : Bool) (s : State) : State :=
  report { Spill.of 0xE 8 severity with detail0 := BitVec.ofNat 64 step, detail1 := BitVec.ofNat 64 (b2n slot) } s

/-- KEEPER_IMAGE_VERIFY (R402, R404, R409). A preferred image that fails at its first start leaves the other preferred. A new image
that has not been activated stays one while the other slot runs. -/
def execKeeperImageVerify (s : State) : Out :=
  if !s.inPhase .romStarted then go s
  else
    let k := s.keeper
    let p := k.preferB
    let first := imageFails s (k.image p)
    let second := imageFails s (k.image !p)
    let s1 := s.modKeeper fun k => { k with
      bootFail := BitVec.ofNat 4 first, fallback := decide (first ≠ 0), newImage := k.newImage && !k.firstStart && first = 0 }
    if s.fuses.lifecycle = 4 || (first ≠ 0 && second ≠ 0) then
      go (bootRecord 3 first p ((s1.modKeeper fun k => { k with runB := p }).modPower fun x => { x with phase := .recovery }))
    else if first = 0 then
      go ((s1.modKeeper fun k => { k with runB := p, firstStart := false }).modPower fun x => { x with phase := .imageVerified })
    else
      go (bootRecord 1 first (!p) ((s1.modKeeper fun k => { k with
          runB := !p, preferB := if k.firstStart then !p else p, firstStart := false }).modPower fun x =>
        { x with phase := .imageVerified }))

/-- KEEPER_FIRMWARE_START (R397, P3). The module is in Deep, and conversion is due at moment C, unless a trip asks for a wake
first (R37). -/
def execKeeperFirmwareStart (s : State) : Out :=
  if s.inPhase .imageVerified then go (s.modPower fun p => { p with phase := .deep, starting := !p.thermalHold }) else go s

/-- CONVERSION_ENABLE (R29, R37, R397, P4). At moment C VMAIN stands above its rising lockout, its switch closed; the level
that it is measured at is within the operating range of Table 1.6 and otherwise open. A wake held until now is met. -/
def execConversionEnable (s : State) : Out :=
  if s.inPhase .deep && s.power.starting && s.power.vmain && !s.power.inputOpen && !s.power.thermalHold then
    go { s.modPower (fun p => { p with
        phase := .charging, starting := false, wakeHeld := false
        vmainMv := 40000 + (Config.freeWord s.freeCount 0).toNat % 20001 }) with freeCount := s.freeCount + 1 }
  else go s

/-- INRUSH_CHARGE_COMPLETE (R17, R24, R29, P5). ALERT# is driven again. -/
def execInrushChargeComplete (s : State) : Out :=
  if s.inPhase .charging && s.power.vmain then
    go (s.modPower fun p => { p with
      phase := .converted, converting := true, vstbFromVint := true, alert := s.keeper.alertHeld })
  else go s

/-- PLL_LOCK (R400, P7). -/
def execPllLock (s : State) : Out :=
  if s.inPhase .converted then go (s.modPower fun p => { p with phase := .locked, keeperPll := true }) else go s

/-- The host port starts Detect once P9 has come, the headgate is not open, and PERST# is high (R398). -/
def startDetect (s : State) : State :=
  if (s.inPhase .computing || s.inPhase .initialised) && !s.power.perst then { s with hg := { s.hg with detect := true } } else s

/-- COMPUTE_DOMAINS_START (R397, P8 and P9). -/
def execComputeDomainsStart (s : State) : Out :=
  if s.inPhase .locked then
    go (startDetect ((List.range 10).foldl (fun (x : State) d => x.modDie d fun y =>
        { y.started with ticks := y.ticks, up := true, resetting := false })
      (s.modPower fun p => { p with phase := .computing })))
  else go s

/-- The module fails hard as soon as its fence list says so (R450, R453). -/
def failFromList (cause : Nat) (s : State) : State :=
  if s.log.failed then s else { s with log := { s.log with failed := true, failCause := cause } }

/-- Applies one entry of the fence list; its event was recorded when it was made. -/
def applyEntry (s : State) (e : FenceEntry) : State :=
  if unitFenced s e.kind e.index && e.kind ≠ 8 && e.kind ≠ 15 && e.kind ≠ 16 then s
  else
    match e.kind with
    | 7 => s.modPort e.index fun p => { p with state := .fenced, downCause := 5 }
    | 8 => if edgeDead s (e.index / 8) then failFromList 1 s else s
    | 15 =>
      match e.index / 256 with
      | 0 => failFromList 3 s
      | 4 => failFromList 4 s
      | 5 => s.modPower fun p => { p with keeperPll := false }
      | _ => s
    | 16 => failFromList 2 s
    | k => takeOut k e.index s

/-- MODULE_INIT_COMPLETE (R397, P10): the fence list is applied (R450). A map that is yet to be loaded has no lost part. -/
def execModuleInitComplete (s : State) : Out :=
  if !s.inPhase .computing then go s
  else
    let s1 := s.keeper.fenceList.foldl applyEntry (s.modPower fun p => { p with phase := .initialised })
    if s1.mt.mapReady then go s1
    else go (s1.modMt fun m => { m with mapFence := 0, rebuilding := false })

/-- The host link as it trains, with its clock: at the highest generation and width that both ends support, which the other
end leaves open, and in flit mode always from 64 GT/s on (R54). -/
def trainLink (up : Bool) (s : State) : State :=
  let f := (Config.freeWord s.freeCount 54).toNat
  let gen := 1 + f % 7
  { s with
    freeCount := s.freeCount + 1
    hg := { s.hg with
      detect := false, linkUp := up, generation := gen, lanes := 2 ^ (f / 8 % 5), flitMode := 6 ≤ gen || f / 64 % 2 = 1 } }

/-- HEADGATE_OPEN (R24, R54, R398, R403, P11). -/
def execHeadgateOpen (s : State) : Out :=
  if s.inPhase .initialised && !s.power.perst then
    let svn := (s.keeper.image s.keeper.runB).svn
    go { trainLink (clockGood s 0) (s.modPower fun p => { p with phase := .active, ready := true, rwlLocked := true }) with
      fuses := { s.fuses with svnMin := if s.fuses.svnMin.ult svn then svn else s.fuses.svnMin } }
  else go s

/-- FTL_MAP_LOADED (R399, P12). -/
def execFtlMapLoaded (s : State) : Out :=
  if s.inPhase .initialised || s.active then go (s.modMt fun m => { m with mapReady := true }) else go s

/-! ### Resets (R398, R413 to R415) -/

/-- PERST_ASSERT (R398, R413, R421). During power-up and in Deep it holds only the host port. -/
def execPerstAssert (s : State) : Out :=
  let s1 := { s.modPower (fun p => { p with perst := true }) with hg := { s.hg with detect := false } }
  if s.active || inDrowse s then go (afterModuleReset s1) else go s1

/-- PERST_DEASSERT (R398). -/
def execPerstDeassert (s : State) : Out := go (startDetect (s.modPower fun p => { p with perst := false }))

/-- A context after a hot reset: its entry, keys and detector at their reset values. -/
def Ctx.hotReset (x : Ctx) : Ctx := { Ctx.reset with phase := if x.phase = .resetting then .resetting else .closed }

/-- A slot that is no longer bound. -/
def CheckSlot.unbound (c : CheckSlot) : CheckSlot :=
  { c with bound := false, state := .counting, arrived := 0, ahead := 0, childrenDone := 0, pendingDie := [], heldNow := [], heldNext := [],
           pace := false, sentComplete := false }

/-- An ingest slot after a hot reset: cut short with code 5, its control fields at their reset values. -/
def Ingest.hotReset (i : Ingest) : Ingest :=
  let busy := i.state = 1
  { regs := IngestCmd.reset, cmd := i.cmd
    state := if busy then 3 else i.state, code := if busy then 5 else i.code, sectors := i.sectors, order := i.order }

/-- The configuration space after a hot reset or FLR: sticky fields are kept, and by FLR also the largest payload and the link's
(Table 15.12, note 1). -/
def PciConfig.afterReset (flr : Bool) (c : PciConfig) : PciConfig :=
  let kept := { PciConfig.reset with poisoned := c.poisoned, timedOut := c.timedOut, unsupported := c.unsupported }
  if flr then { kept with payload := c.payload, aspmL1 := c.aspmL1, l0p := c.l0p } else kept

/-- A read loses what it asked of the host: its completion is discarded when it comes (R415). -/
def Tag.noHost (t : Tag) : Tag :=
  match t.use with
  | .engine op unit src => { t with use := .engine op unit (src.filter fun p => p.1 ≠ .host) }
  | _ => t

/-- What a hot reset or FLR leaves (R415, Table 15.12). -/
def resetPort (flr : Bool) (s : State) : State :=
  let s2 := breakSlots (fun _ => true) none true (resetTallies (fun _ _ => true) (resetOpenContexts s))
  { s2 with
    slots := s2.slots.map fun e => (e.1, e.2.unbound)
    ctxs := s2.ctxs.map fun e => (e.1, e.2.hotReset)
    tags := s2.tags.map fun t => match t.use with
      | .bar4 .. => { t with abandoned := true }
      | _ => t.noHost
    hg := { s2.hg.sent with
      linkUp := s2.hg.linkUp, drops := s2.hg.drops, generation := s2.hg.generation, lanes := s2.hg.lanes
      flitMode := s2.hg.flitMode, cfg := s2.hg.cfg.afterReset flr, retries := s2.hg.retries }
    keeper := { s2.keeper with pwrRequest := 0 }
    sm := { s2.sm with snDefault := Samplers.reset.snDefault }
    mt := { s2.mt with
      invalCtx := 0, invalSize := 16, invalBase := 0, ingest := s2.mt.ingest.map fun e => (e.1, e.2.hotReset) }
    weir := { s2.weir with
      fixedRate := false, boost := true, pace := true, capHost := 4000, phases := Weir.reset.phases
      boostMax := Weir.reset.boostMax, threshold := Weir.reset.threshold, paceTicks := Weir.reset.paceTicks } }

/-- A hot reset or FLR. The host link retrains on a hot reset (Table 15.12). -/
def hotReset (flr : Bool) (s : State) : State :=
  if flr then resetPort true s else trainLink (clockGood s 0) (resetPort false s)

/-- HOT_RESET (R415). -/
def execHotReset (s : State) : Out := hostEvent (hotReset false) s
/-- FLR (R415). -/
def execFlr (s : State) : Out := hostEvent (hotReset true) s

/-! ### Supplies (R17, R28 to R31, Table 1.7) -/

/-- A supply-class record (Table 16.3): 1 lockout, 2 overvoltage, 3 over-current, 4 VAUX lost. -/
def supplyRecord (input cause mv ticks : Nat) (s : State) : State :=
  report { Spill.of 9 8 1 with
    kind := 19, index := input, detail0 := BitVec.ofNat 64 mv
    detail1 := BitVec.ofNat 64 (cause + ticks % 2 ^ 32 * 2 ^ 16) } s

/-- A start or a wake is under way or over, so that a trip or a VMAIN event ends it (R421). -/
def pastC (s : State) : Bool := s.power.converting || s.inPhase .charging || s.power.starting

/-- VMAIN_UNDERVOLTAGE (R31). -/
def execVmainUndervoltage (mv ticks : Nat) (s : State) : Out :=
  let s1 := s.modPower fun p => { p with vmain := false }
  if s.power.converting then go (enterDeep 3 (supplyRecord 0 1 mv ticks s1))
  else if pastC s then go (enterDeep 3 s1)
  else go s1

/-- VMAIN_OVERVOLTAGE (R31): the input switch opens. In Off no keeper records it. -/
def execVmainOvervoltage (mv ticks : Nat) (s : State) : Out :=
  let s1 := s.modPower fun p => { p with vmain := false, inputOpen := true }
  let s2 := if s.inPhase .off then s1 else supplyRecord 0 2 mv ticks s1
  if pastC s then go (enterDeep 4 s2) else go s2

/-- VMAIN_OVERCURRENT_TRIP (R28). VMAIN itself stays within its range. -/
def execVmainOvercurrentTrip (mv ticks : Nat) (s : State) : Out :=
  if s.power.converting then go (enterDeep 5 (supplyRecord 0 3 mv ticks s)) else go s

/-- VMAIN_RETURN (R31, R420). -/
def execVmainReturn (s : State) : Out :=
  go (s.modPower fun p => { p with vmain := true, inputOpen := false, wakeHeld := p.wakeHeld || p.phase = .deep })

/-- A loss of VAUX (R17, R31): a sticky warning while VMAIN converts, else the standby supply collapses. -/
def loseVaux (cause mv ticks : Nat) (s : State) : State :=
  if s.power.converting then
    supplyRecord 1 cause mv ticks (s.modPower fun p => { p with vaux := false, vauxLost := true })
  else afterOff s

/-- VAUX_UNDERVOLTAGE (R31). -/
def execVauxUndervoltage (mv ticks : Nat) (s : State) : Out :=
  if s.power.vaux then go (loseVaux 4 mv ticks s) else go s
/-- VAUX_OVERVOLTAGE (R31). -/
def execVauxOvervoltage (mv ticks : Nat) (s : State) : Out :=
  if s.power.vaux then go (loseVaux 2 mv ticks s) else go s
/-- VAUX_RETURN (R31). From Off it is a power-on instead. -/
def execVauxReturn (s : State) : Out :=
  if s.inPhase .off then go s else go (s.modPower fun p => { p with vaux := true })
/-- BOTH_SUPPLIES_LOST (R31). -/
def execBothSuppliesLost (s : State) : Out := go (afterOff (s.modPower fun p => { p with vmain := false }))

/-! ### Drowse and Deep (R417 to R421, Table 15.9) -/

/-- Why Drowse is refused (R417, Table 15.9); 0 where it is not. A parcel whose record waits for the ring is neither queued nor
running. -/
def drowseRefusal (s : State) : Nat :=
  let busy := (s.ctxs.any fun e => !e.2.aborts.isEmpty || e.2.parcels.any fun p => p.progress ≠ .recorded)
    || !s.saved.isEmpty || (s.mt.ingest.any fun e => e.2.state = 1) || s.mt.invalBusy || s.tl.setBusy || s.tl.resetBusy
  if busy then 1
  else if s.slots.any fun e => e.2.bound then 2
  else if s.merge.rounds.any fun e => e.2.isOpen then 3
  else 0

/-- A request is refused with a cause. -/
def refusePower (cause : Nat) (s : State) : State :=
  s.modKeeper fun k => { k with pwrRefused := true, pwrCause := BitVec.ofNat 4 cause }

/-- A go clears the refusal of the one before. -/
def clearRefusal (s : State) : State := s.modKeeper fun k => { k with pwrRefused := false, pwrCause := 0 }

/-- A request for Drowse (R417). -/
def requestDrowse (s : State) : State :=
  let s1 := clearRefusal s
  match drowseRefusal s with
  | 0 => s1.modPower fun p => { p with phase := .enteringDrowse, ready := false }
  | c => refusePower c s1

/-- KP_PWR.go with request 1. -/
def askDrowse (s : State) : State :=
  if s.active then requestDrowse (s.modKeeper fun k => { k with pwrRequest := 1 }) else s

/-- DROWSE_REQUEST (R417). -/
def execDrowseRequest (s : State) : Out := hostCommand .drowseRequest askDrowse s

/-- The sideband answers requests of its own: keeper firmware runs, where the recovery ROM answers none (R402). -/
def firmwareUp (s : State) : Bool := sidebandUp s && !s.inPhase .recovery

/-- SIDEBAND_DROWSE_REQUEST (R417). -/
def execSidebandDrowseRequest (s : State) : Out :=
  if s.active then
    let s1 := requestDrowse s
    go (reply (.handled !s1.keeper.pwrRefused) s1)
  else if firmwareUp s then go (reply (.handled false) s)
  else go s

/-- A die in Drowse (Table 15.8). -/
def Die.asleep (x : Die) : Die := { x with vcd := 450, vcs := 0, bias := -8, assist := 0 }

/-- DROWSE_ENTRY_COMPLETE (R416, R417). What wakes the module meanwhile abandons the entry (R421). -/
def execDrowseEntryComplete (s : State) : Out :=
  if !s.inPhase .enteringDrowse || s.power.wakeHeld || !s.hg.held.isEmpty then go s
  else
    let s1 := (List.range 32).foldl (fun (x : State) p => portDown p 6 x) s
    let s2 := (List.range 8).foldl (fun (x : State) d => x.modDie d Die.asleep) s1
    go { s2.modPower (fun p => { p with phase := .drowse }) with
      cores := s2.cores.map fun e => (e.1, { e.2 with cistern := [] })
      errs := s2.errs.filter fun e => e.source ≠ 5 && e.source ≠ 6 }

/-- KP_PWR.go with request 2. -/
def askDeep (s : State) : State :=
  let s1 := clearRefusal (s.modKeeper fun k => { k with pwrRequest := 2 })
  if anyOpen s then refusePower 4 s1
  else if !s.power.vaux then refusePower 5 s1
  else enterDeep 1 s1

/-- DEEP_REQUEST (R419). -/
def execDeepRequest (s : State) : Out := hostCommand .deepRequest askDeep s

/-- The module is past Deep and not yet back in it. -/
def aboveDeep (s : State) : Bool := firmwareUp s && !s.inPhase .deep

/-- SIDEBAND_DEEP_REQUEST (R419, R421). Open contexts are reset first. -/
def execSidebandDeepRequest (s : State) : Out :=
  if aboveDeep s then
    if s.power.vaux then go (reply (.handled true) (enterDeep 1 (resetOpenContexts (clearRefusal s))))
    else go (reply (.handled false) (refusePower 5 (clearRefusal s)))
  else if firmwareUp s then go (reply (.handled false) s)
  else go s

/-- A wake (R418, R420, R421): held in Deep; in Drowse the module leaves it; one during entry abandons the entry. -/
def wake (s : State) : State :=
  match s.power.phase with
  | .deep => s.modPower fun p => { p with wakeHeld := true }
  | .enteringDrowse => s.modPower fun p => { p with wakeHeld := true }
  | .drowse => s.modPower fun p => { p with phase := .leavingDrowse }
  | _ => s

/-- WAKE_TRIP (R26, R418, R420). -/
def execWakeTrip (s : State) : Out := go (wake s)

/-- SIDEBAND_WAKE_REQUEST (R420). -/
def execSidebandWakeRequest (s : State) : Out := if firmwareUp s then go (reply (.handled true) (wake s)) else go s

/-- WAKE_TAKES_EFFECT (R37, R420). -/
def execWakeTakesEffect (s : State) : Out :=
  if s.inPhase .deep && s.power.wakeHeld && s.power.vmain && !s.power.thermalHold then
    go (s.modPower fun p => { p with wakeHeld := false, starting := true })
  else go s

/-! ### Temperature (R35 to R38, R392) -/

/-- Warning and trip levels of a sensor, in 0.1 °C (Table 1.9); none for a reserved number. -/
def sensorLimits (index : Nat) : Option (Int × Int) :=
  let d := index / 64
  let n := index % 64
  if d < 8 then if n < 8 then some (1000, 1150) else if n < 12 then some (900, 1000) else none
  else if d < 10 then
    if n < 2 then some (1000, 1150)
    else if 16 ≤ n && n < 32 then some (900, 1000)
    else if 32 ≤ n && n < 48 then some (800, 900)
    else none
  else none

/-- A reading stands at or above its warning level. -/
def warns (e : Nat × Int) : Bool :=
  match sensorLimits e.1 with
  | some l => decide (l.1 ≤ e.2)
  | none => false

/-- A reading stands at or above its trip level. -/
def trips (e : Nat × Int) : Bool :=
  match sensorLimits e.1 with
  | some l => decide (l.2 ≤ e.2)
  | none => false

/-- A reading stands at least 3 °C below its warning level. -/
def cool (e : Nat × Int) : Bool :=
  match sensorLimits e.1 with
  | some l => decide (e.2 ≤ l.1 - 30)
  | none => true

/-- A thermal-class record. -/
def thermalRecord (severity : Nat) (e : Nat × Int) (s : State) : State :=
  report { Spill.of 7 8 severity with
    kind := 18, index := e.1, detail0 := BitVec.ofInt 64 e.2, detail1 := if severity = 3 then 1 else 0 } s

/-- One sample's revision of the thermal floor of a compute die (R392). -/
def reviseFloor (d : Nat) (s : State) : State :=
  let mine := (List.range 12).map fun k => (64 * d + k, reading s (64 * d + k))
  s.modDie d fun x => { x with
    thermal := if mine.any warns then min 78 (x.thermal + 4) else if mine.all cool then x.thermal - 1 else x.thermal }

/-- The condition of R37 after a trip: every sensor below its warning level for one second of the keeper's clock. -/
def coolDown (s : State) : State :=
  if !s.power.thermalHold then s
  else if s.power.sensors.any warns then s.modPower fun p => { p with coolSince := none }
  else
    let (now, s1) := readTimer 8 s
    match s.power.coolSince with
    | none => s1.modPower fun p => { p with coolSince := some now }
    | some t => if t + oneSecond ≤ now then s1.modPower fun p => { p with thermalHold := false, coolSince := none } else s1

/-- THERMAL_SAMPLE (R35 to R38, R392). A sensor that is not listed keeps its last reading. The records of several sensors
come in the order of their indices. A trip that finds no conversion to stop is recorded once, and holds any wake (R37). -/
def execThermalSample (readings : List (Nat × Int)) (s : State) : Out :=
  if !sidebandUp s then go s
  else
    let seen := readings.filter fun e => (sensorLimits e.1).isSome
    let now := seen.foldl (fun (t : Tab Int) e => t.put e.1 e.2) s.power.sensors
    let s1 := s.modPower fun p => { p with sensors := now }
    let fresh := now.filter fun e => warns e && !warns (e.1, reading s e.1)
    let s2 := fresh.foldl (fun (x : State) e => raiseAlert (thermalRecord 1 e x)) s1
    let s3 := (List.range 8).foldl (fun (x : State) d => if dieRuns s d then reviseFloor d x else x) s2
    let hot := now.filter trips
    let due := if pastC s then hot else hot.filter fun e => !trips (e.1, reading s e.1)
    let s4 := due.foldl (fun (x : State) e => thermalRecord 3 e x) s3
    if hot.isEmpty then go (coolDown s4)
    else
      let s5 := s4.modPower fun p => { p with thermalHold := true, coolSince := none }
      if pastC s then go (enterDeep 2 s5) else go s5

/-! ### Loss of lock (R47, Tables 2.2 and 2.3) -/

/-- The PLLs have locked, and the domains of a row run. In Drowse those of PCIe and the keeper do. -/
def domainRuns (s : State) (row : Nat) : Bool :=
  s.inPhase .locked || loopsRun s || (inDrowse s && (row = 0 || row = 5))

/-- A clock-class record. -/
def clockRecord (severity index attempts fenced : Nat) (s : State) : State :=
  report { Spill.of 8 8 severity with
    kind := 15, index := index, detail0 := BitVec.ofNat 64 attempts, detail1 := BitVec.ofNat 64 fenced } s

/-- A piece of a range lies in a memory channel, some sector of it in the case of flash. -/
def onChannel (s : State) (index : Nat) (p : Piece) : Bool :=
  if p.1 = .flash then (flashPages [p]).any fun k => channelDomain s .flash (4096 * k) = some index
  else channelDomain s p.1 p.2.1 = some index

/-- An engine's outstanding read in the channel is in error. -/
def readError (index : Nat) (s : State) (t : Tag) : State :=
  match t.use with
  | .engine id .. =>
    match (findOp s id).bind fun o => (o.openPos.find? fun p => p.tag = t.tag).map (o, ·) with
    | some (o, p) =>
      if p.src.any (onChannel s index) then rowInError o p (clockErr index (rowSource p)) (dropTag t.tag s) else s
    | none => s
  | _ => s

/-- An ingest that reads from the channel, or writes to it, meets the error. -/
def ingestOn (index : Nat) (s : State) (e : Nat × Ingest) : State :=
  let ps := match e.2.source s with
    | .ok ps => ps
    | .error _ => []
  if e.2.state = 1 && !e.2.cmd.op && (ps ++ [(Tier.flash, e.2.cmd.fla, e.2.cmd.len)]).any (onChannel s index) then
    ingestError e.1 (readPieces s.mem ps 0) (clockErr index e.2.cmd.src.toNat) s
  else s

/-- A first-touch copy that reads from the channel meets the error, and the seal lapses (R440). -/
def copyOn (index : Nat) (s : State) (f : Tier × Nat) : State :=
  match uncopiedOwner s f.1 f.2 with
  | some c =>
    if onChannel s index (f.1, f.2 * 65536, 65536) then
      releaseFrame f.1 f.2 (lapse c 3 f.2 (detected c 0 (clockErr index 0) s))
    else s
  | none => s

/-- A detected error on every request outstanding in a memory channel (Table 2.3): the reads of its engines, ingests and
first-touch copies. -/
def channelErrors (index : Nat) (s : State) : State :=
  let s1 := (s.tags.filter fun t => !t.abandoned).foldl (readError index) s
  let s2 := s1.mt.ingest.foldl (ingestOn index) s1
  lateReads (((s2.dg.held.map fun w => (w.tier, w.frame)).dedup).foldl (copyOn index) s2)

/-! ### Synchronising FIFOs (R44, R45) -/

/-- Entries of the FIFO of a crossing, by the edge domain's row of Table 2.2. A FIFO drops, repeats and reorders nothing, and its
latency is timing, so it has no place of its own in State: what stands in one is the front of what waits to cross (log entry 56). -/
def fifoDepth (row : Nat) : Nat := [64, 32, 64, 32, 32, 16].getD row 0

/-- Flits in the FIFO of port p on their way out. -/
def fifoFlits (s : State) (p : Nat) : List Flit := (s.port p).waiting.take (fifoDepth 3)

/-- Requests in the FIFO of a memory channel, which its domain's loss of lock flushes as errors (R47). -/
def fifoReads (s : State) (index : Nat) : List Piece :=
  (((openReads s).flatMap (·.2)).filter (onChannel s index)).take (fifoDepth (index / 256))

/-- Requests in the FIFO from IOD0 to the host port. -/
def fifoHost (s : State) : List Piece := (((openReads s).flatMap (·.2)).filter fun p => p.1 = .host).take (fifoDepth 0)

/-- The path passes from die a to its neighbour b. -/
def passes (a b : Nat) (path : List Nat) : Bool := (path.zip path.tail).contains (a, b)

/-- What stands in the FIFO of a fabric edge end toward the other: operations on their way to tallies, and grants. -/
def fifoFabric (s : State) (a b : Nat) : List (SyncMsg ⊕ Grant) :=
  let ops := s.inflight.filter fun m => passes a b (fabricPath (Who.die m.who) (homeDie m.tally))
  let grants := s.grants.filter fun g => passes a b (fabricPath g.src (Who.die g.who))
  (ops.map Sum.inl ++ grants.map Sum.inr).take (fifoDepth 4)

/-- Reports of IOD0 in the FIFO to the keeper. -/
def fifoKeeper (s : State) : List Spill := (s.log.staging.get [] 8).take (fifoDepth 5)

/-- What the handshake side sees of a loss of lock (Table 2.3). -/
def lockLost (row inst index : Nat) (s : State) : State :=
  match row with
  | 0 =>
    let s1 := if s.active || inDrowse s then hotReset false s else s
    { s1 with hg := { s1.hg with linkUp := false } }
  | 1 => channelErrors index s
  | 2 => channelErrors index s
  | 3 => portFails inst 1 s
  | 4 => (List.range 8).foldl (fun (x : State) u => fenceUnit 8 (8 * (inst / 2) + u) 5 x) s
  | _ => raiseAlert (s.modPower fun p => { p with keeperPll := false })

/-- PLL_LOSS_OF_LOCK (R47). Rows of Table 2.2 count from 0. -/
def execPllLossOfLock (row inst : Nat) (s : State) : Out :=
  let index := 256 * row + inst
  if !domainRuns s row || 256 ≤ inst || !unitExists 15 index || listed s 15 index || (s.fence.pllBad.find index).isSome then go s
  else
    let s1 := clockRecord (if row = 1 || row = 2 then 2 else 1) index 0 0 s
    go (lockLost row inst index { s1 with fence := { s1.fence with pllBad := s1.fence.pllBad.put index 0 } })

/-- PLL_LOCK_RETRY (R47). With its clock the host link is up again at once, which the spec leaves open (log entry 51). -/
def execPllLockRetry (row inst : Nat) (locked : Bool) (s : State) : Out :=
  let index := 256 * row + inst
  match s.fence.pllBad.find index with
  | none => go s
  | some n =>
    let drop := { s with fence := { s.fence with pllBad := s.fence.pllBad.del index } }
    if locked then
      match row with
      | 0 => go (if s.active || inDrowse s then trainLink true drop else drop)
      | 5 => go (drop.modPower fun p => { p with keeperPll := true })
      | _ => go drop
    else if n + 1 < 3 then go { s with fence := { s.fence with pllBad := s.fence.pllBad.put index (n + 1) } }
    else go (applyFence 15 index 5 (clockRecord 2 index 3 1 drop))

end Sys2Proof.Machine
end

