-- ==== Sys2Proof/Machine/Log.lean ====
section
/-! DEFINITION. The keeper drains the staging buffers into the spill-log ring (16_faults_recovery.md R427 to R432). -/

namespace Sys2Proof.Machine

open Sys2Proof

/-- The 64 bytes of a record (Table 16.2). -/
def Spill.bytes (r : Spill) : List Byte :=
  leBytes 64 (2 + r.cls % 16 * 2 ^ 4 + r.die % 16 * 2 ^ 8 + r.severity % 4 * 2 ^ 12 + r.kind % 256 * 2 ^ 16
    + r.index % 2 ^ 32 * 2 ^ 24 + (r.context.getD 0) % 1024 * 2 ^ 64 + b2n r.context.isSome * 2 ^ 74
    + r.hostSeq.toNat * 2 ^ 96 + r.count % 2 ^ 32 * 2 ^ 128 + r.step.toNat * 2 ^ 160
    + (stamp r.die r.first).toNat * 2 ^ 192 + (stamp r.die r.last).toNat * 2 ^ 256 + r.address.toNat * 2 ^ 320
    + r.detail0.toNat * 2 ^ 384 + r.detail1.toNat * 2 ^ 448)

/-- Far address of the slot of count n (R296, R431). -/
def slotAddr (s : State) (n : W32) : Nat :=
  let i := n.toNat % 65536
  ringBase s (i / 1024) + 64 * (i % 1024)

/-- Writes one record to the ring: a full ring loses its oldest, vector 0 fires where asked for, and severity 3 raises an
alert (R431). -/
def ringPut (s : State) (r : Spill) : State :=
  let full := 65536 ≤ (s.log.head - s.log.tail).toNat
  let s1 := { s with
    mem := { s.mem with far := Memory.write s.mem.far (slotAddr s s.log.head) r.bytes }
    log := { s.log with head := s.log.head + 1, ringLost := satAdd top48 s.log.ringLost (b2n full) } }
  let s2 := if s.log.irq && decide (2 ≤ r.severity) then fireMsix 0 s1 else s1
  if r.severity = 3 then raiseAlert s2 else s2

/-- SPILL_LOG_DRAIN (R429, R431): the dies in increasing ID, the oldest entries first. Far memory must run. Charges that
have come due are acted on first (R449). -/
def execSpillLogDrain (s : State) : Out :=
  if s.active || s.inPhase .initialised then
    let s1 := settleCharges s
    go ((s1.log.staging.flatMap fun e => e.2).foldl ringPut { s1 with log := { s1.log with staging := [] } })
  else go s

/-- A write of EL_CTL.clear_first. -/
def clearFirst (s : State) : State := { s with log := { s.log with first := none } }

/-- CLEAR_FIRST (R432). -/
def execClearFirst (s : State) : Out := hostAccess .clearFirst clearFirst s

end Sys2Proof.Machine
end

