-- ==== Sys2Proof/Machine/Owner.lean ====
section
/-! DEFINITION. Requests, replies and writes over the links: what the owner of a row does, and what the requester does with
its reply (13_utgor_links.md R357, R362, R373, Table 13.6; 10_embedding_tables.md R276 to R284). -/

namespace Sys2Proof.Machine

open Sys2Proof

/-! ### The owner (R276, R279 to R281, R284) -/

/-- What the owner does with a message that names a record: `f` is given the record once it has been read for the context of
the flit. A context that is not open, or a record that fails R271, is answered with 1, a merge unit fenced whole with 4. -/
def onRecord (h : FlitHead) (record : Word) (f : Emb → State → Except Bad State) (s : State) : State :=
  if !(s.ctx h.context).isOpen then replyTo h 1 [] s
  else
    match embRead s h.context 0 record.toNat with
    | .error (.violation ..) => replyTo h 1 [] s
    | .error b => ownerFails h b s
    | .ok e =>
      match f e (noteRecord h.context record.toNat s) with
      | .ok s' => s'
      | .error b => ownerFails h b s

/-- Serves a request: the row is bound and read now (R276). A dropped row is answered without one (R277). -/
def serveRequest (h : FlitHead) (record : Word) (row span : Nat) (s : State) : State :=
  onRecord h record (fun e s => do
    let served := fun (s : State) => { s with merge := { s.merge with remote := satAdd top48 s.merge.remote 1 } }
    if span ≠ e.span then return replyTo h 1 [] s
    else
      match ← homeOf s h.context e row with
      | .invalid => return replyTo h 0 [] (served (emDrop true s))
      | .missing => return replyTo h 0 [] (served (emDrop false s))
      | .remote _ => return replyTo h 3 [] s
      | .at a _ => return replyTo h 0 (← devRead s h.context useRead a e.rowBytes) (served s)) s

/-- EMBEDDING_REQUEST (R276). -/
def execEmbeddingRequest (port : Nat) (h : FlitHead) (record : Word) (row spanLog2 : Nat) (s : State) : Out :=
  go (routed port h 0 (.request record row spanLog2) (serveRequest h record row spanLog2) s)

/-- The base of the embedding window whose entries name a record, searched for under a table of a level that spans from `va` on;
`fuel` is the levels left. -/
def findWindow (s : State) (record : Nat) : Nat → Tier → Nat → Nat → Nat → Option Nat
  | 0, _, _, _, _ => none
  | fuel + 1, t, tab, level, va =>
    (List.range (tableSize level / 8)).findSome? fun i =>
      let e := leNat (Memory.bytes (s.mem.tier t) (tab + 8 * i) 8)
      let here := va + i * 2 ^ spanLog2 level
      if e % 2 = 0 then none
      else
        match bitsN e 2 1 with
        | 0 => findWindow s record fuel (if bitN e 3 then .far else .near) (e / 256 * 256) (level + 1) here
        | 3 => if e / 2 ^ 13 * 64 % 2 ^ 57 = record then some (here / 2 ^ bitsN e 8 3 * 2 ^ bitsN e 8 3) else none
        | _ => none

/-- Where a context has the window of a record. Every member of the group has it at the same address (R273). -/
def windowBase (s : State) (ctx record : Nat) : Option Nat :=
  let r := (s.ctx ctx).regs.ptRoot.toNat
  findWindow s record 5 (if r % 2 = 1 then .far else .near) (r / 4096 * 4096) 0 0

/-- Window address of a row for the record of a refusal. A flit does not carry it, and the owner's own page table gives it, since
the window lies at the same address on every member (R273); where no entry names the record it is free (log entry 28). -/
def refusedAddr (s : State) (ctx : Nat) (e : Emb) (row : Nat) : Word :=
  match windowBase s ctx e.addr with
  | some b => BitVec.ofNat 64 (b + row * e.rowBytes)
  | none => Config.freeWord s.freeCount row

/-- The refusal of another module's contribution: its count, its record and its reply (R281, Table 16.3). -/
def refuseRemote (h : FlitHead) (e : Emb) (row rank : Nat) (full : Bool) (s : State) : State :=
  let s1 := { s with freeCount := s.freeCount + 1, merge := { s.merge with refused := satAdd top48 s.merge.refused 1 } }
  replyTo h 2 [] (report { Spill.of 5 (e.die row) 1 with
    context := some h.context, address := refusedAddr s h.context e row, detail0 := BitVec.ofNat 64 e.addr
    detail1 := BitVec.ofNat 64 (rank + (if full then 2 ^ 12 else 2 ^ 13)) } s1)

/-- A contribution of another module (R280, R281). -/
def takeContribution (h : FlitHead) (record : Word) (row rank : Nat) (values : List Byte) (s : State) : State :=
  onRecord h record (fun e s => do
    if values.length ≠ e.rowBytes || e.members ≤ rank then return replyTo h 1 [] s
    else if row < e.rows && e.owner row ≠ e.rank then return replyTo h 3 [] s
    else
      match ← contribute (mergeWriter h.context) e 0 row rank values s with
      | (s1, .refused full) => return refuseRemote h e row rank full s1
      | (s1, .dropped) => return replyWrite h true s1
      | (s1, .logged) => return replyWrite h false s1) s

/-- CONTRIBUTION (R280). -/
def execContribution (port : Nat) (h : FlitHead) (record : Word) (row rank : Nat) (values : List Byte) (s : State) : Out :=
  go (routed port h 2 (.contribution record row rank values) (takeContribution h record row rank values) s)

/-- A direct write of another module (R279). One that is queued for a moving row is answered once it has been applied. -/
def takeDirectWrite (h : FlitHead) (record : Word) (row offset : Nat) (data : List Byte) (s : State) : State :=
  onRecord h record (fun e s => do
    if e.rowBytes < offset + data.length then return replyTo h 1 [] s
    else if row < e.rows && e.owner row ≠ e.rank then return replyTo h 3 [] s
    else
      let waits := movingRow s h.context e.addr row
      let (s1, dropped) ← directWrite (mergeWriter h.context) (some h) e 0 row offset data s
      return if waits && !dropped then s1 else replyWrite h dropped s1) s

/-- DIRECT_WRITE (R279). -/
def execDirectWrite (port : Nat) (h : FlitHead) (record : Word) (row offset : Nat) (data : List Byte) (s : State) : Out :=
  go (routed port h 2 (.directWrite record row offset data) (takeDirectWrite h record row offset data) s)

/-- A withdrawal of another module (R284). -/
def takeWithdrawal (h : FlitHead) (record : Word) (rank : Nat) (s : State) : State :=
  onRecord h record (fun _ s => return replyTo h 0 [] (← withdrawAt h.context record.toNat rank s)) s

/-- WITHDRAWAL (R284). -/
def execWithdrawal (port : Nat) (h : FlitHead) (record : Word) (rank : Nat) (s : State) : Out :=
  go (routed port h 2 (.withdrawal record rank) (takeWithdrawal h record rank) s)

/-! ### The requester (R276, R277, R362, Table 13.6) -/

/-- The oldest tag whose low 16 bits a reply carries, of a use that the links answer. -/
def linkTag (s : State) (tag : BitVec 16) : Option Tag :=
  s.tags.find? fun t => t.tag % 65536 = tag.toNat && (match t.use with
    | .engine .. => false
    | _ => true)

/-- A remote row reaches its position. -/
def takeRow (id tag : Nat) (data : List Byte) (s : State) : State :=
  match findOp s id with
  | none => s
  | some o =>
    match o.openPos.find? fun p => p.tag = tag with
    | none => s
    | some p =>
      if data.isEmpty then dropPosition o p s
      else
        let (bs, n) := remoteBytes o p data
        decideRow o p bs n s

/-- A write of this module that its owner has dropped counts as a dropped position, and in the report of its instruction: a
COMBINE's holds the keys written and then those dropped (R165, R182, R277). -/
def writeLost (id : Nat) (t : Tag) (s : State) : State :=
  countDropped t.ctx t.hostSeq 1 (modOp id (fun o =>
    if o.name = "COMBINE" then { o with dropped := o.dropped - 1, lates := o.lates + 1 }
    else { o with dropped := o.dropped + 1 }) s)

/-- A reply with status 0. To a write it holds a byte where the owner dropped it. -/
def replyDone (t : Tag) (data : List Byte) (s : State) : State :=
  match t.use with
  | .remoteLoad w rd width off =>
    let v := BitVec.ofNat 64 (leNat (takePad 0 width (data.drop off)))
    let s1 := hold w .ready (s.modTask w fun x => x.setS (Fin.ofNat 64 rd) v)
    if data.isEmpty then countDropped t.ctx t.hostSeq 1 s1 else s1
  | .remoteStore w => hold w .ready (if data.isEmpty then s else countDropped t.ctx t.hostSeq 1 s)
  | .remoteRow id => takeRow id t.tag data s
  | .write id => if data.isEmpty then s else writeLost id t s
  | .withdraw owner => withdrawn t owner s
  | .bar4 off n => answerRead (takePad 0 n (data.drop off)) false s
  | .engine .. => s

/-- What a status other than 0 ends the requester's parcel with (Table 13.6; log entry 39). A metadata fault's address comes
with the reply. -/
def replyBad (access status window : Nat) (data : List Byte) : Bad :=
  match status with
  | 1 => .violation access 4 window
  | 2 => .violation 3 4 window
  | 3 => .violation access 4 window
  | 4 => .status 13 0
  | 6 => .status 3 (leNat (data.take 8))
  | _ => .violation access 2 window

/-- A reply with another status ends the requester's parcel; a BAR4 read is answered with all ones, and a replay that cannot
withdraw from a round ends its step (R284). -/
def replyFailed (t : Tag) (status : Nat) (data : List Byte) (s : State) : State :=
  let stop := fun (w : Option Who) (access : Nat) =>
    let pc := match w with
      | some k => match s.task k with
        | some x => x.pc - 8
        | none => 0
      | none => 0
    let die := match w with
      | some k => Who.die k
      | none => 8
    failParcel t.ctx t.hostSeq w pc die (replyBad access status t.window.toNat data) s
  match t.use with
  | .remoteLoad w .. => stop (some w) 0
  | .remoteStore w => stop (some w) 1
  | .remoteRow _ => stop none 0
  | .write _ => stop none 1
  | .bar4 _ n => dropAccess (answerRead (List.replicate n 0xFF) false s)
  | .withdraw _ => if (s.ctx t.ctx).sealed.inReplay then fatalStep t.ctx s else s
  | .engine .. => s

/-- A reply reaches its tag. That of an abandoned tag is discarded, and the tag returns to its pool (R87). -/
def takeReply (h : FlitHead) (status : BitVec 4) (data : List Byte) (s : State) : State :=
  match linkTag s h.tag with
  | none => s
  | some t =>
    let s1 := dropTag t.tag s
    if t.abandoned then s1
    else if status = 0 then replyDone t data s1
    else replyFailed t status.toNat data s1

/-- LINK_REPLY (R357). -/
def execLinkReply (port : Nat) (h : FlitHead) (status : BitVec 4) (data : List Byte) (s : State) : Out :=
  go (routed port h 1 (.reply status data) (takeReply h status data) s)

/-! ### Messages of this module to itself, and those that lose their route (R364 to R366) -/

/-- What a message does where it is delivered. Check and pace flits are routed nowhere (R368). -/
def takeMessage (h : FlitHead) (pl : Payload) (s : State) : State :=
  match pl with
  | .request record row span => serveRequest h record row span s
  | .reply status data => takeReply h status data s
  | .contribution record row rank values => takeContribution h record row rank values s
  | .directWrite record row off data => takeDirectWrite h record row off data s
  | .withdrawal record rank => takeWithdrawal h record rank s
  | .check .. => s
  | .pace .. => s

/-- The module delivers the first of its messages to itself (R364), while it idles (log entry 1). -/
def deliverOwn (s : State) : State :=
  match s.links.toSelf with
  | [] => s
  | f :: r => if s.active then takeMessage f.head f.payload { s with links := { s.links with toSelf := r } } else s

/-- A message that has lost its route: a request or write of this module ends its parcel with FENCED_RESOURCE, as R276 states;
what came from elsewhere is discarded (R366). -/
def loseRoute (f : Flit) (s : State) : State :=
  let s1 := unroutable f s
  if f.held.isSome || f.cls = 1 then s1
  else
    match linkTag s1 f.tag with
    | none => s1
    | some t => if t.abandoned then dropTag t.tag s1 else replyFailed t 4 [] (dropTag t.tag s1)

/-- BUNDLE_RESUME (R365). What waited for the bundle is sent with its new slots. -/
def execBundleResume (dim : Nat) (minus : Bool) (s : State) : Out :=
  let b := 2 * dim + b2n minus
  if !s.active || !s.links.stopped.contains b || !bundleQuiet s b then go s
  else
    let mine := s.links.queued.filter fun e => e.1 = b
    let s1 := { s with links := { s.links with
      stopped := s.links.stopped.filter fun x => x ≠ b, queued := s.links.queued.filter fun e => e.1 ≠ b } }
    go (mine.foldl (fun (x : State) e => (sendBundle b e.2 x).getD (loseRoute e.2 x)) s1)

end Sys2Proof.Machine
end

