-- ==== Sys2Proof/Machine/Save.lean ====
section
/-! DEFINITION. Saving and restoring the tasks of a core (04_selod_isa.md R110 to R116; 06_gather_aggregate.md R173;
11_memory_tiers.md R309; 12_tallies_sync.md R329, R333, R343). -/

namespace Sys2Proof.Machine

open Sys2Proof

/-! ### The save area (R112, Tables 4.17 and 4.18) -/

/-- The header of a save area. -/
def saveHeader (t : Task) (level : Nat) (waiting : Bool) : List Byte :=
  leBytes 64 (2 + level * 2 ^ 4 + t.lanes * 2 ^ 8 + 2 ^ 16 + b2n waiting * 2 ^ 17
    + (if waiting then t.waitTally % 65536 * 2 ^ 32 else 0) + t.pc.toNat * 2 ^ 64 + t.taskIndex % 2 ^ 11 * 2 ^ 128
    + t.ctx % 1024 * 2 ^ 150)

/-- A save area without its header. -/
def saveBody (t : Task) : List Byte :=
  (List.range 8).flatMap (fun j => leBytes 8 (t.pred (Fin.ofNat 8 j)).toNat)
    ++ leBytes 8 t.keySeed.toNat ++ leBytes 56 t.keyStream.toNat
    ++ List.replicate 64 0
    ++ (List.range 64).flatMap (fun j => leBytes 8 (t.sreg (Fin.ofNat 64 j)).toNat)
    ++ (List.range 16).flatMap (fun j => recBytes (t.desc (Fin.ofNat 16 j)))
    ++ List.replicate 256 0
    ++ (List.range 64).flatMap (fun l => leBytes 32 (if l < t.lanes then (t.rngLane l).toNat else 0))
    ++ (List.range 32).flatMap (fun j => (List.range 64).flatMap fun l => leBytes 4 (t.lane (Fin.ofNat 32 j) l).toNat)
    ++ List.replicate 4096 0
    ++ (List.range 32768).flatMap (fun i => leBytes 4 (t.elem (i / 4096) (i / 256 % 16) (i % 256)).toNat)

/-- Bytes of a save area. -/
def saveBytes : Nat := 0x24000

/-- n values of w bytes from offset a, as a table of those that are not zero. -/
def areaTab (width : Nat) (bs : List Byte) (a w n : Nat) : Tab (BitVec width) :=
  (List.range n).filterMap fun i =>
    let v := BitVec.ofNat width (leNat ((bs.drop (a + w * i)).take w))
    if v = 0 then none else some (i, v)

/-- The task that an area holds: its image over the identity kept by the headgate. -/
def taskOfArea (t : Task) (bs : List Byte) : Task :=
  let h := leNat (bs.take 64)
  { t with
    pc := BitVec.ofNat 64 (bitsN h 127 64), width := lanesOf (bitsN h 15 8), level := if t.entered then BitVec.ofNat 4 (bitsN h 7 4) else t.level
    preds := areaTab 64 bs 0x40 8 8, keySeed := BitVec.ofNat 64 (leNat ((bs.drop 0x80).take 8))
    keyStream := BitVec.ofNat 40 (leNat ((bs.drop 0x88).take 5)), groups := []
    sregs := areaTab 64 bs 0x100 8 64, descs := areaTab 512 bs 0x300 64 16
    rng := (List.range 64).map (fun l => (l, BitVec.ofNat 256 (leNat ((bs.drop (0x800 + 32 * l)).take 32))))
    vregs := areaTab 32 bs 0x1000 4 2048, tiles := areaTab 32 bs 0x4000 4 32768 }

/-! ### The drain (R113, R173, R309) -/

/-- Engines carry the read of a position: it has not gone out yet, or it stands under their tag. -/
def engineRow (s : State) (p : Position) : Bool :=
  !p.issued || (match findTag s p.tag with
    | some t => match t.use with
      | .engine .. => true
      | _ => false
    | none => false)

/-- Positions whose reads the module itself carries are delivered in full. One that needs a missing part of the flash map goes
on waiting. -/
def deliverAll (o : AsyncOp) (s : State) : State :=
  lateReads (o.openPos.foldl (fun (x : State) p => match findOp x o.id with
    | some y => if engineRow x p && !p.mapWaits x then deliverRow y p (dropTag p.tag x) else x
    | none => x) s)

/-- The undecided rows of a schedule's position: by fallback where it has a deadline, in full where it has none. -/
def drainPosition (id : Nat) (s : State) (q : PfPosition) : State :=
  match findOp s id with
  | none => s
  | some o =>
    if pfDeadline q.entry ≠ 0 then expirePosition o q s
    else deliverAll { o with openPos := o.openPos.filter fun p => p.index = q.pos } s

/-- A schedule that is cut waits on no free tally any more: its waiter, its WAIT on the way and a grant that has not reached
it are gone, the last counted as R332 counts one (log entry 33). -/
def withdrawWaits (id : Nat) (s : State) : State :=
  let s1 := removeWaiters (fun w => w.pf = some id) s
  { s1 with
    inflight := s1.inflight.filter fun m => !(m.pf = some id && m.kind = .wait)
    grants := s1.grants.filter fun g => g.pf ≠ some id
    tl := { s1.tl with lostGrants := satAdd top48 s1.tl.lostGrants ((s1.grants.filter fun g => g.pf = some id).length) } }

/-- A schedule that has not finished is cut short (R309). -/
def cutSchedule (o : AsyncOp) (s : State) : State :=
  let s1 := if o.cut || canFinish s o then s
    else
      let x := withdrawWaits o.id (modOp o.id (fun y => { y with cut := true }) s)
      { x with mt := { x.mt with pfCut := satAdd top48 x.mt.pfCut 1 } }
  o.posOpen.foldl (drainPosition o.id) s1

/-- Drains one instruction of a task that is saved, and finishes it if nothing of it is left to wait for. -/
def drainOp (s : State) (id : Nat) : State :=
  match findOp s id with
  | none => s
  | some o =>
    let s1 := if o.name = "PFSCHED" then cutSchedule o s
      else if o.name = "GATHER" && o.deadline ≠ 0 then expireGather o s
      else deliverAll o s
    match findOp s1 id with
    | some x => if canFinish s1 x then finishAny x s1 else s1
    | none => s1

/-- Drains every instruction of the tasks on a core. -/
def drainCore (core : Nat) (s : State) : State :=
  ((s.ops.filter fun o => o.who.core = core).map (·.id)).foldl drainOp s

/-! ### Saving (R110, R113, R343) -/

/-- Some work waits for a core: a RUN or a restored ordinal of another context, or an ordinal that R456 places. -/
def coreWanted (s : State) (core ctx : Nat) : Bool :=
  s.ctxs.any (fun e =>
    (e.1 ≠ ctx && (match nextParcel s e.1 with
      | some p => p.kind = kRun && (runCores p.unit).contains core
      | none => false))
    || e.2.parcels.any fun p => !p.unplaced.isEmpty)
  || s.saved.any fun o => o.ctx ≠ ctx && (o.atOnce || o.tasks.any fun t => t.2.2)

/-- The tasks of a core can be saved for a reason: all of them are descheduled in a WAIT where another context's RUN wants the
core; otherwise none of them is held in an ARRIVE, in an access, or in a WAIT still on its way. -/
def canSave (s : State) (core : Nat) (why : SaveWhy) : Bool :=
  let ts := s.coreTasks core
  let moving := ts.all fun e => (e.2.status = .ready || e.2.status = .waitHeld
      || e.2.status = .waitDesched || e.2.status = .haltPending)
    && !(s.inflight.any fun m => m.who = e.1 && m.kind = .wait && m.pf.isNone)
  match why with
  | .otherRun => ts.all (fun e => e.2.status = .waitDesched) && (ts.any fun e => coreWanted s core e.2.ctx)
  | .fence => moving && (fencePending s core || s.inBist 1 core)
  | .rebalance => moving && (List.range 512).any fun c => (s.core c).fenced

/-- A task that is saved in a WAIT. -/
def savedWaiting (t : Task) : Bool := t.status = .waitHeld || t.status = .waitDesched

/-- Writes the area of a task: its body first, its header last. -/
def writeArea (c : Nat) (h : RunHeader) (e : Who × Task) (s : State) : Except Bad State := do
  let t := e.2
  let a := h.area t.taskIndex
  let by' := parcelWriter c t.hostSeq
  let level := if t.entered then t.level.toNat else (s.ctx c).regs.level.toNat
  let s1 ← devWrite s by' (Use.of 1 nearFar) (a + 64) (saveBody t)
  devWrite s1 by' (Use.of 1 nearFar) a (saveHeader t level (savedWaiting t))

/-- Marks the waiters of saved tasks (Table 12.4). -/
def markWaiters (core : Nat) (c : Nat) (h : W32) (s : State) : State :=
  { s with tallies := s.tallies.map fun e => (e.1, { e.2 with queue := e.2.queue.map fun w =>
      if w.who.core = core && w.ctx = c && w.hostSeq = h && w.pf.isNone then { w with saved := true, held := false } else w }) }

/-- The state of a core's tasks holds no detected error (R114, R217). -/
def coreSound (s : State) (core : Nat) : Except Bad Unit :=
  if s.errs.contains ⟨6, core, 0⟩ then .error (.detected (coreErr 6 core)) else .ok ()

/-- Writes the cistern image and the areas of a drained core, and frees the core. -/
def writeCore (core : Nat) (why : SaveWhy) (c : Nat) (p : Parcel) (h : RunHeader) (ts : List (Who × Task)) (s : State) :
    Except Bad State := do
  let ordinal := match ts with
    | e :: _ => e.2.ordinal
    | [] => 0
  let foot := (s.core core).footprint.getD 0
  cisParity s core 0 foot
  coreSound s core
  let dst ← range s c (Use.of 1 nearFar) (h.cisBase + ordinal * h.cisStride) foot
  let s1 := writePieces (parcelWriter c p.hostSeq) dst (Memory.slice (s.cis core) 0 foot) 0 s
  let s2 ← ts.foldlM (fun (x : State) e => writeArea c h e x) s1
  let record : SavedOrdinal := ⟨c, p.hostSeq, ordinal, core, foot,
    ts.map fun e => (e.1.slot, { e.2 with status := if savedWaiting e.2 then .waitDesched else .ready }, !savedWaiting e.2),
    decide (why = .rebalance)⟩
  let s3 := { s2 with
    tasks := s2.tasks.filter (fun e => e.1 / 4 ≠ core), saved := s2.saved ++ [record]
    loose := s2.loose.filter fun o => o.who.core ≠ core }
  return refreshLeases (freeCores (markWaiters core c p.hostSeq s3))

/-- Saves a core whose instructions have drained. A fence that waited for it then runs to its end. -/
def saveCore (core : Nat) (why : SaveWhy) (s : State) : State :=
  match s.coreTasks core with
  | [] => settleFences s
  | e :: r =>
    match s.parcel e.2.ctx e.2.hostSeq with
    | none => s
    | some p =>
      match p.header with
      | none => s
      | some h =>
        match writeCore core why e.2.ctx p h (e :: r) s with
        | .ok s' => settleFences s'
        | .error b => settleFences (parcelFault e.2.ctx p b (s.modCore core fun c => { c with saving := false }))

/-- TASK_SAVE (R113). The core stops issuing and its instructions drain; while one still waits for another module or for a held
write, the save goes on waiting. -/
def execTaskSave (core : Nat) (why : SaveWhy) (s : State) : Out :=
  if !s.active then go s
  else if (s.coreTasks core).isEmpty then go (settleFences s)
  else if !(s.core core).saving && !canSave s core why then go s
  else
    let s1 := drainCore core (s.modCore core fun c => { c with saving := true })
    if (s1.ops.any fun o => o.who.core = core) then go s1 else go (saveCore core why s1)

/-! ### Restoring (R115, R116) -/

/-- The area of a saved task as memory holds it. -/
def readArea (s : State) (c : Nat) (h : RunHeader) (t : Task) : Except Bad (List Byte) :=
  devReadNew s c (Use.of 0 nearFar) (h.area t.taskIndex) saveBytes

/-- The image may be restored: its version is known and its level is the context's. -/
def imageOk (s : State) (c : Nat) (bs : List Byte) : Bool :=
  let h := leNat (bs.take 64)
  bitsN h 3 0 = 2 && bitN h 16 && bitsN h 7 4 = (s.ctx c).regs.level.toNat

/-- The waiters and the grants on their way of a saved ordinal name its new core. -/
def moveWaiters (o : SavedOrdinal) (core : Nat) (s : State) : State :=
  let mine := fun (c : Nat) (h : W32) (i : Nat) (pf : Option Nat) =>
    c = o.ctx && h = o.hostSeq && pf.isNone && o.tasks.any fun x => x.2.1.taskIndex = i
  { s with
    tallies := s.tallies.map fun e =>
      let moved := fun (w : Waiter) =>
        if mine w.ctx w.hostSeq w.task w.pf then { w with who := ⟨core, w.who.slot⟩, saved := false } else w
      (e.1, { e.2 with queue := e.2.queue.map moved })
    grants := s.grants.map fun g => if mine g.ctx g.hostSeq g.task g.pf then { g with who := ⟨core, g.who.slot⟩ } else g }

/-- Brings the cistern image and every task of an ordinal onto a core. -/
def restoreOrdinal (o : SavedOrdinal) (p : Parcel) (h : RunHeader) (core : Nat) (s : State) : Except Bad State := do
  let areas ← o.tasks.mapM fun e => do return (e, ← readArea s o.ctx h e.2.1)
  match areas.find? fun a => !imageOk s o.ctx a.2 with
  | some a =>
    if p.pastEntry then .error (.violation 0 4 (h.area a.1.2.1.taskIndex)) else .error (.status 0xE 0)
  | none =>
    let cis ← devReadNew s o.ctx (Use.of 0 nearFar) (h.cisBase + o.ordinal * h.cisStride) o.footprint
    let s1 := (cisPut core 0 cis s).modCore core fun c =>
      { c with footprint := if o.footprint = 0 then none else some o.footprint }
    let s2 := areas.foldl (fun (x : State) a =>
      x.setTask ⟨core, a.1.1⟩ { taskOfArea a.1.2.1 a.2 with status := if a.1.2.2 then .ready else .waitDesched }) s1
    return refreshLeases { moveWaiters o core s2 with
      saved := s2.saved.filter fun x => !(x.ctx = o.ctx && x.hostSeq = o.hostSeq && x.ordinal = o.ordinal) }

/-- TASK_RESTORE (R110, R115, R116). -/
def execTaskRestore (ctx : Nat) (hostSeq : W32) (ordinal core : Nat) (s : State) : Out :=
  match s.saved.find? fun o => o.ctx = ctx && o.hostSeq = hostSeq && o.ordinal = ordinal with
  | none => go s
  | some o =>
    match s.parcel ctx hostSeq with
    | none => go s
    | some p =>
      match p.header with
      | none => go s
      | some h =>
        if !s.active || !coreFree s core || !(o.atOnce || o.tasks.any fun t => t.2.2) then go s
        else
          match restoreOrdinal o p h core s with
          | .ok s' => go s'
          | .error b => go (parcelFault ctx p b s)

end Sys2Proof.Machine
end

