-- ==== Sys2Proof/Machine/Trust.lean ====
section
/-! DEFINITION. The sideband, attestation, firmware update, debug unlock and the JTAG port
(15_startup_states.md R402 to R412; 01_module.md R22, R23; 14_weir_power.md R384). -/

namespace Sys2Proof.Machine

open Sys2Proof

/-! ### The sideband's address and its cap (R23, R384) -/

/-- I3C_DYNAMIC_ADDRESS_ASSIGNMENT (R23). -/
def execI3cDynamicAddressAssignment (addr : BitVec 7) (s : State) : Out :=
  if sidebandUp s then go (s.modKeeper fun k => { k with address := addr, dynamicAddr := true }) else go s

/-- SIDEBAND_CAP (R384). It comes through PLDM, which the recovery ROM answers for firmware update alone. -/
def execSidebandCap (watts : Nat) (s : State) : Out :=
  if sidebandUp s && !s.inPhase .recovery then
    go (reply (.handled true) (s.modWeir fun w => { w with capSideband := min 4000 watts }))
  else go s

/-! ### SPDM (R407, R408) -/

/-- A transport of R407 is there: the sideband, or the host port with its link up. -/
def spdmUp (s : State) (port : SpdmPort) : Bool :=
  match port with
  | .mctp => sidebandUp s
  | .doe => hostUp s

/-- Answers a request of a transport that is there. -/
def spdm (port : SpdmPort) (f : State → State) (s : State) : Out := if spdmUp s port then go (f s) else go s

/-- The identity key is destroyed, so nothing is signed (Table 15.5). -/
def unsigned (s : State) : Bool := !s.fuses.identityKey || s.fuses.lifecycle = 3 || s.fuses.lifecycle = 4

/-- GET_VERSION (R407): versions 1.2 and 1.3, as SPDM writes them. -/
def execGetVersion (port : SpdmPort) (s : State) : Out := spdm port (reply (.versions port [0x12, 0x13])) s
/-- GET_CAPABILITIES (R407). -/
def execGetCapabilities (port : SpdmPort) (s : State) : Out :=
  spdm port (reply (.capabilities port Config.spdmFlags)) s

/-- NEGOTIATE_ALGORITHMS (R407): the higher version that the requester offers. -/
def execNegotiateAlgorithms (offer : AlgorithmOffer) (offers12 offers13 : Bool) (s : State) : Out :=
  spdm offer.port (fun s =>
    if (!offers12 && !offers13) || !offer.p521 || !offer.sha512 then reply (.spdmError offer.port) s
    else
      let v := if offers13 then 0x13 else 0x12
      reply (.algorithms offer.port v) (s.modKeeper fun k => { k with spdmVersion := v })) s

/-- The certificate chain of slot 0: in Test the test certificate (R406, Table 15.5). -/
def certificateChain (s : State) : List Byte := if s.fuses.lifecycle = 1 then Config.testCertificate else s.keeper.certChain

/-- GET_DIGESTS (R407): the digest of certificate slot 0. -/
def execGetDigests (port : SpdmPort) (s : State) : Out :=
  spdm port (fun s => reply (.digests port 0 (bytesRec (sha512 (certificateChain s)))) s) s
/-- GET_CERTIFICATE (R407): a part of the chain of certificate slot 0, and how many bytes follow it. -/
def execGetCertificate (request : CertRequest) (s : State) : Out :=
  spdm request.port (fun s =>
    let rest := (certificateChain s).drop request.offset
    if request.slot ≠ 0 then reply (.spdmError request.port) s
    else reply (.certificate request.port 0 (rest.take request.length) (rest.length - request.length)) s) s
/-- CHALLENGE (R407, R409). -/
def execChallenge (request : SlotRequest) (nonce : Mix) (s : State) : Out :=
  spdm request.port (fun s =>
    if unsigned s || request.slot ≠ 0 then reply (.spdmError request.port) s else reply (.challengeSigned request.port nonce) s) s

/-- The fence list as measurement 6 carries it (R450). -/
def fenceListBytes (s : State) : List Byte :=
  leBytes 8 s.keeper.fenceList.length
    ++ s.keeper.fenceList.flatMap fun e => leBytes 8 (e.kind % 256 + e.index % 2 ^ 32 * 256 + e.cause % 16 * 2 ^ 40)

/-- The measurements of Table 15.4. In recovery the preferred slot stands for the running image (log entry 15). -/
def measurement (s : State) (index : Nat) : Option (List Byte) :=
  let img := s.keeper.image s.keeper.runB
  match index with
  | 1 => some (recBytes s.keeper.romDigest)
  | 2 => some (sha512 (imageHeader img ++ imageBody img))
  | 3 => some [img.svn.zeroExtend 8, s.fuses.svnMin.zeroExtend 8]
  | 4 => some [s.fuses.lifecycle.zeroExtend 8, s.keeper.scopes.zeroExtend 8]
  | 5 => some (identityBlock s)
  | 6 => some (fenceListBytes s)
  | _ => none

/-- The blocks that a request for an index is answered with: index 0 asks for their number alone, and 255 for all of them, as SPDM
has it (PRESUMED, log entry 15). -/
def measurementBlocks (s : State) (index : Nat) : Option (List (Nat × List Byte)) :=
  let one := fun (k : Nat) => (measurement s k).map fun bs => (k, bs)
  if index = 0 then some []
  else if index = 255 then some ((List.range 7).filterMap one)
  else (one index).map fun b => [b]

/-- GET_MEASUREMENTS (R408, R409). -/
def execGetMeasurements (port : SpdmPort) (index : Nat) (signed : Bool) (s : State) : Out :=
  spdm port (fun s =>
    match if signed && unsigned s then none else measurementBlocks s index with
    | some bs => reply (.measurements port (if index = 0 then 6 else bs.length) bs signed) s
    | none => reply (.spdmError port) s) s

/-- UNSUPPORTED_SPDM_REQUEST (R407). -/
def execUnsupportedSpdmRequest (port : SpdmPort) (s : State) : Out := spdm port (reply (.spdmError port)) s


/-! ### Firmware update (R404) -/

/-- FIRMWARE_IMAGE_TRANSFER (R404). The image goes into the slot that does not run, and is checked under R402. -/
def execFirmwareImageTransfer (img : Image) (s : State) : Out :=
  if sidebandUp s then
    let ok := imageFails s img = 0
    go (reply (.pldm ok) (s.modKeeper fun k => { k with
      newImage := ok, slotA := if k.runB then img else k.slotA, slotB := if k.runB then k.slotB else img }))
  else go s

/-- ACTIVATE_FIRMWARE (R404). Refused outside Deep and recovery: the new image then starts at the next power-on, and can still be
activated before. -/
def execActivateFirmware (s : State) : Out :=
  if !sidebandUp s then go s
  else if !s.keeper.newImage then go (reply (.pldm false) s)
  else
    let s1 := s.modKeeper fun k => { k with preferB := !k.runB, firstStart := true }
    if s.inPhase .deep || s.inPhase .recovery then
      go (reply (.pldm true) (s1.modPower fun p => { p with phase := .romStarted, starting := false, wakeHeld := false }))
    else go (reply (.pldm false) s1)

/-! ### Debug unlock and the lifecycle (R409 to R411) -/

/-- A write of 1 to KP_DBG_CTL.challenge. -/
def newNonce (drawn : Mix) (s : State) : State := s.modKeeper fun k => { k with nonce := drawn, nonceValid := true }

/-- DEBUG_CHALLENGE (R410). -/
def execDebugChallenge (drawn : Mix) (s : State) : Out := hostCommand (.debugChallenge drawn) (newNonce drawn) s

/-- The fields of a token (Table 15.6). -/
def tokenScopes (t : Nat) : Nat := bitsN t 15 8
def tokenKey (t : Nat) : Nat := bitsN t 23 16

/-- The fields that must hold one value (result 2). -/
def tokenFormOk (t : Nat) : Bool :=
  bitsN t 7 0 = 2 && tokenScopes t < 32 && tokenKey t < 2 && bitsN t 63 24 = 0 && bitsN t 4095 2496 = 0

/-- The key of a token is the one that the fuses name; the transitions need key 0 (result 5). -/
def tokenKeyOk (s : State) (t : Nat) (keyDigest : Rec) : Bool :=
  if tokenKey t = 0 then s.fuses.debugDigest = keyDigest
  else tokenScopes t < 8 && s.fuses.ownerDigest = some keyDigest

/-- The lifecycle forbids what a token asks for: it moves only forward, and nothing unlocks in Scrapped (result 7). -/
def tokenForbidden (s : State) (t : Nat) : Bool :=
  let l := s.fuses.lifecycle.toNat
  l = 4 || (bitN (tokenScopes t) 3 && !bitN (tokenScopes t) 4 && 3 ≤ l)

/-- KP_DBG_CTL.result of a submit, in the order of the checks. -/
def tokenResult (s : State) (t : Nat) (keyDigest : Rec) (sigOk : Bool) : Nat :=
  if !tokenFormOk t then 2
  else if bitsN t 127 64 ≠ s.fuses.serial.toNat then 3
  else if !s.keeper.nonceValid || bitsN t 383 128 ≠ s.keeper.nonce.toNat then 4
  else if !tokenKeyOk s t keyDigest then 5
  else if !sigOk then 6
  else if tokenForbidden s t then 7
  else 1

/-- A transition of the lifecycle: contexts end, Returned trims the flash, the fuses blow, Returned and Scrapped destroy the
identity key, and the module restarts as at power-on, in Off where VAUX is not there (R409). -/
def transition (to' : BitVec 3) (s : State) : State :=
  let s1 := resetOpenContexts s
  let s2 := if to' = 3 then
      { (s1.modMt fun m => { m with badSectors := [] }) with mem := { s1.mem with flash := [] } }
    else s1
  let s3 := { afterOff s2 with
    fuses := { s2.fuses with lifecycle := to', identityKey := s2.fuses.identityKey && to' = 2 } }
  if s.power.vaux then (startRom s.keeper.straps s3).modPower fun p => { p with vaux := true } else s3

/-- A submit (R411). It consumes the nonce whatever comes of it, and its end follows at once in this model. -/
def submit (keyDigest : Rec) (sigOk : Bool) (s : State) : State :=
  let t := s.keeper.token.toNat
  let r := tokenResult s t keyDigest sigOk
  let s1 := s.modKeeper fun k => { k with nonceValid := false, dbgResult := BitVec.ofNat 3 r }
  if r ≠ 1 then s1
  else if bitN (tokenScopes t) 4 then transition 4 s1
  else if bitN (tokenScopes t) 3 then transition 3 s1
  else
    report { Spill.of 0xA 8 0 with
      detail0 := BitVec.ofNat 64 (tokenScopes t + tokenKey t * 256), detail1 := BitVec.ofNat 64 r }
      (s1.modKeeper fun k => { k with scopes := k.scopes ||| BitVec.ofNat 3 (tokenScopes t) })

/-- DEBUG_SUBMIT (R411). -/
def execDebugSubmit (keyDigest : Rec) (sigOk : Bool) (s : State) : Out :=
  hostCommand (.debugSubmit keyDigest sigOk) (submit keyDigest sigOk) s

/-- DEBUG_TOKEN_MESSAGE (R410). -/
def execDebugTokenMessage (token : BitVec 4096) (keyDigest : Rec) (sigOk : Bool) (s : State) : Out :=
  if sidebandUp s && !s.inPhase .recovery then
    go (submit keyDigest sigOk (s.modKeeper fun k => { k with token := token }))
  else go s

/-- What a sideband message does while keeper firmware runs, and whether it is accepted (R406, R409, R411): the owner's digest is
written once, in Production; the others belong to Test. -/
def sidebandMessage (s : State) (m : SidebandMessage) : Option State :=
  let test := s.fuses.lifecycle = 1
  match m with
  | .control _ => some s
  | .ownerDigest d =>
    if s.fuses.lifecycle = 2 && s.fuses.ownerDigest.isNone then some { s with fuses := { s.fuses with ownerDigest := some d } } else none
  | .generateKey d => if test then some { s with fuses := { s.fuses with identityKey := true, keyDigest := d } } else none
  | .certificate chain => if test then some (s.modKeeper fun k => { k with certChain := chain }) else none
  | .endOfTest => if test then some (transition 2 s) else none

/-- MCTP_CONTROL_MESSAGE (R402, R406, R409, R411). An MCTP control message is answered in recovery too; the commands that go the
same way are answered by keeper firmware. -/
def execMctpControlMessage (message : SidebandMessage) (s : State) : Out :=
  match message with
  | .control port => spdm port (reply .mctp) s
  | m =>
    if !firmwareUp s then go s
    else
      match sidebandMessage s m with
      | some s1 => go (reply (.handled true) s1)
      | none => go (reply (.handled false) s)

/-- Every debug scope is locked again. -/
def lockDebug (s : State) : State := s.modKeeper fun k => { k with scopes := 0 }

/-- DEBUG_LOCK (R411). -/
def execDebugLock (s : State) : Out := hostCommand .debugLock lockDebug s

/-! ### The IEEE 1149.1 port (R22, R412) -/

/-- The port's own domain is powered. -/
def jtagUp (s : State) : Bool := !s.inPhase .off

def setJtag (j : Jtag) (s : State) : State := s.modKeeper fun k => { k with jtag := j }

/-- The instruction in force: EXTEST acts as BYPASS unless PERST# is asserted or the module is in Deep, and the maker's own while
debug is locked (R410, R412). -/
def jtagInForce (s : State) : Jtag :=
  match s.keeper.jtag with
  | .extest => if s.power.perst || s.inPhase .deep then .extest else .bypass
  | .maker c => if debugOpen s 2 then .maker c else .bypass
  | j => j

/-- BYPASS (R412). -/
def execBypass (s : State) : Out := if jtagUp s then go (setJtag .bypass s) else go s
/-- IDCODE (R412): the identification of Config.idcode is shifted out. -/
def execIdcode (s : State) : Out :=
  if jtagUp s then go ((setJtag .idcode s).modKeeper fun k => { k with shiftOut := Config.idcode }) else go s

/-- Power of the domain of a boundary cell. Cells stand in the order of Table 1.4: UL_TX and UL_RX, PE_TX and PE_RX, PERST# and
I3C, ALERT# and READY, then the rest (log entry 15). -/
def cellPowered (s : State) (i : Nat) : Bool :=
  let io := s.power.converting
  if i < 1024 then loopsRun s
  else if i < 1088 then io
  else if i < 1091 then true
  else if i < 1093 then io
  else true

/-- SAMPLE_PRELOAD (R412): cells of unpowered domains capture 0. -/
def execSamplePreload (levels : List Bool) (s : State) : Out :=
  if jtagUp s then
    go ((setJtag .sample s).modKeeper fun k => { k with
      boundary := (levels.take 1102).mapIdx fun i b => b && cellPowered s i })
  else go s

/-- EXTEST, and the instructions of the maker's own (R410, R412), whose effect the spec does not state. One that acts as BYPASS
drives no cell. -/
def execExtest (scan : JtagScan) (s : State) : Out :=
  if !jtagUp s then go s
  else
    match scan with
    | .maker c => go (setJtag (.maker c) s)
    | .extest levels =>
      let s1 := setJtag .extest s
      if jtagInForce s1 = .extest then go (s1.modKeeper fun k => { k with boundary := levels.take 1102 }) else go s1

end Sys2Proof.Machine
end

