-- ==== Sys2Proof/Machine/ReadRegs.lean ====
section
/-! DEFINITION. What a read of each host register answers (R58 to R60, R118 and the register tables of each chapter). A read
is no command of the table; a 32-bit write keeps the other half of its register as it reads. -/

namespace Sys2Proof.Machine

open Sys2Proof

/-- A register from its fields: the low bit, the width and the value of each. -/
def fields (fs : List (Nat × Nat × Nat)) : Word := BitVec.ofNat 64 ((fs.map fun f => f.2.2 % 2 ^ f.2.1 * 2 ^ f.1).sum)

/-- A counter of 48 bits. -/
def count48 (n : Nat) : Word := fields [(0, 48, n)]

/-- The 64-bit word at an offset of an image. -/
def regAt (bs : List Byte) (off : Nat) : Word := BitVec.ofNat 64 (leNat ((bs.drop off).take 8))

/-! ### The keeper and the headgate (Tables 15.3, 15.9 to 15.11, 2.4, 3.24) -/

/-- KP_PWR.state. -/
def powerState : Phase → Nat
  | .enteringDrowse => 1 | .drowse => 2 | .leavingDrowse => 3 | _ => 0

/-- KP_LTIMERn: a stamp of the die's timer as last sampled, all ones while a compute die's domain is unpowered (R52). DESIGN CHOICE, log
entry 6: a die that Drowse gates answers a stamp, since the oscillators serve there, and the I/O dies never read all ones. -/
def readKpTimer (s : State) (n : Nat) : Word :=
  if n < 8 && !(s.die n).up then BitVec.allOnes 64 else stamp n (s.die n).ticks

/-- The KP_ registers. The token reads 0. -/
def readKp (s : State) (off : Nat) : Word :=
  let k := s.keeper
  if off < 0x40 then regAt (identityBlock s) off
  else if off = 0x40 then
    fields [(0, 1, b2n k.runB), (1, 1, b2n k.fallback), (2, 6, s.fuses.svnMin.toNat), (8, 4, k.bootFail.toNat)]
  else if off = 0x48 then
    fields [(0, 2, k.pwrRequest.toNat), (3, 1, b2n k.pwrRefused), (4, 4, k.pwrCause.toNat),
            (8, 3, powerState s.power.phase), (16, 4, k.deepCause.toNat)]
  else if 0x100 ≤ off && off < 0x150 then readKpTimer s ((off - 0x100) / 8)
  else if 0x200 ≤ off && off < 0x220 then regAt (leBytes 32 k.nonce.toNat) (off - 0x200)
  else if off = 0x220 then fields [(3, 1, b2n k.dbgBusy), (4, 3, k.dbgResult.toNat)]
  else 0

/-- The HG_ registers. -/
def readHg (s : State) (off : Nat) : Word :=
  match off with
  | 0x00 => fields [(0, 10, s.hg.snapCtx.toNat)]
  | 0x08 => s.hg.snapAccepted
  | 0x10 => s.hg.snapExecuted
  | 0x18 => s.hg.snapCompleted
  | 0x20 => fields [(0, 10, s.hg.bar4Ctx.toNat)]
  | 0x28 => s.hg.bar4Base
  | 0x30 => count48 s.hg.drops
  | _ => 0

/-! ### The context table (Tables 3.13 to 3.23) -/

/-- CT_STATUS.state: an open context with a parcel outstanding is running. -/
def Ctx.stateCode (x : Ctx) : Nat :=
  match x.phase with
  | .closed => 0
  | .opened => if x.parcels.isEmpty then 1 else 2
  | .aborting => 3
  | .resetting => 4

def haltCode : Halt → Nat
  | .none => 0 | .misplaced => 1 | .overrun => 2 | .length => 3

/-- A record waits for ring space. -/
def Ctx.ringFull (x : Ctx) : Bool := !x.records.isEmpty && !ringSpace x.regs

/-- CT_FAULT_INFO. -/
def FaultRec.info (f : FaultRec) : Word :=
  fields [(0, 1, b2n f.valid), (1, 3, f.access.toNat), (4, 4, f.cause.toNat), (8, 9, f.core.toNat), (17, 2, f.slot.toNat),
          (19, 1, b2n f.noTask), (20, 32, f.hostSeq.toNat), (52, 12, f.more)]

/-- An entry of the context table. -/
def readCt (s : State) (c off : Nat) : Word :=
  let x := s.ctx c
  let r := x.regs
  match off with
  | 0x00 => fields [(0, 1, b2n r.enable), (1, 2, r.level.toNat), (5, 1, b2n r.irqOnError)]
  | 0x08 => fields [(0, 3, x.stateCode), (3, 1, b2n (decide (x.halt ≠ .none))), (4, 2, haltCode x.halt),
                    (6, 1, b2n x.ringFull), (7, 1, b2n r.openRefused), (8, 9, queueDepth x), (17, 1, b2n r.consumedRefused)]
  | 0x10 => r.ringBase
  | 0x18 => fields [(0, 5, r.log2Entries.toNat), (5, 1, b2n r.ringAts), (6, 2, r.recordVersion.toNat)]
  | 0x20 => fields [(0, 32, r.consumed.toNat)]
  | 0x28 => fields [(0, 32, r.lastAccepted.toNat), (32, 32, r.executed.toNat)]
  | 0x30 => fields [(0, 32, r.lastWritten.toNat), (32, 32, r.answered.toNat)]
  | 0x38 => fields [(0, 32, r.tail.toNat), (32, 32, r.head.toNat)]
  | 0x40 => r.ptRoot
  | 0x48 => fields [(0, 16, r.holdTicks.toNat), (16, 32, r.leaseTicks.toNat)]
  | 0x50 => x.fault.address
  | 0x58 => x.fault.info
  | 0x60 => x.fault.pc
  | 0x68 => fields [(0, 16, r.duplicates), (16, 16, r.gaps), (32, 16, r.discarded), (48, 16, r.halts)]
  | 0x70 => count48 r.sat
  | 0x78 => count48 r.nonfinite
  | _ => 0

/-! ### The weir (Tables 14.2, 14.7, 14.8) -/

/-- An operating point as WR_D_OPk shows it. -/
def OpPoint.word (o : OpPoint) : Word :=
  fields [(0, 10, o.vcd), (10, 10, o.vcs), (20, 4, ((o.bias + 16) % 16).toNat), (24, 3, o.assist), (28, 7, o.minIndex),
          (35, 12, o.minRate), (47, 12, o.typRate)]

/-- WR_STATUS.capping: a die's cap index stands above its point's min_index (R386). -/
def capping (s : State) : Bool :=
  (List.range 8).any fun d => dieRuns s d && decide (((s.die d).pointOf (s.die d).point).minIndex < (s.die d).capIndex)

/-- The die windows. An I/O die shows its estimate alone (R396). -/
def readDie (s : State) (d off : Nat) : Word :=
  let x := s.die d
  if 8 ≤ d then if off = 0 then fields [(32, 16, x.estimate)] else 0
  else if 0x40 ≤ off && off < 0xC0 then (x.pointOf ((off - 0x40) / 8)).word
  else
    match off with
    | 0x00 => fields [(0, 4, x.point), (4, 4, x.target), (8, 7, x.index), (16, 7, x.thermal), (24, 4, x.droop.toNat),
                      (32, 16, x.estimate), (48, 16, x.budget)]
    | 0x08 => fields [(0, 4, x.nominal), (4, 4, x.lowestFixed), (8, 1, b2n x.fixedOk)]
    | 0x10 => count48 x.pacerMiss
    | 0x18 => count48 x.shelf
    | 0x20 => count48 x.droops
    | 0x28 => fields [(0, 2, x.dipQuadrant.toNat), (2, 8, x.dipDepth.toNat), (10, 32, x.dipDuration.toNat),
                      (42, 1, b2n x.dipValid)]
    | 0x30 => count48 x.throttled
    | _ => 0

/-- The WR_ registers. -/
def readWr (s : State) (off : Nat) : Word :=
  let w := s.weir
  if 0x1000 ≤ off && off < 0x1A00 then readDie s ((off - 0x1000) / 0x100) ((off - 0x1000) % 0x100)
  else
    match off with
    | 0x00 => fields [(0, 4, 2), (4, 5, 16), (9, 7, 78)]
    | 0x08 => fields [(0, 1, b2n w.fixedRate), (1, 1, b2n w.boost), (2, 1, b2n w.pace), (3, 1, b2n w.fixedActive),
                      (4, 1, b2n w.fixedRefused)]
    | 0x10 => fields [(0, 16, w.capHost), (16, 16, w.capSideband), (32, 16, w.capEffective)]
    | 0x18 => fields [(0, 16, w.estimate), (16, 16, w.floor), (32, 1, b2n (capping s)), (33, 1, b2n w.unattainable),
                      (34, 1, b2n ((List.range 8).any fun d => (s.die d).slewing)),
                      (35, 1, b2n ((List.range 8).any fun d => (s.die d).pacing))]
    | 0x20 => fields (((List.range 8).map fun k => (4 * k, 4, w.phases.getD k 0)) ++ [(32, 4, w.boostMax)])
    | 0x28 => fields [(0, 7, w.threshold), (8, 32, w.paceTicks.toNat)]
    | 0x30 => BitVec.ofNat 64 (w.energy / 1000)
    | 0x38 => count48 w.unattain
    | 0x40 => count48 w.dips
    | 0x48 => fields [(0, 16, w.gain)]
    | _ => 0

/-! ### The tally debug window (Tables 12.3 to 12.7) -/

/-- TL_G_COUNT.state. A slot that waits for release2 waits on its parent. -/
def slotCode : SlotState → Nat
  | .counting => 0 | .waitParent => 1 | .closing => 2 | .waitRelease2 => 1 | .broken => 3

/-- A check slot. -/
def CheckSlot.read (c : CheckSlot) (off : Nat) : Word :=
  match off with
  | 0x00 => fields [(0, 32, c.group.toNat), (32, 10, c.ctx.toNat), (42, 1, b2n c.merge)]
  | 0x08 => fields [(0, 32, c.children.toNat), (32, 5, c.parent.toNat), (37, 1, b2n c.hasParent), (38, 3, c.home.toNat)]
  | 0x10 => fields [(0, 12, c.expected.toNat), (12, 12, c.arrived), (24, 6, c.childrenDone), (30, 1, c.generation),
                    (31, 2, slotCode c.state), (33, 31, c.completions)]
  | _ => fields [(2, 1, b2n c.bound), (3, 1, b2n c.refused)]

/-- The TL_ registers. A hand set or reset is over with its write, so busy reads 0. -/
def readTl (s : State) (off : Nat) : Word :=
  let t := s.tl
  if 0x40 ≤ off && off < 0x80 then count48 (t.poolFull.get 0 ((off - 0x40) / 8))
  else if 0x200 ≤ off && off < 0x400 then
    match t.selQueue[(off - 0x200) / 8]? with
    | some w => w.word
    | none => 0
  else if 0x40000 ≤ off && off < 0x60000 then (s.slot ((off - 0x40000) / 32)).read ((off - 0x40000) % 32)
  else if 0x80000 ≤ off && off < 0x100000 then (s.tally ((off - 0x80000) / 8)).word
  else
    match off with
    | 0x00 => fields [(0, 4, 2), (4, 17, 65536), (21, 13, 4096), (34, 7, 64)]
    | 0x08 => fields [(0, 16, t.sel.toNat)]
    | 0x10 => t.selWord
    | 0x18 => t.selLast
    | 0x20 => fields [(0, 17, t.selWaiters), (17, 1, b2n t.selByHand), (18, 1, b2n t.selLease)]
    | 0x100 => fields [(0, 16, t.setTally.toNat), (16, 1, b2n t.setOp), (18, 1, b2n t.setBusy), (19, 1, b2n t.setRefused), (32, 16, t.setValue.toNat)]
    | 0x108 => fields [(0, 16, t.resetFirst.toNat), (16, 16, t.resetCountM1.toNat), (33, 1, b2n t.resetBusy)]
    | 0x110 => count48 t.lostGrants
    | 0x118 => count48 t.ownerLost
    | 0x120 => count48 t.poisons
    | 0x128 => count48 t.broken
    | 0x130 => count48 t.desched
    | _ => 0

/-! ### The error log (Table 16.8) -/

/-- A word of a record, 0 for none. -/
def spillWord (r : Option Spill) (off : Nat) : Word :=
  match r with
  | some x => regAt x.bytes off
  | none => 0

/-- The EL_ registers, the page of the ring and the fence list. -/
def readEl (s : State) (off : Nat) : Word :=
  let l := s.log
  let f := s.fence
  if 0x40 ≤ off && off < 0x90 then count48 (l.overflow.get 0 ((off - 0x40) / 8))
  else if 0x100 ≤ off && off < 0x180 then count48 (l.classes.get 0 ((off - 0x100) / 8))
  else if 0x200 ≤ off && off < 0x240 then spillWord l.first (off - 0x200)
  else if 0x240 ≤ off && off < 0x280 then spillWord l.last (off - 0x240)
  else if 0x4000 ≤ off && off < 0x8000 then
    let n := 256 * l.page.toNat + (off - 0x4000) / 64
    regAt (Memory.bytes s.mem.far (slotAddr s (BitVec.ofNat 32 n) + (off - 0x4000) % 64) 8) 0
  else if 0x8000 ≤ off && off < 0x10000 then
    match s.keeper.fenceList[(off - 0x8000) / 8]? with
    | some e => regAt (leBytes 8 (e.kind % 2 ^ 8 + e.index % 2 ^ 32 * 2 ^ 8 + e.cause % 2 ^ 4 * 2 ^ 40)) 0
    | none => 0
  else
    match off with
    | 0x00 => fields [(0, 4, 2), (4, 5, 16), (9, 7, 64)]
    | 0x08 => fields [(0, 1, b2n l.irq)]
    | 0x10 => fields [(0, 1, b2n l.failed), (1, 1, b2n l.first.isSome), (2, 1, b2n l.last.isSome), (4, 4, l.failCause)]
    | 0x18 => fields [(0, 32, l.head.toNat)]
    | 0x20 => fields [(0, 32, l.tail.toNat)]
    | 0x28 => count48 l.ringLost
    | 0x30 => fields [(0, 8, l.page.toNat)]
    | 0x280 => fields [(0, 8, f.fenceKind.toNat), (8, 32, f.fenceIndex.toNat), (41, 1, b2n (!f.waiting.isEmpty)),
                       (42, 1, b2n f.fenceRefused)]
    | 0x288 => fields [(0, 8, f.bistKind.toNat), (8, 32, f.bistIndex.toNat), (41, 1, b2n f.bistBusy),
                       (42, 2, f.bistResult.toNat)]
    | 0x290 => fields [(0, 13, s.keeper.fenceList.length)]
    | _ => 0

/-! ### The links (Tables 13.8 and 13.9) -/

def portCode : PortState → Nat
  | .down => 0 | .detect => 1 | .train => 2 | .negotiate => 3 | .align => 4 | .active => 5 | .retrain => 6 | .fenced => 7

/-- A port's window. -/
def Port.read (p : Port) (off : Nat) : Word :=
  match off with
  | 0x00 => fields [(0, 1, b2n p.enable), (1, 1, b2n p.allowUl1), (2, 1, b2n p.allowUl2), (3, 1, b2n p.allowHalf)]
  | 0x08 => fields [(0, 3, portCode p.state), (3, 2, p.version), (5, 1, b2n p.half), (6, 1, b2n p.upper),
                    (7, 4, p.downCause)]
  | 0x10 => fields [(0, 32, p.peerAddr.toNat), (32, 5, p.peerPort.toNat), (37, 1, b2n p.peerValid),
                    (38, 2, p.peerVersions.toNat)]
  | 0x18 => count48 p.tx
  | 0x20 => count48 p.rx
  | 0x28 => count48 p.fecCorr
  | 0x30 => count48 p.fecUncorr
  | 0x38 => count48 p.crcFail
  | 0x40 => count48 p.replayed
  | 0x48 => count48 p.retrained
  | 0x50 => count48 p.badFlit
  | 0x58 => count48 p.lost
  | 0x60 => fields ((List.range 8).map fun i => (8 * i, 8, p.lanesErr.get 0 i))
  | 0x68 => count48 p.paceRx
  | _ => 0

/-- The LK_ registers. -/
def readLk (s : State) (off : Nat) : Word :=
  let l := s.links
  if off < 0x20000 then (s.port (off / 0x1000)).read (off % 0x1000)
  else
    match off - 0x20000 with
    | 0x00 => fields [(0, 4, 2), (4, 6, 32), (10, 2, 3)]
    | 0x08 => fields [(0, 32, l.modAddr.toNat)]
    | 0x10 => l.route
    | 0x18 => l.portMap0
    | 0x20 => l.portMap1
    | 0x28 => count48 l.unroutable
    | 0x30 => count48 l.transit
    | 0x38 => count48 l.paceTx
    | _ => 0

/-! ### The memory tiers (Tables 11.9 to 11.11) -/

/-- Near frames open to software: the capacity less every fenced pseudo-channel and every frame fenced singly elsewhere
(R304). -/
def availNear (s : State) : Nat :=
  let banks := (List.range 512).filter fun b => !(s.mt.fenceNear.get 0 (b / 64)).getLsbD (b % 64)
  (banks.map fun b => 32768 - singles s 9 b).sum

/-- Far frames open to software: what lies outside the reserve of R296, likewise. -/
def availFar (s : State) : Nat :=
  let banks := (List.range 64).filter fun c => !s.mt.fenceFar.getLsbD c
  (banks.map fun c => 0xFBF00 - singles s 11 c).sum

/-- MT_FTL_STATE.reserve (R314): 1.28 TB and 0.32 TB in sectors. -/
def reserveCode (s : State) : Nat := if s.mt.reserve < 78125000 then 2 else if s.mt.reserve < 312500000 then 1 else 0

/-- MT_FTL_STATE.state. -/
def ftlCode (s : State) : Nat := if !s.mt.mapReady || s.mt.rebuilding then 3 else reserveCode s

/-- An ingest slot. -/
def Ingest.read (i : Ingest) (off : Nat) : Word :=
  match off with
  | 0x00 => fields [(1, 1, b2n i.regs.op), (2, 10, i.regs.context.toNat)]
  | 0x08 => i.regs.src
  | 0x10 => fields [(0, 46, i.regs.fla)]
  | 0x18 => fields [(0, 40, i.regs.len)]
  | 0x20 => fields [(0, 2, i.state.toNat), (2, 6, i.code.toNat), (8, 40, i.sectors)]
  | _ => 0

/-- The MT_ registers. -/
def readMt (s : State) (off : Nat) : Word :=
  let m := s.mt
  if 0x40 ≤ off && off < 0x80 then m.fenceNear.get 0 ((off - 0x40) / 8)
  else if 0x1000 ≤ off && off < 0x1400 then (s.ingest ((off - 0x1000) / 64)).read ((off - 0x1000) % 64)
  else
    match off with
    | 0x00 => fields [(0, 4, 2), (4, 4, 5), (8, 5, 16)]
    | 0x08 => m.fenceFar
    | 0x10 => fields [(0, 32, m.fenceFlash.toNat)]
    | 0x18 => fields [(0, 32, m.framesNear.length), (32, 32, m.framesFar.length)]
    | 0x20 => fields [(0, 32, availNear s), (32, 32, availFar s)]
    | 0x80 => fields [(0, 10, m.invalCtx.toNat), (10, 6, m.invalSize.toNat), (17, 1, b2n m.invalBusy)]
    | 0x88 => m.invalBase
    | 0x90 => count48 m.walks
    | 0x98 => count48 m.atsRefused
    | 0xA0 => count48 m.detNear
    | 0xA8 => count48 m.detFar
    | 0xB0 => count48 m.detFlash
    | 0xB8 => count48 m.detHost
    | 0xC0 => count48 m.pfEntries
    | 0xC8 => count48 m.pfLate
    | 0xD0 => count48 m.pfCut
    | 0x100 => fields [(0, 2, ftlCode s), (2, 10, m.wear), (12, 2, reserveCode s)]
    | 0x108 => fields [(0, 40, m.capSectors)]
    | 0x110 => fields [(0, 40, m.reserve)]
    | 0x118 => count48 m.reloc
    | 0x120 => count48 m.refresh
    | 0x128 => fields [(0, 32, m.grown), (32, 32, m.factory)]
    | 0x130 => fields [(0, 7, m.bg)]
    | _ => 0

/-! ### Samplers, engines, the merge unit, the digest unit (Tables 5.12 to 5.16, 6.15 to 6.18, 10.8, 10.9, 16.9) -/

/-- A sampler's window: it works while its die's queue holds an instruction. -/
def readSampler (s : State) (k off : Nat) : Word :=
  match off with
  | 0x00 =>
    let q := if (liveSamplers s (k / 4)).contains k then samplerQueue s (k / 4) else []
    fields [(0, 1, b2n (!q.isEmpty)), (1, 1, b2n (s.sm.fenced.getLsbD k)), (2, 10, (q.head?.map (·.ctx)).getD 0),
            (12, 13, ((samplerReads s).getD k (0, 0)).2)]
  | 0x08 => count48 (s.sm.edges.get 0 k)
  | 0x10 => count48 (s.sm.rows.get 0 k)
  | 0x18 => count48 (s.sm.feistel.get 0 k)
  | 0x20 => count48 (s.sm.starve.get 0 k)
  | _ => 0

/-- The SM_ registers. -/
def readSm (s : State) (off : Nat) : Word :=
  let m := s.sm
  if 0x1000 ≤ off && off < 0x1800 then readSampler s ((off - 0x1000) / 64) ((off - 0x1000) % 64)
  else
    match off with
    | 0x00 => fields [(0, 4, 2), (4, 8, 32), (12, 4, 6)]
    | 0x08 => fields [(0, 32, m.fenced.toNat)]
    | 0x10 => fields [(0, 6, m.snDefault.toNat)]
    | 0x18 => count48 m.metaCount
    | 0x20 => m.metaAddr
    | 0x28 => fields [(0, 4, m.metaCheck.toNat), (4, 10, m.metaCtx.toNat), (14, 5, m.metaUnit.toNat)]
    | _ => 0

/-- An engine's window: it works while it carries a position. -/
def readEngine (s : State) (e off : Nat) : Word :=
  match off with
  | 0x00 =>
    let mine := s.ops.filter fun o => o.openPos.any fun p => p.unit = e
    let out := if e < 64 then s.sl.fenced.getLsbD e else s.sl.fencedIo.getLsbD (e - 64)
    fields [(0, 1, b2n (!mine.isEmpty)), (1, 1, b2n out), (2, 10, (mine.head?.map (·.ctx)).getD 0), (12, 14, readsOpen s e)]
  | 0x08 => count48 (s.sl.rows.get 0 e)
  | 0x10 => count48 (s.sl.late.get 0 e)
  | 0x18 => count48 (s.sl.expired.get 0 e)
  | 0x20 => count48 (s.sl.starve.get 0 e)
  | _ => 0

/-- The SL_ registers. -/
def readSl (s : State) (off : Nat) : Word :=
  let m := s.sl
  if 0x1000 ≤ off && off < 0x2200 then readEngine s ((off - 0x1000) / 64) ((off - 0x1000) % 64)
  else
    match off with
    | 0x00 => fields [(0, 4, 2), (4, 7, 72), (11, 2, 2)]
    | 0x08 => m.fenced
    | 0x10 => fields [(0, 8, m.fencedIo.toNat), (8, 2, m.decompFenced.toNat)]
    | 0x18 => count48 m.metaCount
    | 0x20 => m.metaAddr
    | 0x28 => fields [(0, 4, m.metaCheck.toNat), (4, 10, m.metaCtx.toNat), (14, 7, m.metaUnit.toNat)]
    | 0x30 => count48 m.dropped
    | 0x38 => count48 m.fallback
    | 0x40 => count48 m.dense
    | 0x48 => BitVec.ofNat 64 m.dxOut0
    | 0x50 => BitVec.ofNat 64 m.dxOut1
    | _ => 0

/-- An open-round slot. -/
def Round.read (r : Round) (off : Nat) : Word :=
  match off with
  | 0x00 => r.record
  | 0x08 => fields [(0, 10, r.ctx), (10, 1, b2n r.isOpen), (32, 32, r.logged)]
  | 0x10 => count48 r.rounds
  | _ => 0

/-- EM_MOVING: rows on the move, drains after an ABORT among them, and what is held for them. -/
def movingWord (s : State) : Word :=
  fields [(0, 16, s.merge.moves.length), (16, 16, (s.merge.moves.map fun m => m.writes.length + m.updates.length).sum)]

/-- The EM_ registers. -/
def readEm (s : State) (off : Nat) : Word :=
  let m := s.merge
  if 0x1000 ≤ off && off < 0x1800 then (m.rounds.get Round.reset ((off - 0x1000) / 32)).read ((off - 0x1000) % 32)
  else
    match off with
    | 0x00 => fields [(0, 4, 2), (4, 2, 2), (6, 7, 64), (13, 13, 4096)]
    | 0x08 => fields [(0, 2, m.fenced.toNat)]
    | 0x10 => count48 m.dropInvalid
    | 0x18 => count48 m.dropMissing
    | 0x20 => count48 m.remote
    | 0x28 => count48 m.contrib
    | 0x30 => count48 m.repeats
    | 0x38 => count48 m.refused
    | 0x40 => count48 m.withdrawn
    | 0x48 => count48 m.applied
    | 0x50 => count48 m.deferred
    | 0x58 => count48 m.migrated
    | 0x60 => count48 m.forwarded
    | 0x68 => movingWord s
    | 0x70 => count48 m.metaCount
    | 0x78 => m.metaAddr
    | _ => 0

/-- DG_C_STATE.state. -/
def sealCode : SealState → Nat
  | .none => 0 | .sealed => 1 | .lapsed => 2 | .dirty => 3 | .replaying => 4 | .sealing => 5

/-- A context's registers of the digest unit. -/
def SealCtx.read (x : SealCtx) (off : Nat) : Word :=
  match off with
  | 0x00 => fields [(0, 3, sealCode x.state), (3, 8, x.generation.toNat), (11, 2, x.attempts), (32, 32, x.step.toNat)]
  | 0x08 => x.record
  | 0x10 => fields [(0, 40, x.copied)]
  | _ => fields [(0, 40, x.used)]

/-- The DG_ registers. -/
def readDg (s : State) (off : Nat) : Word :=
  let d := s.dg
  if 0x10000 ≤ off && off < 0x18000 then (s.ctx ((off - 0x10000) / 32)).sealed.read ((off - 0x10000) % 32)
  else
    match off with
    | 0x00 => fields [(0, 4, 2), (4, 4, 8), (8, 5, 16)]
    | 0x08 => count48 d.steps
    | 0x10 => fields [(0, 8, d.fenced.toNat)]
    | 0x18 => count48 d.copies
    | 0x20 => count48 d.restored
    | 0x28 => count48 d.replays
    | 0x30 => count48 d.fatal
    | 0x38 => count48 d.mismatch
    | 0x40 => count48 d.lapses
    | _ => 0

/-! ### Core debug (R118, Table 4.19) -/

/-- The task in a slot of a core. -/
def slotTask (s : State) (core slot : Nat) : Option Task := s.task ⟨core, slot⟩

/-- CR_STATUS holds what the table names; it gives no layout (log entry 42). -/
def readCrStatus (s : State) (core : Nat) : Word :=
  let c := s.core core
  let ts := s.coreTasks core
  Config.crStatus ((ts.head?.map fun t => t.2.ctx).getD 0) ((ts.map fun t => 2 ^ t.1.slot).sum)
    (((ts.filter fun t => t.2.status = .ready).map fun t => 2 ^ t.1.slot).sum) (c.footprint.getD 0) c.fenced

/-- A word of the 4 KiB page of a slot's state that CR_CTL selects, in the layout of Table 4.17. -/
def readCrState (s : State) (core off : Nat) : Word :=
  let c := s.core core
  match if c.halted then slotTask s core c.window else none with
  | none => 0
  | some t =>
    regAt (saveHeader t (s.ctx t.ctx).regs.level.toNat (t.status = .waitHeld || t.status = .waitDesched) ++ saveBody t)
      (4096 * c.page + off)

/-- A core's window: while debug is locked only CR_STATUS is readable. -/
def readCr (s : State) (core off : Nat) : Word :=
  let c := s.core core
  if off = 0 then readCrStatus s core
  else if !debugOpen s 0 then 0
  else if off = 0x08 then Config.crCtlRead c.halted c.stepOne c.window c.page
  else if 0x40 ≤ off && off < 0x60 then ((slotTask s core ((off - 0x40) / 8)).map (·.pc)).getD 0
  else if 0x80 ≤ off && off < 0xA0 then
    Config.crGroups ((List.range 8).map fun g => ((slotTask s core ((off - 0x80) / 8)).map fun t => t.groups.get 0 g).getD 0)
  else if 0x1000 ≤ off && off < 0x2000 then readCrState s core (off - 0x1000)
  else 0

/-! ### The whole of BAR0, and BAR2 -/

/-- A register by its offset in BAR0 (Table 3.3). Reserved and unassigned offsets read zero (R58). -/
def readRegister (s : State) (off : Nat) : Word :=
  if off % 8 ≠ 0 then 0
  else if off < 0x100000 then readKp s off
  else if off < 0x200000 then readHg s (off - 0x100000)
  else if off < 0x240000 then readCt s ((off - 0x200000) / 256) ((off - 0x200000) % 256)
  else if off < 0x400000 then 0
  else if off < 0x500000 then readWr s (off - 0x400000)
  else if off < 0x600000 then readTl s (off - 0x500000)
  else if off < 0x700000 then readEl s (off - 0x600000)
  else if off < 0x800000 then readLk s (off - 0x700000)
  else if off < 0xA00000 then readMt s (off - 0x800000)
  else if off < 0xB00000 then readSm s (off - 0xA00000)
  else if off < 0xC00000 then readSl s (off - 0xB00000)
  else if off < 0xD00000 then readEm s (off - 0xC00000)
  else if off < 0xE00000 then readDg s (off - 0xD00000)
  else if 0x1000000 ≤ off && off < 0x1800000 then readCr s ((off - 0x1000000) / 0x4000) ((off - 0x1000000) % 0x4000)
  else 0

/-- Transactions Pending: a read of the host is outstanding (R415). -/
def transactionsPending (s : State) : Bool := (openReads s).any fun r => r.2.any fun p => p.1 = .host

/-- A field of the configuration space as it reads, in the codes in which it is written (log entry 52). -/
def PciConfig.read (c : PciConfig) (f : ConfigField) : Nat :=
  match f with
  | .payload => Nat.log2 (c.payload / 128)
  | .readRequest => Nat.log2 (c.readRequest / 128)
  | .aspmL1 => b2n c.aspmL1
  | .l0p => b2n c.l0p
  | .bar4Size => c.bar4Log2
  | .aerStatus => b2n c.poisoned + 2 * b2n c.timedOut + 4 * b2n c.unsupported

/-- What a read of BAR0 of so many bytes answers: an aligned 64-bit or 32-bit read its value, any other access none, which is
Unsupported Request (R59). -/
def readBar0 (s : State) (off bytes : Nat) : Option Word :=
  if bytes = 8 && off % 8 = 0 then some (readRegister s off)
  else if bytes = 4 && off % 4 = 0 then
    some (BitVec.ofNat 64 ((readRegister s (off / 8 * 8)).toNat >>> (8 * (off % 8)) % 2 ^ 32))
  else none

/-- What a read of so many bytes of BAR2 answers (R60). -/
def readBar2 (bytes : Nat) : List Byte := List.replicate bytes 0

end Sys2Proof.Machine
end

