-- ==== Sys2Proof/Machine/Registers.lean ====
section
/-! DEFINITION. Writes of BAR0 fields that have no behaviour of their own (R58, R59 and the register tables of each chapter).
Fields whose write is a command of the table, and fields that are read only, are not stored here. -/

namespace Sys2Proof.Machine

open Sys2Proof

def bits (v : Word) (hi lo : Nat) : Nat := bitsN v.toNat hi lo

/-- KP_PWR.request and the token words (Tables 15.9 to 15.11). -/
def writeKp (off : Nat) (v : Word) (s : State) : State :=
  if off = 0x48 then s.modKeeper fun k => { k with pwrRequest := BitVec.ofNat 2 (bits v 1 0) }
  else if 0x400 ≤ off && off < 0x600 then
    s.modKeeper fun k => { k with
      token := BitVec.ofNat 4096 (leNat ((leBytes 512 k.token.toNat).take (off - 0x400) ++ leBytes 8 v.toNat
        ++ (leBytes 512 k.token.toNat).drop (off - 0x400 + 8))) }
  else s

/-- HG_BAR4_CTX and HG_BAR4_BASE (Table 3.24). -/
def writeHg (off : Nat) (v : Word) (s : State) : State :=
  match off with
  | 0x20 => { s with hg := { s.hg with bar4Ctx := BitVec.ofNat 10 (bits v 9 0) } }
  | 0x28 => { s with hg := { s.hg with bar4Base := v } }
  | _ => s

/-- A context's entry (Tables 3.13 to 3.20). CT_CTL: a write that opens, resets or rewinds is a command of its own. -/
def writeCt (ctx off : Nat) (v : Word) (s : State) : State :=
  let x := s.ctx ctx
  let closed := x.phase = .closed
  if ctx = 0 then s
  else
    match off with
    | 0x00 =>
      if closed && !bitN v.toNat 0 then s.modRegs ctx fun r => { r with
        level := BitVec.ofNat 2 (bits v 2 1), irqOnError := bitN v.toNat 5, openRefused := false }
      else if x.isOpen && bitN v.toNat 0 then s.modRegs ctx fun r => { r with
        irqOnError := bitN v.toNat 5, openRefused := false }
      else s
    | 0x10 => if closed then s.modRegs ctx fun r => { r with ringBase := v } else s
    | 0x18 => if closed then s.modRegs ctx fun r => { r with
        log2Entries := BitVec.ofNat 5 (bits v 4 0), ringAts := bitN v.toNat 5, recordVersion := BitVec.ofNat 2 (bits v 7 6) }
      else s
    | 0x28 => if closed then s.modRegs ctx fun r => { r with lastAccepted := BitVec.ofNat 32 (bits v 31 0) } else s
    | 0x40 => if closed then s.modRegs ctx fun r => { r with ptRoot := v } else s
    | 0x48 => s.modRegs ctx fun r => { r with
        holdTicks := BitVec.ofNat 16 (bits v 15 0), leaseTicks := BitVec.ofNat 32 (bits v 47 16) }
    | _ => s

/-- The weir (Table 14.7). -/
def writeWr (off : Nat) (v : Word) (s : State) : State :=
  match off with
  | 0x08 => s.modWeir fun w => { w with boost := bitN v.toNat 1, pace := bitN v.toNat 2 }
  | 0x20 => s.modWeir fun w => { w with
      phases := (List.range 8).map fun k => bits v (4 * k + 3) (4 * k), boostMax := bits v 35 32 }
  | 0x28 => s.modWeir fun w => { w with threshold := bits v 6 0, paceTicks := BitVec.ofNat 32 (bits v 39 8) }
  | _ => s

/-- TL_SET and TL_RESET without go, and the configuration of an unbound check slot (Tables 12.5 and 12.6). -/
def writeTl (off : Nat) (v : Word) (s : State) : State :=
  if off = 0x100 then { s with tl := { s.tl with
    setTally := BitVec.ofNat 16 (bits v 15 0), setOp := bitN v.toNat 16, setValue := BitVec.ofNat 16 (bits v 47 32) } }
  else if off = 0x108 then if s.tl.resetBusy then s else { s with tl := { s.tl with
    resetFirst := BitVec.ofNat 16 (bits v 15 0), resetCountM1 := BitVec.ofNat 16 (bits v 31 16) } }
  else if 0x40000 ≤ off && off < 0x60000 then
    let n := (off - 0x40000) / 32
    if (s.slot n).bound then s
    else
      match (off - 0x40000) % 32 with
      | 0x00 => s.modSlot n fun c => { c with
          group := BitVec.ofNat 32 (bits v 31 0), ctx := BitVec.ofNat 10 (bits v 41 32), merge := bitN v.toNat 42 }
      | 0x08 => s.modSlot n fun c => { c with
          children := BitVec.ofNat 32 (bits v 31 0), parent := BitVec.ofNat 5 (bits v 36 32), hasParent := bitN v.toNat 37
          home := BitVec.ofNat 3 (bits v 40 38) }
      | 0x10 => s.modSlot n fun c => { c with expected := BitVec.ofNat 12 (bits v 11 0) }
      | _ => s
  else s

/-- The error log (Table 16.8). -/
def writeEl (off : Nat) (v : Word) (s : State) : State :=
  match off with
  | 0x08 => { s with log := { s.log with irq := bitN v.toNat 0 } }
  | 0x20 => { s with log := { s.log with tail := BitVec.ofNat 32 (bits v 31 0) } }
  | 0x30 => { s with log := { s.log with page := BitVec.ofNat 8 (bits v 7 0) } }
  | 0x280 => { s with fence := { s.fence with
      fenceKind := BitVec.ofNat 8 (bits v 7 0), fenceIndex := BitVec.ofNat 32 (bits v 39 8) } }
  | 0x288 => { s with fence := { s.fence with
      bistKind := BitVec.ofNat 8 (bits v 7 0), bistIndex := BitVec.ofNat 32 (bits v 39 8) } }
  | _ => s

/-- The links (R375, Tables 13.8 and 13.9). While LK_ROUTE.enable is 1, the write that clears it is the only one taken. -/
def writeLk (off : Nat) (v : Word) (s : State) : State :=
  let on := s.links.routing
  if off < 0x20000 then
    if off % 0x1000 = 0 then s.modPort (off / 0x1000) fun p => { p with
      allowUl1 := bitN v.toNat 1, allowUl2 := bitN v.toNat 2, allowHalf := bitN v.toNat 3 }
    else s
  else
    let l := s.links
    match off - 0x20000 with
    | 0x08 => if on then s else { s with links := { l with modAddr := BitVec.ofNat 32 (bits v 31 0) } }
    | 0x10 => if on && bitN v.toNat 0 then s
        else stopChanged s { s with links := { l with route := v &&& 0x001FF1FF1FF1FF07 } }
    | 0x18 => if on then s else stopChanged s { s with links := { l with portMap0 := v } }
    | 0x20 => if on then s else stopChanged s { s with links := { l with portMap1 := v } }
    | _ => s

/-- The memory tiers (Tables 11.9 and 11.11). -/
def writeMt (off : Nat) (v : Word) (s : State) : State :=
  if off = 0x80 then
    if s.mt.invalBusy then s
    else s.modMt fun m => { m with invalCtx := BitVec.ofNat 10 (bits v 9 0), invalSize := BitVec.ofNat 6 (bits v 15 10) }
  else if off = 0x88 then if s.mt.invalBusy then s else s.modMt fun m => { m with invalBase := v }
  else if 0x1000 ≤ off && off < 0x1400 then
    let slot := (off - 0x1000) / 64
    let set := fun (f : IngestCmd → IngestCmd) => s.modIngest slot fun i => { i with regs := f i.regs }
    match (off - 0x1000) % 64 with
    | 0x00 => set fun r => { r with op := bitN v.toNat 1, context := BitVec.ofNat 10 (bits v 11 2) }
    | 0x08 => set fun r => { r with src := v }
    | 0x10 => set fun r => { r with fla := bits v 45 0 }
    | 0x18 => set fun r => { r with len := bits v 39 0 }
    | _ => s
  else s

/-- SM_SN_DEFAULT (Table 5.14). -/
def writeSm (off : Nat) (v : Word) (s : State) : State :=
  if off = 0x10 && decide (16 ≤ bits v 5 0) && decide (bits v 5 0 ≤ 40) then
    { s with sm := { s.sm with snDefault := BitVec.ofNat 6 (bits v 5 0) } }
  else s

/-- CR_CTL of a core, while debug is unlocked (R118). -/
def writeCr (core off : Nat) (v : Word) (s : State) : State :=
  if off = 0x08 && debugOpen s 0 then
    let b := Config.crCtl v
    s.modCore core fun c => { c with
      halted := b.getLsbD 0, stepOne := b.getLsbD 1, window := (b.extractLsb' 2 2).toNat, page := (b.extractLsb' 4 6).toNat }
  else s

/-- A write of a whole register by its offset (Table 3.3). -/
def writeRegister (off : Nat) (v : Word) (s : State) : State :=
  if off < 0x100000 then writeKp off v s
  else if off < 0x200000 then writeHg (off - 0x100000) v s
  else if off < 0x240000 then writeCt ((off - 0x200000) / 256) ((off - 0x200000) % 256) v s
  else if off < 0x400000 then s
  else if off < 0x500000 then writeWr (off - 0x400000) v s
  else if off < 0x600000 then writeTl (off - 0x500000) v s
  else if off < 0x700000 then writeEl (off - 0x600000) v s
  else if off < 0x800000 then writeLk (off - 0x700000) v s
  else if off < 0xA00000 then writeMt (off - 0x800000) v s
  else if off < 0xB00000 then writeSm (off - 0xA00000) v s
  else if 0x1000000 ≤ off && off < 0x1800000 then writeCr ((off - 0x1000000) / 0x4000) ((off - 0x1000000) % 0x4000) v s
  else s

/-- What the half of a register that a 32-bit write leaves alone holds: what it reads, and the token's words as stored. -/
def standing (off : Nat) (s : State) : Nat :=
  if 0x400 ≤ off && off < 0x600 then (regAt (leBytes 512 s.keeper.token.toNat) (off - 0x400)).toNat
  else (readRegister s off).toNat

/-- A write of BAR0 of so many bytes: of a whole register, or of an aligned half (log entry 48). Any other access is answered
with Unsupported Request, which AER notes, and changes nothing else (R54, R59). -/
def writeBar0 (off bytes : Nat) (v : Word) (s : State) : State :=
  if bytes = 8 && off % 8 = 0 then writeRegister off v s
  else if bytes = 4 && off % 4 = 0 then
    let r := off / 8 * 8
    let old := standing r s
    let half := v.toNat % 2 ^ 32
    writeRegister r (BitVec.ofNat 64 (if off % 8 = 0 then old / 2 ^ 32 * 2 ^ 32 + half else old % 2 ^ 32 + half * 2 ^ 32)) s
  else { s with hg := { s.hg with cfg := { s.hg.cfg with unsupported := true } } }

/-- A write of a field of the configuration space (R54, R57; log entry 52). Sizes are in PCIe's codes, 0 for 128 bytes; the size of
BAR4 is its log2; a status bit is cleared by writing 1 to it. A value that Table 3.1 or R57 does not allow is ignored. -/
def PciConfig.write (c : PciConfig) (flit : Bool) (f : ConfigField) (v : Word) : PciConfig :=
  match f with
  | .payload => if bits v 2 0 ≤ 2 then { c with payload := 128 * 2 ^ bits v 2 0 } else c
  | .readRequest => if bits v 2 0 ≤ 5 then { c with readRequest := 128 * 2 ^ bits v 2 0 } else c
  | .aspmL1 => { c with aspmL1 := v.getLsbD 0 }
  | .l0p => { c with l0p := v.getLsbD 0 && flit }
  | .bar4Size => if 26 ≤ v.toNat && v.toNat ≤ 40 then { c with bar4Log2 := v.toNat } else c
  | .aerStatus => { c with
      poisoned := c.poisoned && !v.getLsbD 0, timedOut := c.timedOut && !v.getLsbD 1, unsupported := c.unsupported && !v.getLsbD 2 }

/-- The same on the module. -/
def writeConfig (f : ConfigField) (v : Word) (s : State) : State :=
  { s with hg := { s.hg with cfg := s.hg.cfg.write s.hg.flitMode f v } }

/-- A write of a register, by its space. -/
def writePlace (place : RegPlace) (value : Word) (s : State) : State :=
  match place.space with
  | .bar0 => writeBar0 place.off place.bytes value s
  | .config f => writeConfig f value s

/-- REGISTER_WRITE (R58, R59, R398, R418). In Drowse an access outside the KP_, HG_ and CT_ ranges is held. A configuration
request to a port whose headgate is not open yet is answered with Configuration Request Retry Status. -/
def execRegisterWrite (place : RegPlace) (value : Word) (s : State) : Out :=
  match place.space with
  | .bar0 =>
    if place.off < 0x400000 then hostCommand (.registerWrite place value) (writePlace place value) s
    else hostAccess (.registerWrite place value) (writePlace place value) s
  | .config _ =>
    if s.hg.detect then go { s with hg := { s.hg with retries := s.hg.retries + 1 } }
    else hostCommand (.registerWrite place value) (writePlace place value) s

end Sys2Proof.Machine
end

