-- ==== Sys2Proof/Machine/Scalar.lean ====
section
/-! DEFINITION. Scalar integer, branch and scalar FP32 instructions (04_selod_isa.md Table 4.7). -/

namespace Sys2Proof.Machine

open Sys2Proof

/-! ### Integer -/

/-- ADD (Table 4.7, R101). rd gets ra + rb, wrapping. -/
def execAdd (t : Who) (g : Guard) (rd ra rb : Fin 64) (s : State) : Out :=
  scalarOp t g rd (fun x => aluAdd (x.sreg ra) (x.sreg rb)) s

/-- ADDI (Table 4.7, R101). As ADD with the sign-extended immediate for rb. -/
def execAddi (t : Who) (g : Guard) (rd ra : Fin 64) (imm : W32) (s : State) : Out :=
  scalarOp t g rd (fun x => aluAdd (x.sreg ra) (sext imm)) s

/-- SUB (Table 4.7, R101). rd gets ra - rb, wrapping. -/
def execSub (t : Who) (g : Guard) (rd ra rb : Fin 64) (s : State) : Out :=
  scalarOp t g rd (fun x => aluSub (x.sreg ra) (x.sreg rb)) s

/-- SUBI (Table 4.7, R101). As SUB with the sign-extended immediate for rb. -/
def execSubi (t : Who) (g : Guard) (rd ra : Fin 64) (imm : W32) (s : State) : Out :=
  scalarOp t g rd (fun x => aluSub (x.sreg ra) (sext imm)) s

/-- MUL (Table 4.7, R101). rd gets the low bits of the product. -/
def execMul (t : Who) (g : Guard) (rd ra rb : Fin 64) (s : State) : Out :=
  scalarOp t g rd (fun x => aluMul (x.sreg ra) (x.sreg rb)) s

/-- MULI (Table 4.7, R101). As MUL with the sign-extended immediate for rb. -/
def execMuli (t : Who) (g : Guard) (rd ra : Fin 64) (imm : W32) (s : State) : Out :=
  scalarOp t g rd (fun x => aluMul (x.sreg ra) (sext imm)) s

/-- MULH (Table 4.7, R101). rd gets the upper bits of the signed product. -/
def execMulh (t : Who) (g : Guard) (rd ra rb : Fin 64) (s : State) : Out :=
  scalarOp t g rd (fun x => aluMulh (x.sreg ra) (x.sreg rb)) s

/-- MULHI (Table 4.7, R101). As MULH with the sign-extended immediate for rb. -/
def execMulhi (t : Who) (g : Guard) (rd ra : Fin 64) (imm : W32) (s : State) : Out :=
  scalarOp t g rd (fun x => aluMulh (x.sreg ra) (sext imm)) s

/-- AND (Table 4.7, R101). Bitwise and. -/
def execAnd (t : Who) (g : Guard) (rd ra rb : Fin 64) (s : State) : Out :=
  scalarOp t g rd (fun x => aluAnd (x.sreg ra) (x.sreg rb)) s

/-- ANDI (Table 4.7, R101). As AND with the sign-extended immediate for rb. -/
def execAndi (t : Who) (g : Guard) (rd ra : Fin 64) (imm : W32) (s : State) : Out :=
  scalarOp t g rd (fun x => aluAnd (x.sreg ra) (sext imm)) s

/-- OR (Table 4.7, R101). Bitwise or. -/
def execOr (t : Who) (g : Guard) (rd ra rb : Fin 64) (s : State) : Out :=
  scalarOp t g rd (fun x => aluOr (x.sreg ra) (x.sreg rb)) s

/-- ORI (Table 4.7, R101). As OR with the sign-extended immediate for rb. -/
def execOri (t : Who) (g : Guard) (rd ra : Fin 64) (imm : W32) (s : State) : Out :=
  scalarOp t g rd (fun x => aluOr (x.sreg ra) (sext imm)) s

/-- XOR (Table 4.7, R101). Bitwise exclusive or. -/
def execXor (t : Who) (g : Guard) (rd ra rb : Fin 64) (s : State) : Out :=
  scalarOp t g rd (fun x => aluXor (x.sreg ra) (x.sreg rb)) s

/-- XORI (Table 4.7, R101). As XOR with the sign-extended immediate for rb. -/
def execXori (t : Who) (g : Guard) (rd ra : Fin 64) (imm : W32) (s : State) : Out :=
  scalarOp t g rd (fun x => aluXor (x.sreg ra) (sext imm)) s

/-- SHL (Table 4.7, R101). Shift left, count modulo the width. -/
def execShl (t : Who) (g : Guard) (rd ra rb : Fin 64) (s : State) : Out :=
  scalarOp t g rd (fun x => aluShl (x.sreg ra) (x.sreg rb)) s

/-- SHLI (Table 4.7, R101). As SHL with the sign-extended immediate for rb. -/
def execShli (t : Who) (g : Guard) (rd ra : Fin 64) (imm : W32) (s : State) : Out :=
  scalarOp t g rd (fun x => aluShl (x.sreg ra) (sext imm)) s

/-- SHR (Table 4.7, R101). Logical shift right, count modulo the width. -/
def execShr (t : Who) (g : Guard) (rd ra rb : Fin 64) (s : State) : Out :=
  scalarOp t g rd (fun x => aluShr (x.sreg ra) (x.sreg rb)) s

/-- SHRI (Table 4.7, R101). As SHR with the sign-extended immediate for rb. -/
def execShri (t : Who) (g : Guard) (rd ra : Fin 64) (imm : W32) (s : State) : Out :=
  scalarOp t g rd (fun x => aluShr (x.sreg ra) (sext imm)) s

/-- SRA (Table 4.7, R101). Arithmetic shift right, count modulo the width. -/
def execSra (t : Who) (g : Guard) (rd ra rb : Fin 64) (s : State) : Out :=
  scalarOp t g rd (fun x => aluSra (x.sreg ra) (x.sreg rb)) s

/-- SRAI (Table 4.7, R101). As SRA with the sign-extended immediate for rb. -/
def execSrai (t : Who) (g : Guard) (rd ra : Fin 64) (imm : W32) (s : State) : Out :=
  scalarOp t g rd (fun x => aluSra (x.sreg ra) (sext imm)) s

/-- MIN (Table 4.7, R101). Signed minimum. -/
def execMin (t : Who) (g : Guard) (rd ra rb : Fin 64) (s : State) : Out :=
  scalarOp t g rd (fun x => aluMin (x.sreg ra) (x.sreg rb)) s

/-- MINI (Table 4.7, R101). As MIN with the sign-extended immediate for rb. -/
def execMini (t : Who) (g : Guard) (rd ra : Fin 64) (imm : W32) (s : State) : Out :=
  scalarOp t g rd (fun x => aluMin (x.sreg ra) (sext imm)) s

/-- MAX (Table 4.7, R101). Signed maximum. -/
def execMax (t : Who) (g : Guard) (rd ra rb : Fin 64) (s : State) : Out :=
  scalarOp t g rd (fun x => aluMax (x.sreg ra) (x.sreg rb)) s

/-- MAXI (Table 4.7, R101). As MAX with the sign-extended immediate for rb. -/
def execMaxi (t : Who) (g : Guard) (rd ra : Fin 64) (imm : W32) (s : State) : Out :=
  scalarOp t g rd (fun x => aluMax (x.sreg ra) (sext imm)) s

/-- SLT (Table 4.7, R101). Signed less-than, 1 or 0. -/
def execSlt (t : Who) (g : Guard) (rd ra rb : Fin 64) (s : State) : Out :=
  scalarOp t g rd (fun x => aluSlt (x.sreg ra) (x.sreg rb)) s

/-- SLTI (Table 4.7, R101). As SLT with the sign-extended immediate for rb. -/
def execSlti (t : Who) (g : Guard) (rd ra : Fin 64) (imm : W32) (s : State) : Out :=
  scalarOp t g rd (fun x => aluSlt (x.sreg ra) (sext imm)) s

/-- SLTU (Table 4.7, R101). Unsigned less-than, 1 or 0. -/
def execSltu (t : Who) (g : Guard) (rd ra rb : Fin 64) (s : State) : Out :=
  scalarOp t g rd (fun x => aluSltu (x.sreg ra) (x.sreg rb)) s

/-- SLTUI (Table 4.7, R101). As SLTU with the sign-extended immediate for rb. -/
def execSltui (t : Who) (g : Guard) (rd ra : Fin 64) (imm : W32) (s : State) : Out :=
  scalarOp t g rd (fun x => aluSltu (x.sreg ra) (sext imm)) s

/-- SEQ (Table 4.7, R101). Equality, 1 or 0. -/
def execSeq (t : Who) (g : Guard) (rd ra rb : Fin 64) (s : State) : Out :=
  scalarOp t g rd (fun x => aluSeq (x.sreg ra) (x.sreg rb)) s

/-- SEQI (Table 4.7, R101). As SEQ with the sign-extended immediate for rb. -/
def execSeqi (t : Who) (g : Guard) (rd ra : Fin 64) (imm : W32) (s : State) : Out :=
  scalarOp t g rd (fun x => aluSeq (x.sreg ra) (sext imm)) s

/-- POPC (Table 4.7). The number of set bits of ra. -/
def execPopc (t : Who) (g : Guard) (rd ra : Fin 64) (s : State) : Out :=
  scalarOp t g rd (fun x => BitVec.ofNat 64 (popCount (x.sreg ra))) s

/-- MOVH (Table 4.7). rd[63:32] takes imm; rd[31:0] is unchanged. -/
def execMovh (t : Who) (g : Guard) (rd : Fin 64) (imm : W32) (s : State) : Out :=
  scalarOp t g rd (fun x => imm ++ (x.sreg rd).truncate 32) s

/-! ### Control (Table 4.7) -/

/-- The address 8 × imm from the instruction at hand (Table 4.5). -/
def branchTarget (pc : Word) (offset : W32) : Word := pc + 8 * sext offset

/-- A branch: the program counter takes its target where the condition holds. -/
def branchOp (w : Who) (g : Guard) (ra rb : Fin 64) (offset : W32) (c : Word → Word → Bool) (s : State) : Out :=
  onTask w anyLevel (fun t =>
    if t.acts g && c (t.sreg ra) (t.sreg rb) then { t with pc := branchTarget t.pc offset - 8 } else t) s

/-- BEQ (Table 4.7). Branches when equal. -/
def execBeq (t : Who) (g : Guard) (ra rb : Fin 64) (offset : W32) (s : State) : Out :=
  branchOp t g ra rb offset (fun a b => a == b) s

/-- BNE (Table 4.7). Branches when different. -/
def execBne (t : Who) (g : Guard) (ra rb : Fin 64) (offset : W32) (s : State) : Out :=
  branchOp t g ra rb offset (fun a b => a != b) s

/-- BLT (Table 4.7). Branches when ra below rb, signed. -/
def execBlt (t : Who) (g : Guard) (ra rb : Fin 64) (offset : W32) (s : State) : Out :=
  branchOp t g ra rb offset (fun a b => a.slt b) s

/-- BGE (Table 4.7). Branches when ra at or above rb, signed. -/
def execBge (t : Who) (g : Guard) (ra rb : Fin 64) (offset : W32) (s : State) : Out :=
  branchOp t g ra rb offset (fun a b => !a.slt b) s

/-- BLTU (Table 4.7). Branches when ra below rb, unsigned. -/
def execBltu (t : Who) (g : Guard) (ra rb : Fin 64) (offset : W32) (s : State) : Out :=
  branchOp t g ra rb offset (fun a b => a.ult b) s

/-- BGEU (Table 4.7). Branches when ra at or above rb, unsigned. -/
def execBgeu (t : Who) (g : Guard) (ra rb : Fin 64) (offset : W32) (s : State) : Out :=
  branchOp t g ra rb offset (fun a b => !a.ult b) s

/-- JAL (Table 4.7). rd takes the address of the next instruction; the program counter goes 8 × imm from this one. -/
def execJal (t : Who) (g : Guard) (rd : Fin 64) (imm : W32) (s : State) : Out :=
  onTask t anyLevel (fun x =>
    if x.acts g then { x.setS rd (x.pc + 8) with pc := branchTarget x.pc imm - 8 } else x) s

/-- JR (Table 4.7). The program counter takes ra + imm. A target that is not 8-byte aligned is met at the fetch. -/
def execJr (t : Who) (g : Guard) (ra : Fin 64) (imm : W32) (s : State) : Out :=
  onTask t anyLevel (fun x => if x.acts g then { x with pc := x.sreg ra + sext imm - 8 } else x) s

/-! ### FP32 in bits [31:0] (Table 4.7, R224) -/

/-- The FP32 value in a scalar register. -/
def Task.fpReg (t : Task) (n : Fin 64) : W32 := (t.sreg n).truncate 32

/-- FADD (Table 4.7, R224). -/
def execFadd (t : Who) (g : Guard) (rd ra rb : Fin 64) (s : State) : Out :=
  scalarFp t g rd (fun x => fadd (x.fpReg ra) (x.fpReg rb)) s

/-- FSUB (Table 4.7, R224). -/
def execFsub (t : Who) (g : Guard) (rd ra rb : Fin 64) (s : State) : Out :=
  scalarFp t g rd (fun x => fsub (x.fpReg ra) (x.fpReg rb)) s

/-- FMUL (Table 4.7, R224). -/
def execFmul (t : Who) (g : Guard) (rd ra rb : Fin 64) (s : State) : Out :=
  scalarFp t g rd (fun x => fmul (x.fpReg ra) (x.fpReg rb)) s

/-- FMIN (Table 4.7, R224). -/
def execFmin (t : Who) (g : Guard) (rd ra rb : Fin 64) (s : State) : Out :=
  scalarFp t g rd (fun x => fmin (x.fpReg ra) (x.fpReg rb)) s

/-- FMAX (Table 4.7, R224). -/
def execFmax (t : Who) (g : Guard) (rd ra rb : Fin 64) (s : State) : Out :=
  scalarFp t g rd (fun x => fmax (x.fpReg ra) (x.fpReg rb)) s

/-- FFMA (Table 4.7). ra × rb + rc, rounded once. -/
def execFfma (t : Who) (g : Guard) (rd ra rb rc : Fin 64) (s : State) : Out :=
  scalarFp t g rd (fun x => ffma (x.fpReg ra) (x.fpReg rb) (x.fpReg rc)) s

/-- FCVTIF (Table 4.7). The signed 64-bit integer in ra as FP32. -/
def execFcvtif (t : Who) (g : Guard) (rd ra : Fin 64) (s : State) : Out :=
  scalarFp t g rd (fun x => fcvtif (x.sreg ra)) s

/-- FCVTFI (Table 4.7). FP32 to a signed integer, toward zero and saturating. The result for a NaN is a free value
(log entry 16); the free-value counter then moves on. -/
def execFcvtfi (t : Who) (g : Guard) (rd ra : Fin 64) (s : State) : Out :=
  issue t anyLevel (fun x s =>
    if x.acts g then
      let s1 := s.setTask t (x.setS rd (fcvtfi (Config.freeWord s.freeCount 0) (x.fpReg ra))).advance
      if isNan (x.fpReg ra) then { s1 with freeCount := s1.freeCount + 1 } else s1
    else s.setTask t x.advance) s

end Sys2Proof.Machine
end

