-- ==== Sys2Proof/Machine/Vector.lean ====
section
/-! DEFINITION. Vector integer, vector FP32, lane and predicate instructions (04_selod_isa.md Tables 4.8 and 4.9). -/

namespace Sys2Proof.Machine

open Sys2Proof

/-! ### Vector integer, per 32-bit lane -/

/-- VADD (Table 4.8, R101). Each lane of vd gets va + vb, wrapping. -/
def execVadd (t : Who) (g : Guard) (vd va vb : Fin 32) (s : State) : Out :=
  laneOp t g anyLevel vd (fun x l => aluAdd (x.lane va l) (x.lane vb l)) s

/-- VSUB (Table 4.8, R101). Each lane of vd gets va - vb, wrapping. -/
def execVsub (t : Who) (g : Guard) (vd va vb : Fin 32) (s : State) : Out :=
  laneOp t g anyLevel vd (fun x l => aluSub (x.lane va l) (x.lane vb l)) s

/-- VMUL (Table 4.8, R101). Each lane of vd gets the low bits of the product. -/
def execVmul (t : Who) (g : Guard) (vd va vb : Fin 32) (s : State) : Out :=
  laneOp t g anyLevel vd (fun x l => aluMul (x.lane va l) (x.lane vb l)) s

/-- VMULH (Table 4.8, R101). Each lane of vd gets the upper bits of the signed product. -/
def execVmulh (t : Who) (g : Guard) (vd va vb : Fin 32) (s : State) : Out :=
  laneOp t g anyLevel vd (fun x l => aluMulh (x.lane va l) (x.lane vb l)) s

/-- VAND (Table 4.8, R101). Bitwise and. -/
def execVand (t : Who) (g : Guard) (vd va vb : Fin 32) (s : State) : Out :=
  laneOp t g anyLevel vd (fun x l => aluAnd (x.lane va l) (x.lane vb l)) s

/-- VOR (Table 4.8, R101). Bitwise or. -/
def execVor (t : Who) (g : Guard) (vd va vb : Fin 32) (s : State) : Out :=
  laneOp t g anyLevel vd (fun x l => aluOr (x.lane va l) (x.lane vb l)) s

/-- VXOR (Table 4.8, R101). Bitwise exclusive or. -/
def execVxor (t : Who) (g : Guard) (vd va vb : Fin 32) (s : State) : Out :=
  laneOp t g anyLevel vd (fun x l => aluXor (x.lane va l) (x.lane vb l)) s

/-- VSHL (Table 4.8, R101). Shift left, count modulo the width. -/
def execVshl (t : Who) (g : Guard) (vd va vb : Fin 32) (s : State) : Out :=
  laneOp t g anyLevel vd (fun x l => aluShl (x.lane va l) (x.lane vb l)) s

/-- VSHR (Table 4.8, R101). Logical shift right, count modulo the width. -/
def execVshr (t : Who) (g : Guard) (vd va vb : Fin 32) (s : State) : Out :=
  laneOp t g anyLevel vd (fun x l => aluShr (x.lane va l) (x.lane vb l)) s

/-- VSRA (Table 4.8, R101). Arithmetic shift right, count modulo the width. -/
def execVsra (t : Who) (g : Guard) (vd va vb : Fin 32) (s : State) : Out :=
  laneOp t g anyLevel vd (fun x l => aluSra (x.lane va l) (x.lane vb l)) s

/-- VMIN (Table 4.8, R101). Signed minimum. -/
def execVmin (t : Who) (g : Guard) (vd va vb : Fin 32) (s : State) : Out :=
  laneOp t g anyLevel vd (fun x l => aluMin (x.lane va l) (x.lane vb l)) s

/-- VMAX (Table 4.8, R101). Signed maximum. -/
def execVmax (t : Who) (g : Guard) (vd va vb : Fin 32) (s : State) : Out :=
  laneOp t g anyLevel vd (fun x l => aluMax (x.lane va l) (x.lane vb l)) s

/-- VSLT (Table 4.8, R101). Signed less-than, 1 or 0. -/
def execVslt (t : Who) (g : Guard) (vd va vb : Fin 32) (s : State) : Out :=
  laneOp t g anyLevel vd (fun x l => aluSlt (x.lane va l) (x.lane vb l)) s

/-- VSLTU (Table 4.8, R101). Unsigned less-than, 1 or 0. -/
def execVsltu (t : Who) (g : Guard) (vd va vb : Fin 32) (s : State) : Out :=
  laneOp t g anyLevel vd (fun x l => aluSltu (x.lane va l) (x.lane vb l)) s

/-- VSEQ (Table 4.8, R101). Equality, 1 or 0. -/
def execVseq (t : Who) (g : Guard) (vd va vb : Fin 32) (s : State) : Out :=
  laneOp t g anyLevel vd (fun x l => aluSeq (x.lane va l) (x.lane vb l)) s

/-- VPOPCNT (Table 4.8). The number of set bits of each lane. -/
def execVpopcnt (t : Who) (g : Guard) (vd va : Fin 32) (s : State) : Out :=
  laneOp t g anyLevel vd (fun x l => BitVec.ofNat 32 (popCount (x.lane va l))) s

/-! ### Vector FP32 (R224, R225) -/

/-- VFADD (Table 4.8, R224). -/
def execVfadd (t : Who) (g : Guard) (vd va vb : Fin 32) (s : State) : Out :=
  laneFp t g vd (fun x l => fadd (x.lane va l) (x.lane vb l)) s

/-- VFSUB (Table 4.8, R224). -/
def execVfsub (t : Who) (g : Guard) (vd va vb : Fin 32) (s : State) : Out :=
  laneFp t g vd (fun x l => fsub (x.lane va l) (x.lane vb l)) s

/-- VFMUL (Table 4.8, R224). -/
def execVfmul (t : Who) (g : Guard) (vd va vb : Fin 32) (s : State) : Out :=
  laneFp t g vd (fun x l => fmul (x.lane va l) (x.lane vb l)) s

/-- VFMIN (Table 4.8, R224). -/
def execVfmin (t : Who) (g : Guard) (vd va vb : Fin 32) (s : State) : Out :=
  laneFp t g vd (fun x l => fmin (x.lane va l) (x.lane vb l)) s

/-- VFMAX (Table 4.8, R224). -/
def execVfmax (t : Who) (g : Guard) (vd va vb : Fin 32) (s : State) : Out :=
  laneFp t g vd (fun x l => fmax (x.lane va l) (x.lane vb l)) s

/-- VFFMA (Table 4.8). vc is the addend of va × vb, rounded once. -/
def execVffma (t : Who) (g : Guard) (vd va vb vc : Fin 32) (s : State) : Out :=
  laneFp t g vd (fun x l => ffma (x.lane va l) (x.lane vb l) (x.lane vc l)) s

/-- VFABS (Table 4.8, R224, R225). Clears the sign bit. -/
def execVfabs (t : Who) (g : Guard) (vd va : Fin 32) (s : State) : Out :=
  laneFp t g vd (fun x l => x.lane va l &&& 0x7FFFFFFF) s

/-- VFNEG (Table 4.8, R224, R225). Inverts the sign bit. -/
def execVfneg (t : Who) (g : Guard) (vd va : Fin 32) (s : State) : Out :=
  laneFp t g vd (fun x l => x.lane va l ^^^ 0x80000000) s

/-- VFRCP (Table 4.8, R224, R225). 1/x, correctly rounded. -/
def execVfrcp (t : Who) (g : Guard) (vd va : Fin 32) (s : State) : Out :=
  laneFp t g vd (fun x l => frcp (x.lane va l)) s

/-- VFRSQ (Table 4.8, R224, R225). 1/√x, correctly rounded. -/
def execVfrsq (t : Who) (g : Guard) (vd va : Fin 32) (s : State) : Out :=
  laneFp t g vd (fun x l => frsq (x.lane va l)) s

/-- VFEXP (Table 4.8, R224, R225). e^x, correctly rounded. -/
def execVfexp (t : Who) (g : Guard) (vd va : Fin 32) (s : State) : Out :=
  laneFp t g vd (fun x l => fexp (x.lane va l)) s

/-- VFLOG (Table 4.8, R224, R225). ln x, correctly rounded. -/
def execVflog (t : Who) (g : Guard) (vd va : Fin 32) (s : State) : Out :=
  laneFp t g vd (fun x l => flog (x.lane va l)) s

/-- A word with bit l set where the test holds, for the logical lanes. -/
def maskOf (lanes : Nat) (p : Nat → Bool) : Word :=
  BitVec.ofNat 64 (((List.range lanes).map fun l => if p l then 2 ^ l else 0).sum)

/-- VFCLT (Table 4.8). Less-than into a predicate. -/
def execVfclt (t : Who) (g : Guard) (pd : Fin 8) (va vb : Fin 32) (s : State) : Out :=
  predOp t g pd (fun x => maskOf x.lanes fun l => (f32 (x.lane va l)).lt (f32 (x.lane vb l))) s

/-- VFCEQ (Table 4.8). Equality into a predicate. -/
def execVfceq (t : Who) (g : Guard) (pd : Fin 8) (va vb : Fin 32) (s : State) : Out :=
  predOp t g pd (fun x => maskOf x.lanes fun l => (f32 (x.lane va l)).eqv (f32 (x.lane vb l))) s

/-- VFSEL (Table 4.8). va where the predicate's bit is 1, vb where it is 0. It moves bits, and every infinity or NaN it
writes is counted, as for each vector FP32 instruction (R224, R238). -/
def execVfsel (t : Who) (g : Guard) (vd va vb : Fin 32) (pc : Fin 8) (s : State) : Out :=
  laneFp t g vd (fun x l => if (x.pred pc).getLsbD l then x.lane va l else x.lane vb l) s

/-! ### Lane operations (Table 4.9, R93, R101) -/

/-- Lanes of va, with `out` for those the guard excludes. -/
def Task.vecOr (t : Task) (g : Guard) (va : Fin 32) (out : W32) : List W32 :=
  (List.range t.lanes).map fun l => if t.guardBit g l then t.lane va l else out

/-- VRSUM (R93, R101). The lanes taking part, added in a pairwise balanced tree; excluded lanes are -0. -/
def execVrsum (t : Who) (g : Guard) (rd : Fin 64) (va : Fin 32) (s : State) : Out :=
  countedOp t anyLevel (fun x =>
    let r := treeSum 6 (x.vecOr g va 0x80000000)
    (x.setS rd (r.zeroExtend 64), ⟨0, b2n (nonfin r)⟩)) s

/-- The maximum of R224 over a list; -∞ when it is empty (R93). -/
def maxOf : List W32 → W32
  | [] => 0xFF800000
  | a :: r => r.foldl fmax (fmax a a)

/-- VRMAX (R93, R101). -/
def execVrmax (t : Who) (g : Guard) (rd : Fin 64) (va : Fin 32) (s : State) : Out :=
  countedOp t anyLevel (fun x =>
    let r := maxOf (((List.range x.lanes).filter fun l => x.guardBit g l).map (x.lane va))
    (x.setS rd (r.zeroExtend 64), ⟨0, b2n (nonfin r)⟩)) s

/-- VRISUM (R93, R101). The exact signed sum; excluded lanes are 0. -/
def execVrisum (t : Who) (g : Guard) (rd : Fin 64) (va : Fin 32) (s : State) : Out :=
  onTask t anyLevel (fun x => x.setS rd (BitVec.ofInt 64 (((x.vecOr g va 0).map BitVec.toInt).sum))) s

/-- VPERM (Table 4.9). Lane vb[l] mod L of va. -/
def execVperm (t : Who) (g : Guard) (vd va vb : Fin 32) (s : State) : Out :=
  laneOp t g anyLevel vd (fun x l => x.lane va ((x.lane vb l).toNat % x.lanes)) s

/-- VSCAN (Table 4.9). Inclusive wrapping prefix sum over the logical lanes; every lane contributes. -/
def execVscan (t : Who) (g : Guard) (vd va : Fin 32) (s : State) : Out :=
  laneOp t g anyLevel vd (fun x l => ((List.range (l + 1)).map (x.lane va)).foldl (· + ·) 0) s

/-- VBCAST (Table 4.9). ra[31:0] in every lane. -/
def execVbcast (t : Who) (g : Guard) (vd : Fin 32) (ra : Fin 64) (s : State) : Out :=
  laneOp t g anyLevel vd (fun x _ => (x.sreg ra).truncate 32) s

/-- VMOVS (Table 4.9, R93). Lane rb of va, zero-extended, where the guard admits that lane. From lane L upward lanes
and predicate bits read as zero (R98), so sense 1 admits such a lane (DEDUCED, log entry 21). -/
def execVmovs (t : Who) (g : Guard) (rd : Fin 64) (va : Fin 32) (rb : Fin 64) (s : State) : Out :=
  onTask t anyLevel (fun x =>
    let l := (x.sreg rb).toNat
    if (x.pred g.pred).getLsbD l != g.sense then x.setS rd ((x.lane va l).zeroExtend 64) else x) s

/-- PCOUNT (Table 4.9, R93). Set bits of a predicate among the lanes the guard admits. -/
def execPcount (t : Who) (g : Guard) (rd : Fin 64) (pa : Fin 8) (s : State) : Out :=
  onTask t anyLevel (fun x => x.setS rd (BitVec.ofNat 64 (popCount (x.pred pa &&& x.guardMask g)))) s

/-- Tile, row and first column that rb names (Table 4.9). -/
def tileSpot (v : Word) : Nat × Nat × Nat := (bitsN v.toNat 2 0, bitsN v.toNat 7 4, 64 * bitsN v.toNat 9 8)

/-- The tile that rb of a task names. -/
def spotTile (s : State) (w : Who) (rb : Fin 64) : Nat :=
  match s.task w with
  | some x => (tileSpot (x.sreg rb)).1
  | none => 0

/-- A move between a tile and a vector register that finds the array's parity in error: the tile is undefined, the step is dirty,
and the move goes on (R217). -/
def moveParity (w : Who) (x : Task) (tile : Nat) (s : State) : Task × State :=
  if s.errs.contains ⟨6, w.core, 0⟩ then
    (x.setTile tile fun r c => some ((Config.freeWord s.freeCount (256 * r + c)).truncate 32),
      foundError x.ctx x.hostSeq (coreErr 6 w.core) { s with freeCount := s.freeCount + 1 })
  else (x, s)

/-- VFROMA (Table 4.9). 64 columns of a tile row into vd; lane l takes column l of them. It waits for the task's MXMs
into the tile (R203). -/
def execVfroma (t : Who) (g : Guard) (vd : Fin 32) (rb : Fin 64) (s : State) : Out :=
  waiting (mxmInto s t (spotTile s t rb)) s <| issue t anyLevel (fun x s =>
    let p := tileSpot (x.sreg rb)
    let y := moveParity t x p.1 s
    y.2.setTask t (y.1.setVec g vd fun l => y.1.elem p.1 p.2.1 (p.2.2 + l)).advance) s

/-- ATOV (Table 4.9). The lanes of vd that the guard admits into 64 columns of a tile row. It waits as VFROMA does. -/
def execAtov (t : Who) (g : Guard) (vd : Fin 32) (rb : Fin 64) (s : State) : Out :=
  waiting (mxmInto s t (spotTile s t rb)) s <| issue t anyLevel (fun x s =>
    let p := tileSpot (x.sreg rb)
    let on := fun (l : Nat) => x.guardBit g l
    let y := moveParity t x p.1 s
    let z := y.1.setTile p.1 fun r c =>
      if r = p.2.1 && p.2.2 ≤ c && c < p.2.2 + 64 && on (c - p.2.2) then some (x.lane vd (c - p.2.2)) else none
    overwrite t p.1 (fun r => if r = p.2.1 then (((List.range 64).filter on).map fun l => 2 ^ (p.2.2 + l)).sum else 0)
      (y.2.setTask t z.advance)) s

/-! ### Predicates (Table 4.9) -/

/-- PAND (Table 4.9). -/
def execPand (t : Who) (g : Guard) (pd pa pb : Fin 8) (s : State) : Out :=
  predOp t g pd (fun x => x.pred pa &&& x.pred pb) s

/-- POR (Table 4.9). -/
def execPor (t : Who) (g : Guard) (pd pa pb : Fin 8) (s : State) : Out :=
  predOp t g pd (fun x => x.pred pa ||| x.pred pb) s

/-- PXOR (Table 4.9). -/
def execPxor (t : Who) (g : Guard) (pd pa pb : Fin 8) (s : State) : Out :=
  predOp t g pd (fun x => x.pred pa ^^^ x.pred pb) s

/-- PNOT (Table 4.9). -/
def execPnot (t : Who) (g : Guard) (pd pa : Fin 8) (s : State) : Out :=
  predOp t g pd (fun x => ~~~ x.pred pa) s

/-- PFROMS (Table 4.9). A scalar into a predicate. -/
def execPfroms (t : Who) (g : Guard) (pd : Fin 8) (ra : Fin 64) (s : State) : Out :=
  predOp t g pd (fun x => x.sreg ra) s

/-- PTOS (Table 4.9, R93). A predicate into a scalar, the bit of an excluded lane read as 0. -/
def execPtos (t : Who) (g : Guard) (rd : Fin 64) (pa : Fin 8) (s : State) : Out :=
  onTask t anyLevel (fun x => x.setS rd (x.pred pa &&& x.guardMask g)) s

/-- PFIRST (Table 4.9). Only the lowest set bit of pa. -/
def execPfirst (t : Who) (g : Guard) (pd pa : Fin 8) (s : State) : Out :=
  predOp t g pd (fun x => lowestBit (x.pred pa)) s

end Sys2Proof.Machine
end

