-- ==== Sys2Proof/Machine/Wake.lean ====
section
/-! DEFINITION. Leaving Drowse: the accesses that the headgate holds complete (15_startup_states.md R418, R421). -/

namespace Sys2Proof.Machine

open Sys2Proof

/-- One held access (R418). No other command is ever held. -/
def runHeld (s : State) (i : Instr) : State :=
  match i with
  | .intakeWrite ctx offset data => intakeWrite ctx offset data s
  | .bar4Read off bytes detected => bar4Read off bytes detected s
  | .bar4Write off data => bar4Write off data s
  | .registerWrite x value => writePlace x value s
  | .tallyReset first countM1 => resetRange first countM1 s
  | .tallySnapshot tally => snapshotTally tally s
  | .handSetSignal tally value => handSignal tally value s
  | .handSetCount tally value => handCount tally value s
  | .checkSlotBind slot => bindSlot slot s
  | .checkSlotUnbind slot => unbindAny slot s
  | .portEnable port => enablePort port s
  | .portDisable port => disablePort port s
  | .portRetrain port => retrainPort port s
  | .hostCapWrite watts => writeHostCap watts s
  | .fixedRateWrite on => writeFixedRate on s
  | .translationInvalidate ctx sizeLog2 => startInvalidation ctx sizeLog2 s
  | .ingest slot => startIngest slot false s
  | .trim slot => startIngest slot true s
  | .clearFirst => clearFirst s
  | .fenceRequest kind index => requestFence kind index s
  | .bistRequest kind index => requestBist kind index s
  | .ringConsumedWrite ctx value => writeConsumed ctx value s
  | .contextOpen ctx level irqOnError => openContext ctx level irqOnError s
  | .contextReset ctx => resetOpen ctx s
  | .intakeRewind ctx => rewindIntake ctx s
  | .faultRecordClear ctx => clearFault ctx s
  | .ctxSnapshot ctx => snapshotCtx ctx s
  | .debugChallenge drawn => newNonce drawn s
  | .debugSubmit keyDigest sigOk => submit keyDigest sigOk s
  | .debugLock => lockDebug s
  | .drowseRequest => askDrowse s
  | .deepRequest => askDeep s
  | _ => s

/-- The held accesses complete in their order. -/
def completeHeld (s : State) : State :=
  s.hg.held.foldl runHeld { s with hg := { s.hg with held := [] } }

/-- A compute die as it leaves Drowse: OP0 with T = 78, its allowance to ramp. -/
def Die.awake (x : Die) : Die :=
  let o := x.pointOf 0
  { x with vcd := o.vcd, vcs := o.vcs, bias := o.bias, assist := o.assist, point := 0, target := 0, index := 78
           capIndex := 78, thermal := 0, allowance := 0 }

/-- Each enabled port starts Detect. -/
def wakePorts (s : State) : State :=
  (List.range 32).foldl (fun (x : State) p =>
    if (x.port p).enable && canDetect x p then x.modPort p Port.detect else x) s

/-- The module is Active again. -/
def awake (s : State) : State :=
  s.modPower fun p => { p with phase := .active, ready := true, wakeHeld := false }

/-- DROWSE_EXIT (R418, R421). A wake during entry abandons the entry, with refused set and cause 6. -/
def execDrowseExit (_why : WakeBy) (s : State) : Out :=
  if s.inPhase .enteringDrowse then go (completeHeld (refusePower 6 (awake s)))
  else if s.inPhase .drowse || s.inPhase .leavingDrowse then
    go (completeHeld (wakePorts ((List.range 8).foldl (fun (x : State) d => x.modDie d Die.awake) (awake s))))
  else go s

end Sys2Proof.Machine
end

