-- ==== Sys2Proof/Machine/Dispatch.lean ====
section
/-! DEFINITION. One arm for each command: its meaning. -/

namespace Sys2Proof.Machine

open Sys2Proof

def exec (i : Instr) (s : State) : Host.Outcome State Fault Refusal :=
  match i with
  | .add t g rd ra rb => Sys2Proof.Machine.execAdd t g rd ra rb s
  | .sub t g rd ra rb => Sys2Proof.Machine.execSub t g rd ra rb s
  | .mul t g rd ra rb => Sys2Proof.Machine.execMul t g rd ra rb s
  | .mulh t g rd ra rb => Sys2Proof.Machine.execMulh t g rd ra rb s
  | .and t g rd ra rb => Sys2Proof.Machine.execAnd t g rd ra rb s
  | .or t g rd ra rb => Sys2Proof.Machine.execOr t g rd ra rb s
  | .xor t g rd ra rb => Sys2Proof.Machine.execXor t g rd ra rb s
  | .shl t g rd ra rb => Sys2Proof.Machine.execShl t g rd ra rb s
  | .shr t g rd ra rb => Sys2Proof.Machine.execShr t g rd ra rb s
  | .sra t g rd ra rb => Sys2Proof.Machine.execSra t g rd ra rb s
  | .min t g rd ra rb => Sys2Proof.Machine.execMin t g rd ra rb s
  | .max t g rd ra rb => Sys2Proof.Machine.execMax t g rd ra rb s
  | .slt t g rd ra rb => Sys2Proof.Machine.execSlt t g rd ra rb s
  | .sltu t g rd ra rb => Sys2Proof.Machine.execSltu t g rd ra rb s
  | .seq t g rd ra rb => Sys2Proof.Machine.execSeq t g rd ra rb s
  | .popc t g rd ra => Sys2Proof.Machine.execPopc t g rd ra s
  | .addi t g rd ra imm => Sys2Proof.Machine.execAddi t g rd ra imm s
  | .subi t g rd ra imm => Sys2Proof.Machine.execSubi t g rd ra imm s
  | .muli t g rd ra imm => Sys2Proof.Machine.execMuli t g rd ra imm s
  | .mulhi t g rd ra imm => Sys2Proof.Machine.execMulhi t g rd ra imm s
  | .andi t g rd ra imm => Sys2Proof.Machine.execAndi t g rd ra imm s
  | .ori t g rd ra imm => Sys2Proof.Machine.execOri t g rd ra imm s
  | .xori t g rd ra imm => Sys2Proof.Machine.execXori t g rd ra imm s
  | .shli t g rd ra imm => Sys2Proof.Machine.execShli t g rd ra imm s
  | .shri t g rd ra imm => Sys2Proof.Machine.execShri t g rd ra imm s
  | .srai t g rd ra imm => Sys2Proof.Machine.execSrai t g rd ra imm s
  | .mini t g rd ra imm => Sys2Proof.Machine.execMini t g rd ra imm s
  | .maxi t g rd ra imm => Sys2Proof.Machine.execMaxi t g rd ra imm s
  | .slti t g rd ra imm => Sys2Proof.Machine.execSlti t g rd ra imm s
  | .sltui t g rd ra imm => Sys2Proof.Machine.execSltui t g rd ra imm s
  | .seqi t g rd ra imm => Sys2Proof.Machine.execSeqi t g rd ra imm s
  | .movh t g rd imm => Sys2Proof.Machine.execMovh t g rd imm s
  | .ld8 t g rd ra imm => Sys2Proof.Machine.execLd8 t g rd ra imm s
  | .ld16 t g rd ra imm => Sys2Proof.Machine.execLd16 t g rd ra imm s
  | .ld32 t g rd ra imm => Sys2Proof.Machine.execLd32 t g rd ra imm s
  | .ld64 t g rd ra imm => Sys2Proof.Machine.execLd64 t g rd ra imm s
  | .st8 t g rd ra imm => Sys2Proof.Machine.execSt8 t g rd ra imm s
  | .st16 t g rd ra imm => Sys2Proof.Machine.execSt16 t g rd ra imm s
  | .st32 t g rd ra imm => Sys2Proof.Machine.execSt32 t g rd ra imm s
  | .st64 t g rd ra imm => Sys2Proof.Machine.execSt64 t g rd ra imm s
  | .cld8 t g rd ra imm => Sys2Proof.Machine.execCld8 t g rd ra imm s
  | .cld16 t g rd ra imm => Sys2Proof.Machine.execCld16 t g rd ra imm s
  | .cld32 t g rd ra imm => Sys2Proof.Machine.execCld32 t g rd ra imm s
  | .cld64 t g rd ra imm => Sys2Proof.Machine.execCld64 t g rd ra imm s
  | .cst8 t g rd ra imm => Sys2Proof.Machine.execCst8 t g rd ra imm s
  | .cst16 t g rd ra imm => Sys2Proof.Machine.execCst16 t g rd ra imm s
  | .cst32 t g rd ra imm => Sys2Proof.Machine.execCst32 t g rd ra imm s
  | .cst64 t g rd ra imm => Sys2Proof.Machine.execCst64 t g rd ra imm s
  | .beq t g ra rb offset => Sys2Proof.Machine.execBeq t g ra rb offset s
  | .bne t g ra rb offset => Sys2Proof.Machine.execBne t g ra rb offset s
  | .blt t g ra rb offset => Sys2Proof.Machine.execBlt t g ra rb offset s
  | .bge t g ra rb offset => Sys2Proof.Machine.execBge t g ra rb offset s
  | .bltu t g ra rb offset => Sys2Proof.Machine.execBltu t g ra rb offset s
  | .bgeu t g ra rb offset => Sys2Proof.Machine.execBgeu t g ra rb offset s
  | .jal t g rd imm => Sys2Proof.Machine.execJal t g rd imm s
  | .jr t g ra imm => Sys2Proof.Machine.execJr t g ra imm s
  | .fadd t g rd ra rb => Sys2Proof.Machine.execFadd t g rd ra rb s
  | .fsub t g rd ra rb => Sys2Proof.Machine.execFsub t g rd ra rb s
  | .fmul t g rd ra rb => Sys2Proof.Machine.execFmul t g rd ra rb s
  | .ffma t g rd ra rb rc => Sys2Proof.Machine.execFfma t g rd ra rb rc s
  | .fmin t g rd ra rb => Sys2Proof.Machine.execFmin t g rd ra rb s
  | .fmax t g rd ra rb => Sys2Proof.Machine.execFmax t g rd ra rb s
  | .fcvtif t g rd ra => Sys2Proof.Machine.execFcvtif t g rd ra s
  | .fcvtfi t g rd ra => Sys2Proof.Machine.execFcvtfi t g rd ra s
  | .vadd t g vd va vb => Sys2Proof.Machine.execVadd t g vd va vb s
  | .vsub t g vd va vb => Sys2Proof.Machine.execVsub t g vd va vb s
  | .vmul t g vd va vb => Sys2Proof.Machine.execVmul t g vd va vb s
  | .vmulh t g vd va vb => Sys2Proof.Machine.execVmulh t g vd va vb s
  | .vand t g vd va vb => Sys2Proof.Machine.execVand t g vd va vb s
  | .vor t g vd va vb => Sys2Proof.Machine.execVor t g vd va vb s
  | .vxor t g vd va vb => Sys2Proof.Machine.execVxor t g vd va vb s
  | .vshl t g vd va vb => Sys2Proof.Machine.execVshl t g vd va vb s
  | .vshr t g vd va vb => Sys2Proof.Machine.execVshr t g vd va vb s
  | .vsra t g vd va vb => Sys2Proof.Machine.execVsra t g vd va vb s
  | .vmin t g vd va vb => Sys2Proof.Machine.execVmin t g vd va vb s
  | .vmax t g vd va vb => Sys2Proof.Machine.execVmax t g vd va vb s
  | .vslt t g vd va vb => Sys2Proof.Machine.execVslt t g vd va vb s
  | .vsltu t g vd va vb => Sys2Proof.Machine.execVsltu t g vd va vb s
  | .vseq t g vd va vb => Sys2Proof.Machine.execVseq t g vd va vb s
  | .vpopcnt t g vd va => Sys2Proof.Machine.execVpopcnt t g vd va s
  | .vfadd t g vd va vb => Sys2Proof.Machine.execVfadd t g vd va vb s
  | .vfsub t g vd va vb => Sys2Proof.Machine.execVfsub t g vd va vb s
  | .vfmul t g vd va vb => Sys2Proof.Machine.execVfmul t g vd va vb s
  | .vffma t g vd va vb vc => Sys2Proof.Machine.execVffma t g vd va vb vc s
  | .vfmin t g vd va vb => Sys2Proof.Machine.execVfmin t g vd va vb s
  | .vfmax t g vd va vb => Sys2Proof.Machine.execVfmax t g vd va vb s
  | .vfabs t g vd va => Sys2Proof.Machine.execVfabs t g vd va s
  | .vfneg t g vd va => Sys2Proof.Machine.execVfneg t g vd va s
  | .vfrcp t g vd va => Sys2Proof.Machine.execVfrcp t g vd va s
  | .vfrsq t g vd va => Sys2Proof.Machine.execVfrsq t g vd va s
  | .vfexp t g vd va => Sys2Proof.Machine.execVfexp t g vd va s
  | .vflog t g vd va => Sys2Proof.Machine.execVflog t g vd va s
  | .vfclt t g pd va vb => Sys2Proof.Machine.execVfclt t g pd va vb s
  | .vfceq t g pd va vb => Sys2Proof.Machine.execVfceq t g pd va vb s
  | .vfsel t g vd va vb pc => Sys2Proof.Machine.execVfsel t g vd va vb pc s
  | .vld t g vd ra imm => Sys2Proof.Machine.execVld t g vd ra imm s
  | .vst t g vd ra imm => Sys2Proof.Machine.execVst t g vd ra imm s
  | .vlds t g vd ra rb => Sys2Proof.Machine.execVlds t g vd ra rb s
  | .vsts t g vd ra rb => Sys2Proof.Machine.execVsts t g vd ra rb s
  | .vldx t g vd ra vb => Sys2Proof.Machine.execVldx t g vd ra vb s
  | .vstx t g vd ra vb => Sys2Proof.Machine.execVstx t g vd ra vb s
  | .vbcast t g vd ra => Sys2Proof.Machine.execVbcast t g vd ra s
  | .vmovs t g rd va rb => Sys2Proof.Machine.execVmovs t g rd va rb s
  | .vrsum t g rd va => Sys2Proof.Machine.execVrsum t g rd va s
  | .vrmax t g rd va => Sys2Proof.Machine.execVrmax t g rd va s
  | .vrisum t g rd va => Sys2Proof.Machine.execVrisum t g rd va s
  | .vperm t g vd va vb => Sys2Proof.Machine.execVperm t g vd va vb s
  | .vscan t g vd va => Sys2Proof.Machine.execVscan t g vd va s
  | .pcount t g rd pa => Sys2Proof.Machine.execPcount t g rd pa s
  | .vfroma t g vd rb => Sys2Proof.Machine.execVfroma t g vd rb s
  | .atov t g vd rb => Sys2Proof.Machine.execAtov t g vd rb s
  | .pand t g pd pa pb => Sys2Proof.Machine.execPand t g pd pa pb s
  | .por t g pd pa pb => Sys2Proof.Machine.execPor t g pd pa pb s
  | .pxor t g pd pa pb => Sys2Proof.Machine.execPxor t g pd pa pb s
  | .pnot t g pd pa => Sys2Proof.Machine.execPnot t g pd pa s
  | .pfroms t g pd ra => Sys2Proof.Machine.execPfroms t g pd ra s
  | .ptos t g rd pa => Sys2Proof.Machine.execPtos t g rd pa s
  | .pfirst t g pd pa => Sys2Proof.Machine.execPfirst t g pd pa s
  | .mxm t g grp minor tile ra d depthM1 spanM1 acc wt => Sys2Proof.Machine.execMxm t g grp minor tile ra d depthM1 spanM1 acc wt s
  | .azero t g tile => Sys2Proof.Machine.execAzero t g tile s
  | .aload t g grp tile ra => Sys2Proof.Machine.execAload t g grp tile ra s
  | .astore t g grp tile ra => Sys2Proof.Machine.execAstore t g grp tile ra s
  | .astn t g grp tile ra fmt block sr => Sys2Proof.Machine.execAstn t g grp tile ra fmt block sr s
  | .dld t g d ra => Sys2Proof.Machine.execDld t g d ra s
  | .dst t g d ra => Sys2Proof.Machine.execDst t g d ra s
  | .dinv t g d => Sys2Proof.Machine.execDinv t g d s
  | .gather t g grp d => Sys2Proof.Machine.execGather t g grp d s
  | .scatter t g grp d => Sys2Proof.Machine.execScatter t g grp d s
  | .segred t g grp d func => Sys2Proof.Machine.execSegred t g grp d func s
  | .combine t g grp d => Sys2Proof.Machine.execCombine t g grp d s
  | .scopy t g grp d => Sys2Proof.Machine.execScopy t g grp d s
  | .pfsched t g grp d => Sys2Proof.Machine.execPfsched t g grp d s
  | .shuf t g grp d => Sys2Proof.Machine.execShuf t g grp d s
  | .sample t g grp d => Sys2Proof.Machine.execSample t g grp d s
  | .dedup t g grp d => Sys2Proof.Machine.execDedup t g grp d s
  | .skey t g ra rb => Sys2Proof.Machine.execSkey t g ra rb s
  | .predict t g grp d => Sys2Proof.Machine.execPredict t g grp d s
  | .bmchk t g grp d => Sys2Proof.Machine.execBmchk t g grp d s
  | .bmexp t g grp d => Sys2Proof.Machine.execBmexp t g grp d s
  | .cvtnRegister t g vd va rc src dst sr => Sys2Proof.Machine.execCvtnRegister t g vd va rc src dst sr s
  | .cvtnMemory t g grp ra rb rc src dst block sr => Sys2Proof.Machine.execCvtnMemory t g grp ra rb rc src dst block sr s
  | .cvtwRegister t g vd va src dst => Sys2Proof.Machine.execCvtwRegister t g vd va src dst s
  | .cvtwMemory t g grp ra rb rc src dst block => Sys2Proof.Machine.execCvtwMemory t g grp ra rb rc src dst block s
  | .split t g vd va tail => Sys2Proof.Machine.execSplit t g vd va tail s
  | .join t g vd va vb => Sys2Proof.Machine.execJoin t g vd va vb s
  | .splitx t g vd va vb vc fringe => Sys2Proof.Machine.execSplitx t g vd va vb vc fringe s
  | .joinx t g vd va vb => Sys2Proof.Machine.execJoinx t g vd va vb s
  | .wait t g ra => Sys2Proof.Machine.execWait t g ra s
  | .signal t g ra rb => Sys2Proof.Machine.execSignal t g ra rb s
  | .signalAll t g ra => Sys2Proof.Machine.execSignalAll t g ra s
  | .arrive t g imm => Sys2Proof.Machine.execArrive t g imm s
  | .cwait t g grp atMost => Sys2Proof.Machine.execCwait t g grp atMost s
  | .mfence t g => Sys2Proof.Machine.execMfence t g s
  | .rkey t g ra rb => Sys2Proof.Machine.execRkey t g ra rb s
  | .rdk t g vd ra => Sys2Proof.Machine.execRdk t g vd ra s
  | .rinit t g ra => Sys2Proof.Machine.execRinit t g ra s
  | .rdr t g vd => Sys2Proof.Machine.execRdr t g vd s
  | .entry t g imm => Sys2Proof.Machine.execEntry t g imm s
  | .halt t g => Sys2Proof.Machine.execHalt t g s
  | .yield t g => Sys2Proof.Machine.execYield t g s
  | .rdinfo t g rd imm => Sys2Proof.Machine.execRdinfo t g rd imm s
  | .phase t g imm => Sys2Proof.Machine.execPhase t g imm s
  | .loss t g rd ra imm => Sys2Proof.Machine.execLoss t g rd ra imm s
  | .ifence t g => Sys2Proof.Machine.execIfence t g s
  | .nop t g => Sys2Proof.Machine.execNop t g s
  | .intakeWrite ctx offset data => Sys2Proof.Machine.execIntakeWrite ctx offset data s
  | .bar4Read off bytes detected => Sys2Proof.Machine.execBar4Read off bytes detected s
  | .bar4Write off data => Sys2Proof.Machine.execBar4Write off data s
  | .registerWrite place value => Sys2Proof.Machine.execRegisterWrite place value s
  | .tallyReset first countM1 => Sys2Proof.Machine.execTallyReset first countM1 s
  | .tallySnapshot tally => Sys2Proof.Machine.execTallySnapshot tally s
  | .handSetSignal tally value => Sys2Proof.Machine.execHandSetSignal tally value s
  | .handSetCount tally value => Sys2Proof.Machine.execHandSetCount tally value s
  | .checkSlotBind slot => Sys2Proof.Machine.execCheckSlotBind slot s
  | .checkSlotUnbind slot => Sys2Proof.Machine.execCheckSlotUnbind slot s
  | .portEnable port => Sys2Proof.Machine.execPortEnable port s
  | .portDisable port => Sys2Proof.Machine.execPortDisable port s
  | .portRetrain port => Sys2Proof.Machine.execPortRetrain port s
  | .hostCapWrite watts => Sys2Proof.Machine.execHostCapWrite watts s
  | .fixedRateWrite on => Sys2Proof.Machine.execFixedRateWrite on s
  | .translationInvalidate ctx sizeLog2 => Sys2Proof.Machine.execTranslationInvalidate ctx sizeLog2 s
  | .ingest slot => Sys2Proof.Machine.execIngest slot s
  | .trim slot => Sys2Proof.Machine.execTrim slot s
  | .clearFirst => Sys2Proof.Machine.execClearFirst s
  | .fenceRequest kind index => Sys2Proof.Machine.execFenceRequest kind index s
  | .bistRequest kind index => Sys2Proof.Machine.execBistRequest kind index s
  | .powerOn strap => Sys2Proof.Machine.execPowerOn strap s
  | .keeperImageVerify => Sys2Proof.Machine.execKeeperImageVerify s
  | .keeperFirmwareStart => Sys2Proof.Machine.execKeeperFirmwareStart s
  | .i3cDynamicAddressAssignment addr => Sys2Proof.Machine.execI3cDynamicAddressAssignment addr s
  | .conversionEnable => Sys2Proof.Machine.execConversionEnable s
  | .inrushChargeComplete => Sys2Proof.Machine.execInrushChargeComplete s
  | .pllLock => Sys2Proof.Machine.execPllLock s
  | .computeDomainsStart => Sys2Proof.Machine.execComputeDomainsStart s
  | .moduleInitComplete => Sys2Proof.Machine.execModuleInitComplete s
  | .headgateOpen => Sys2Proof.Machine.execHeadgateOpen s
  | .ftlMapLoaded => Sys2Proof.Machine.execFtlMapLoaded s
  | .perstAssert => Sys2Proof.Machine.execPerstAssert s
  | .perstDeassert => Sys2Proof.Machine.execPerstDeassert s
  | .hotReset => Sys2Proof.Machine.execHotReset s
  | .flr => Sys2Proof.Machine.execFlr s
  | .vmainUndervoltage mv ticks => Sys2Proof.Machine.execVmainUndervoltage mv ticks s
  | .vmainOvervoltage mv ticks => Sys2Proof.Machine.execVmainOvervoltage mv ticks s
  | .vmainReturn => Sys2Proof.Machine.execVmainReturn s
  | .vmainOvercurrentTrip mv ticks => Sys2Proof.Machine.execVmainOvercurrentTrip mv ticks s
  | .vauxUndervoltage mv ticks => Sys2Proof.Machine.execVauxUndervoltage mv ticks s
  | .vauxOvervoltage mv ticks => Sys2Proof.Machine.execVauxOvervoltage mv ticks s
  | .bothSuppliesLost => Sys2Proof.Machine.execBothSuppliesLost s
  | .wakeTrip => Sys2Proof.Machine.execWakeTrip s
  | .wakeTakesEffect => Sys2Proof.Machine.execWakeTakesEffect s
  | .ucieLaneFailure edge unit lanes => Sys2Proof.Machine.execUcieLaneFailure edge unit lanes s
  | .thermalSample readings => Sys2Proof.Machine.execThermalSample readings s
  | .pllLossOfLock row inst => Sys2Proof.Machine.execPllLossOfLock row inst s
  | .pllLockRetry row inst locked => Sys2Proof.Machine.execPllLockRetry row inst locked s
  | .pacerToken core late => Sys2Proof.Machine.execPacerToken core late s
  | .queueSpaceAcceptance ctx => Sys2Proof.Machine.execQueueSpaceAcceptance ctx s
  | .run ctx => Sys2Proof.Machine.execRun ctx s
  | .ordinalPlacement ctx hostSeq ordinal core => Sys2Proof.Machine.execOrdinalPlacement ctx hostSeq ordinal core s
  | .copy ctx => Sys2Proof.Machine.execCopy ctx s
  | .fence ctx => Sys2Proof.Machine.execFence ctx s
  | .querySequenceState ctx => Sys2Proof.Machine.execQuerySequenceState ctx s
  | .queryContextCounters ctx => Sys2Proof.Machine.execQueryContextCounters ctx s
  | .queryModuleIdentity ctx => Sys2Proof.Machine.execQueryModuleIdentity ctx s
  | .abort ctx => Sys2Proof.Machine.execAbort ctx s
  | .abortFinish ctx => Sys2Proof.Machine.execAbortFinish ctx s
  | .hotset ctx => Sys2Proof.Machine.execHotset ctx s
  | .migrate ctx => Sys2Proof.Machine.execMigrate ctx s
  | .tallyDump ctx => Sys2Proof.Machine.execTallyDump ctx s
  | .sealStep ctx => Sys2Proof.Machine.execSealStep ctx s
  | .replayRestoreReexecute ctx => Sys2Proof.Machine.execReplayRestoreReexecute ctx s
  | .replayRestoreOnly ctx => Sys2Proof.Machine.execReplayRestoreOnly ctx s
  | .replayCheckOnly ctx => Sys2Proof.Machine.execReplayCheckOnly ctx s
  | .parcelFinish ctx hostSeq => Sys2Proof.Machine.execParcelFinish ctx hostSeq s
  | .completionRecordWrite ctx => Sys2Proof.Machine.execCompletionRecordWrite ctx s
  | .ringConsumedWrite ctx value => Sys2Proof.Machine.execRingConsumedWrite ctx value s
  | .contextOpen ctx level irqOnError => Sys2Proof.Machine.execContextOpen ctx level irqOnError s
  | .contextReset ctx => Sys2Proof.Machine.execContextReset ctx s
  | .contextResetComplete ctx => Sys2Proof.Machine.execContextResetComplete ctx s
  | .intakeRewind ctx => Sys2Proof.Machine.execIntakeRewind ctx s
  | .faultRecordClear ctx => Sys2Proof.Machine.execFaultRecordClear ctx s
  | .ctxSnapshot ctx => Sys2Proof.Machine.execCtxSnapshot ctx s
  | .abandonedReply tag => Sys2Proof.Machine.execAbandonedReply tag s
  | .tagTimeout tag => Sys2Proof.Machine.execTagTimeout tag s
  | .atsInvalidationRequest addr size => Sys2Proof.Machine.execAtsInvalidationRequest addr size s
  | .getVersion port => Sys2Proof.Machine.execGetVersion port s
  | .getCapabilities port => Sys2Proof.Machine.execGetCapabilities port s
  | .negotiateAlgorithms port offers12 offers13 => Sys2Proof.Machine.execNegotiateAlgorithms port offers12 offers13 s
  | .getDigests port => Sys2Proof.Machine.execGetDigests port s
  | .getCertificate port => Sys2Proof.Machine.execGetCertificate port s
  | .challenge port nonce => Sys2Proof.Machine.execChallenge port nonce s
  | .getMeasurements port index signed => Sys2Proof.Machine.execGetMeasurements port index signed s
  | .unsupportedSpdmRequest port => Sys2Proof.Machine.execUnsupportedSpdmRequest port s
  | .mctpControlMessage port => Sys2Proof.Machine.execMctpControlMessage port s
  | .firmwareImageTransfer img => Sys2Proof.Machine.execFirmwareImageTransfer img s
  | .activateFirmware => Sys2Proof.Machine.execActivateFirmware s
  | .sidebandCap watts => Sys2Proof.Machine.execSidebandCap watts s
  | .sidebandDrowseRequest => Sys2Proof.Machine.execSidebandDrowseRequest s
  | .sidebandDeepRequest => Sys2Proof.Machine.execSidebandDeepRequest s
  | .sidebandWakeRequest => Sys2Proof.Machine.execSidebandWakeRequest s
  | .debugTokenMessage token keyDigest sigOk => Sys2Proof.Machine.execDebugTokenMessage token keyDigest sigOk s
  | .debugChallenge drawn => Sys2Proof.Machine.execDebugChallenge drawn s
  | .debugSubmit keyDigest sigOk => Sys2Proof.Machine.execDebugSubmit keyDigest sigOk s
  | .debugLock => Sys2Proof.Machine.execDebugLock s
  | .bypass => Sys2Proof.Machine.execBypass s
  | .idcode => Sys2Proof.Machine.execIdcode s
  | .samplePreload levels => Sys2Proof.Machine.execSamplePreload levels s
  | .extest levels => Sys2Proof.Machine.execExtest levels s
  | .drowseRequest => Sys2Proof.Machine.execDrowseRequest s
  | .deepRequest => Sys2Proof.Machine.execDeepRequest s
  | .drowseExit why => Sys2Proof.Machine.execDrowseExit why s
  | .dieReset die => Sys2Proof.Machine.execDieReset die s
  | .malformedInstruction t word => Sys2Proof.Machine.execMalformedInstruction t word s
  | .prefetchPositionStart op => Sys2Proof.Machine.execPrefetchPositionStart op s
  | .prefetchDeadline op position => Sys2Proof.Machine.execPrefetchDeadline op position s
  | .asyncInstructionFinish op => Sys2Proof.Machine.execAsyncInstructionFinish op s
  | .engineReadReply tag outcome => Sys2Proof.Machine.execEngineReadReply tag outcome s
  | .gatherDeadline op => Sys2Proof.Machine.execGatherDeadline op s
  | .taskSave core why => Sys2Proof.Machine.execTaskSave core why s
  | .taskRestore ctx hostSeq ordinal core => Sys2Proof.Machine.execTaskRestore ctx hostSeq ordinal core s
  | .waitApplied k => Sys2Proof.Machine.execWaitApplied k s
  | .signalApplied k => Sys2Proof.Machine.execSignalApplied k s
  | .signalAllApplied k => Sys2Proof.Machine.execSignalAllApplied k s
  | .grantWake k => Sys2Proof.Machine.execGrantWake k s
  | .holdWindowExpiry t => Sys2Proof.Machine.execHoldWindowExpiry t s
  | .waitPoolResend t => Sys2Proof.Machine.execWaitPoolResend t s
  | .leaseExpiry tally => Sys2Proof.Machine.execLeaseExpiry tally s
  | .arrivalBatch slot die => Sys2Proof.Machine.execArrivalBatch slot die s
  | .checkComplete port h group gen => Sys2Proof.Machine.execCheckComplete port h group gen s
  | .checkRelease port h group gen => Sys2Proof.Machine.execCheckRelease port h group gen s
  | .checkClose port h group gen => Sys2Proof.Machine.execCheckClose port h group gen s
  | .checkClosed port h group gen => Sys2Proof.Machine.execCheckClosed port h group gen s
  | .checkRelease2 port h group gen => Sys2Proof.Machine.execCheckRelease2 port h group gen s
  | .checkBreak port h group gen => Sys2Proof.Machine.execCheckBreak port h group gen s
  | .signalDetect port => Sys2Proof.Machine.execSignalDetect port s
  | .trainComplete port lanes => Sys2Proof.Machine.execTrainComplete port lanes s
  | .portStateTimeout port => Sys2Proof.Machine.execPortStateTimeout port s
  | .alignComplete port => Sys2Proof.Machine.execAlignComplete port s
  | .lossOfSignal port => Sys2Proof.Machine.execLossOfSignal port s
  | .capability port versions half addr peerPort => Sys2Proof.Machine.execCapability port versions half addr peerPort s
  | .idle port h => Sys2Proof.Machine.execIdle port h s
  | .embeddingRequest port h record row spanLog2 => Sys2Proof.Machine.execEmbeddingRequest port h record row spanLog2 s
  | .linkReply port h status data => Sys2Proof.Machine.execLinkReply port h status data s
  | .contribution port h record row rank values => Sys2Proof.Machine.execContribution port h record row rank values s
  | .directWrite port h record row offset data => Sys2Proof.Machine.execDirectWrite port h record row offset data s
  | .withdrawal port h record rank => Sys2Proof.Machine.execWithdrawal port h record rank s
  | .paceNotice port h group level duration => Sys2Proof.Machine.execPaceNotice port h group level duration s
  | .paceNoticeExpiry slot => Sys2Proof.Machine.execPaceNoticeExpiry slot s
  | .ack port seq => Sys2Proof.Machine.execAck port seq s
  | .nak port seq => Sys2Proof.Machine.execNak port seq s
  | .credit port vc count => Sys2Proof.Machine.execCredit port vc count s
  | .ackTimer port => Sys2Proof.Machine.execAckTimer port s
  | .linkReplayTimeout port => Sys2Proof.Machine.execLinkReplayTimeout port s
  | .bundleResume dim minus => Sys2Proof.Machine.execBundleResume dim minus s
  | .estimateInterval die => Sys2Proof.Machine.execEstimateInterval die s
  | .governorInterval => Sys2Proof.Machine.execGovernorInterval s
  | .estimatorTrim measured => Sys2Proof.Machine.execEstimatorTrim measured s
  | .weirInterval die => Sys2Proof.Machine.execWeirInterval die s
  | .droopWarning die quadrant => Sys2Proof.Machine.execDroopWarning die quadrant s
  | .droopRecoveryHoldExpiry die quadrant depth duration => Sys2Proof.Machine.execDroopRecoveryHoldExpiry die quadrant depth duration s
  | .droopReset die quadrant => Sys2Proof.Machine.execDroopReset die quadrant s
  | .paceNoticeResend die => Sys2Proof.Machine.execPaceNoticeResend die s
  | .invalidationComplete => Sys2Proof.Machine.execInvalidationComplete s
  | .ingestComplete slot detected => Sys2Proof.Machine.execIngestComplete slot detected s
  | .wearLevelling wear => Sys2Proof.Machine.execWearLevelling wear s
  | .readDisturbRelocation channel block => Sys2Proof.Machine.execReadDisturbRelocation channel block s
  | .retentionRefresh channel block => Sys2Proof.Machine.execRetentionRefresh channel block s
  | .powerOnScan blocks => Sys2Proof.Machine.execPowerOnScan blocks s
  | .badBlockRetirement channel block => Sys2Proof.Machine.execBadBlockRetirement channel block s
  | .mapRebuildComplete => Sys2Proof.Machine.execMapRebuildComplete s
  | .install ctx => Sys2Proof.Machine.execInstall ctx s
  | .evict ctx => Sys2Proof.Machine.execEvict ctx s
  | .move ctx => Sys2Proof.Machine.execMove ctx s
  | .moveCommit move => Sys2Proof.Machine.execMoveCommit move s
  | .moveDrainComplete move => Sys2Proof.Machine.execMoveDrainComplete move s
  | .firstTouchCopyDone frame detected => Sys2Proof.Machine.execFirstTouchCopyDone frame detected s
  | .automaticReplayRestore ctx => Sys2Proof.Machine.execAutomaticReplayRestore ctx s
  | .automaticReplayReexecute ctx => Sys2Proof.Machine.execAutomaticReplayReexecute ctx s
  | .automaticReplayResume ctx => Sys2Proof.Machine.execAutomaticReplayResume ctx s
  | .spillLogDrain => Sys2Proof.Machine.execSpillLogDrain s
  | .bistComplete found => Sys2Proof.Machine.execBistComplete found s
  | .moduleStep => Sys2Proof.Machine.execModuleStep s
  | .vauxReturn => Sys2Proof.Machine.execVauxReturn s
  | .drowseEntryComplete => Sys2Proof.Machine.execDrowseEntryComplete s
  | .dieResetComplete die => Sys2Proof.Machine.execDieResetComplete die s
  | .flitCrcFailure port uncorrectable => Sys2Proof.Machine.execFlitCrcFailure port uncorrectable s

end Sys2Proof.Machine
end

