-- ==== Sys2Proof/Machine/Step.lean ====
section
/-! DEFINITION. One step: the command at the front of the queue. -/

namespace Sys2Proof.Machine

open Sys2Proof

/-- What happens while no command waits: stored data may go bad, an ATS invalidation that has waited is completed, every core's
issue round goes by, the reset of a range of tallies goes on, the keeper is done with a hand set, the links' lanes meet symbol
errors, and a message of the module to itself is delivered (log entries 1, 13, 19, 20, 50 and 53). -/
def idle (s : State) : State := deliverOwn (linkNoise (settleAts (announceHeld (nextReset (passRounds (strike s))))))

/-- Takes the command at the front of the queue and runs it with the queue's rest. On an empty queue the module
does nothing that a row of the table names. -/
def step (s : State) : Host.Outcome State Fault Refusal :=
  match s.pending with
  | [] => .next (idle s)
  | c :: r => exec c { s with pending := r }

/-- The command that a word spells by the table's bits, put at the front of the queue. The table gives no row any
bits, so no word spells one. -/
def State.withFetchWord (s : State) (nbits w : Nat) : State :=
  match decodeTableWord nbits w with
  | some c => { s with pending := c :: s.pending }
  | none => s

end Sys2Proof.Machine
end

