-- ==== Sys2Proof/Safety.lean ====
section
/-! DEFINITION. The terms in which claims about the module are stated: which task can issue, what an instruction of a
task leaves alone, and the form the memories keep. -/

namespace Sys2Proof.Machine

open Sys2Proof

/-! ### The form of the memories -/

/-- Every memory of the module is in canonical form: the four tiers and every core's cistern. -/
def State.memoriesOk (s : State) : Bool := s.mem.wf && s.cores.all fun e => Memory.wf e.2.cistern

/-- One byte of a tier. -/
def State.byteAt (s : State) (t : Tier) (a : Nat) : Byte := Memory.byte (s.mem.tier t) a

/-- One byte of a core's cistern. -/
def State.cisByte (s : State) (core a : Nat) : Byte := Memory.byte (s.core core).cistern a

/-- No byte of a tier and no byte of a cistern differs. -/
def SameBytes (s s' : State) : Prop :=
  (∀ t a, s'.byteAt t a = s.byteAt t a) ∧ ∀ c a, s'.cisByte c a = s.cisByte c a

/-! ### Tasks -/

/-- Slot w holds task t, which has executed ENTRY and can issue its next instruction (R89, R97). -/
def Ready (s : State) (w : Who) (t : Task) : Prop :=
  s.task w = some t ∧ t.entered = true ∧ canIssue s w t = true

/-- Every other slot keeps its task, and nothing outside the task slots changes but what an issue leaves with its core: the slot
has issued most recently, a round of the core is over (R89), and a single step of the debug window or a token of the pacer is used
up (R42, R118). No byte of memory changes, and no register of the module. -/
def OnlyTask (s s' : State) (w : Who) : Prop :=
  (∀ x : Who, Who.key x ≠ Who.key w → s'.task x = s.task x) ∧ { s' with tasks := s.tasks } = issued w s

/-- Slot w now holds t', and nothing else changed. -/
def TaskBecomes (s s' : State) (w : Who) (t' : Task) : Prop := s'.task w = some t' ∧ OnlyTask s s' w

/-- The outcome is a next state in which slot w holds a task as `p` says, and nothing else changed. -/
def RunsTask (o : Out) (s : State) (w : Who) (p : Task → Prop) : Prop :=
  ∃ s' t', o = .next s' ∧ TaskBecomes s s' w t' ∧ p t'

/-- The task has moved to its next instruction with scalar register rd at v; every other register, predicate, tile,
descriptor and counter of it is unchanged. -/
def WritesScalar (t : Task) (rd : Fin 64) (v : Word) (t' : Task) : Prop :=
  t'.sreg rd = v ∧ (∀ r, r ≠ rd → t'.sreg r = t.sreg r)
    ∧ { t' with sregs := t.sregs } = { t with pc := t.pc + 8, status := .ready }

/-- As WritesScalar, for the lanes of vd that the guard admits: lane l takes f l. -/
def WritesLanes (t : Task) (g : Guard) (vd : Fin 32) (f : Nat → W32) (t' : Task) : Prop :=
  (∀ l, t'.lane vd l = if t.guardBit g l then f l else t.lane vd l) ∧ (∀ r l, r ≠ vd → t'.lane r l = t.lane r l)
    ∧ { t' with vregs := t.vregs } = { t with pc := t.pc + 8, status := .ready }

/-- As WritesScalar, for the bits of predicate pd that the guard admits; a write of p0 changes nothing, and bits from lane L
upward stay zero. -/
def WritesPred (t : Task) (g : Guard) (pd : Fin 8) (f : Nat → Bool) (t' : Task) : Prop :=
  (∀ l, l < t.lanes → (t'.pred pd).getLsbD l = if pd ≠ 0 ∧ t.guardBit g l = true then f l else (t.pred pd).getLsbD l)
    ∧ (∀ l, t.lanes ≤ l → (t'.pred pd).getLsbD l = false) ∧ (∀ p, p ≠ pd → t'.pred p = t.pred p)
    ∧ { t' with preds := t.preds } = { t with pc := t.pc + 8, status := .ready }

/-- The task has moved to the program counter given; nothing else of it changed. -/
def GoesTo (t : Task) (pc : Word) (t' : Task) : Prop := t' = { t with pc := pc, status := .ready }

/-- An instruction that counts conversions: slot w holds t', and the counts c go to CT_SAT and CT_NONFINITE of the
task's context, which stop at 2^48 - 1; the first non-finite count of a parcel raises one numeric event, class 3 of the
spill log (R238, R239). With nothing to count nothing else changes; otherwise nothing outside the task slots, the
context, the spill log and the timer and free values that an event reads. -/
def CountsTask (s s' : State) (w : Who) (t t' : Task) (c : Counts) : Prop :=
  s'.task w = some t' ∧ (∀ x : Who, Who.key x ≠ Who.key w → s'.task x = s.task x)
    ∧ { s' with tasks := s.tasks, ctxs := s.ctxs, log := s.log, dies := s.dies, freeCount := s.freeCount } = issued w s
    ∧ (∀ j, j ≠ t.ctx → s'.ctx j = s.ctx j)
    ∧ (c.sat = 0 → c.nonfin = 0 → OnlyTask s s' w)
    ∧ (c.sat ≠ 0 ∨ c.nonfin ≠ 0 → (s'.ctx t.ctx).regs = { (s.ctx t.ctx).regs with
        sat := min (2 ^ 48 - 1) ((s.ctx t.ctx).regs.sat + c.sat)
        nonfinite := min (2 ^ 48 - 1) ((s.ctx t.ctx).regs.nonfinite + c.nonfin) })
    ∧ (c.nonfin ≠ 0 → s'.log.classes.get 0 3 =
        if (match s.parcel t.ctx t.hostSeq with | some p => !p.nonfinite | none => false)
          then min (2 ^ 48 - 1) (s.log.classes.get 0 3 + 1) else s.log.classes.get 0 3)

/-- The outcome is a next state in which slot w holds a task as `p` says and c has been counted. -/
def RunsCounted (o : Out) (s : State) (w : Who) (t : Task) (c : Counts) (p : Task → Prop) : Prop :=
  ∃ s' t', o = .next s' ∧ CountsTask s s' w t t' c ∧ p t'

/-- The parcel of task t ends for a reason, at the instruction in slot w, and no effect of the instruction stands. One that needs a
missing part of the flash map stays at issue (R315). -/
def EndsParcel (o : Out) (s : State) (w : Who) (t : Task) (b : Bad) : Prop :=
  o = .next (if b = .wait then s else failParcel t.ctx t.hostSeq (some w) t.pc (w.core / 64) b (issued w s))

/-- A parcel's start fails for a reason: it ends, and the rest is as its start found it. One that needs a missing part of the flash
map waits (R315). -/
def StopsAtStart (o : Out) (s started : State) (c : Nat) (p : Parcel) (b : Bad) : Prop :=
  o = .next (if b = .wait then s else parcelFault c p b started)

/-! ### Stores -/

/-- Unfinished instructions but for what a write leaves with them: the mark of a write to what they use, the standing of their
results in a tile, and what a SAMPLE may still read of what was there before (R120, R203). -/
def unspoiled (l : List AsyncOp) : List AsyncOp :=
  l.map fun o => { o with spoiled := false, cells := [], reach := [], before := [] }

/-- A task but for its accumulator tiles. -/
def Task.untiled (t : Task) : Task := { t with tiles := [] }

/-- Slot w holds t' and every other slot the task it held, but for tiles with the result of a finished MXM that no CWAIT has
covered, which a write to its operands makes undefined (R203). -/
def MovesOn (s s' : State) (w : Who) (t' : Task) : Prop :=
  ∀ x : Who, let was := if Who.key x = Who.key w then some t' else s.task x
    (s'.task x).map Task.untiled = was.map Task.untiled
      ∧ ((∀ o ∈ s.loose, Who.key o.who ≠ Who.key x) → s'.task x = was)

/-- A write of n bytes at a takes the errors of its source that it covers whole, and no other; granules hold g bytes (R316). -/
def ClearsErrs (s s' : State) (source g a n : Nat) : Prop :=
  s'.errs.Sublist s.errs ∧ ∀ e ∈ s.errs,
    (e ∉ s'.errs ↔ e.source = source ∧ a ≤ e.place * g ∧ e.place * g + g ≤ a + n)

/-- The frame has joined those that the current step of context c writes (R424); no other context, and nothing else of this one,
has changed. -/
def NotesFrame (s s' : State) (c : Nat) (t : Tier) (frame : Nat) : Prop :=
  (∀ j, j ≠ c → s'.ctx j = s.ctx j)
    ∧ s'.ctx c = if (t, frame) ∈ (s.ctx c).sealed.wrote then s.ctx c
        else { s.ctx c with sealed := { (s.ctx c).sealed with wrote := (s.ctx c).sealed.wrote ++ [(t, frame)] } }

/-- The bytes bs stand at a of tier t; every other byte of every tier and every byte of every cistern is as before. -/
def WritesTier (s s' : State) (t : Tier) (a : Nat) (bs : List Byte) : Prop :=
  (∀ i, i < bs.length → s'.byteAt t (a + i) = bs.getD i 0)
    ∧ (∀ u k, u ≠ t ∨ k < a ∨ a + bs.length ≤ k → s'.byteAt u k = s.byteAt u k)
    ∧ ∀ c k, s'.cisByte c k = s.cisByte c k

/-- Slot w moves on, the bytes bs stand at a of tier t, and nothing else changes but what goes with a write: errors in what it
covers are gone, its page is noted for its parcel (R88) and for its context's step (R424), and what reads a byte of it is marked,
since its result is then undefined (R120, R203, R266). -/
def StoresToTier (s s' : State) (w : Who) (t' : Task) (t : Tier) (a : Nat) (bs : List Byte) : Prop :=
  MovesOn s s' w t' ∧ WritesTier s s' t a bs
    ∧ { s' with tasks := s.tasks, mem := s.mem, ops := s.ops, loose := s.loose, errs := s.errs, touched := s.touched,
                ctxs := s.ctxs, freeCount := s.freeCount } = issued w s
    ∧ unspoiled s'.ops = unspoiled s.ops ∧ s'.loose.Sublist s.loose ∧ NotesFrame s s' t'.ctx t (a / 65536)
    ∧ ClearsErrs s s' (tierSource t) (tierGranule t) a bs.length
    ∧ s'.touched = (if t = .host ∨ ⟨t'.ctx, t'.hostSeq, t, a / 65536⟩ ∈ s.touched then s.touched
        else s.touched ++ [⟨t'.ctx, t'.hostSeq, t, a / 65536⟩])

/-- From s the module comes to what f says, with the bytes bs of context c at bus address a of the host tier, and nothing else
changes but what goes with a write: errors in what it covers are gone, what reads a byte of it is marked, and the step of the
context notes what it writes. -/
def WritesHost (s f s' : State) (c a : Nat) (bs : List Byte) : Prop :=
  WritesTier s s' .host a bs ∧ unspoiled s'.ops = unspoiled s.ops ∧ s'.loose.Sublist s.loose
    ∧ (∀ x : Who, (s'.task x).map Task.untiled = (s.task x).map Task.untiled)
    ∧ ClearsErrs s s' (tierSource .host) (tierGranule .host) a bs.length
    ∧ (∀ j, j ≠ c → s'.ctx j = f.ctx j)
    ∧ (∃ l : List (Tier × Nat), (∀ e ∈ l, e.1 = Tier.host)
      ∧ s'.ctx c = { f.ctx c with sealed := { (f.ctx c).sealed with wrote := (f.ctx c).sealed.wrote ++ l } })
    ∧ { s' with tasks := s.tasks, mem := s.mem, ops := s.ops, loose := s.loose, errs := s.errs, ctxs := f.ctxs,
                freeCount := s.freeCount } = f

/-- Beside the registers of the memory tiers and a write to the flash, nothing has changed but what goes with one. -/
def OnlyFlash (s s' : State) : Prop :=
  unspoiled s'.ops = unspoiled s.ops ∧ s'.loose.Sublist s.loose ∧ s'.errs.Sublist s.errs
    ∧ (∀ x : Who, (s'.task x).map Task.untiled = (s.task x).map Task.untiled)
    ∧ { s' with mt := s.mt, tasks := s.tasks, mem := s.mem, ops := s.ops, loose := s.loose, errs := s.errs,
                freeCount := s.freeCount } = s

/-- What a write to a core's cistern does beside its bytes: errors in what it covers are gone, and what reads a byte of it is
marked. -/
def CisternMarks (s s' : State) (core : Nat) : Prop :=
  s'.loose.Sublist s.loose ∧ s'.errs.Sublist s.errs ∧ ∀ e ∈ s.errs, e ∉ s'.errs → e.source = 5 ∧ e.unit = core

/-- Slot w moves on with task t', the bytes of its core's cistern read as `f` says, and nothing else changes but errors that
the write covers and the marks of what reads a byte of it. -/
def StoresToCistern (s s' : State) (w : Who) (t' : Task) (f : Nat → Byte) : Prop :=
  MovesOn s s' w t'
    ∧ (∀ k, s'.cisByte w.core k = f k) ∧ (∀ c, c ≠ w.core → s'.core c = s.core c)
    ∧ { s'.core w.core with cistern := [] } = { (issued w s).core w.core with cistern := [] }
    ∧ { s' with tasks := s.tasks, cores := s.cores, ops := s.ops, loose := s.loose, errs := s.errs,
                freeCount := s.freeCount } = s
    ∧ unspoiled s'.ops = unspoiled s.ops ∧ CisternMarks s s' w.core

/-- The cistern bytes once bs stands at a. -/
def bytesOver (f : Nat → Byte) (a : Nat) (bs : List Byte) : Nat → Byte :=
  fun k => if a ≤ k ∧ k < a + bs.length then bs.getD (k - a) 0 else f k

/-- A parcel that has ended with OWNER_LOST, unless another failure was met first (R78, R333). -/
def Parcel.ownerLost (p : Parcel) : Parcel := { p with
  failure := some (p.failure.getD 7), unplaced := [], running := 0, address := if p.failure.isSome then p.address else 0 }

/-- The parcels named, by context and host sequence, have ended with OWNER_LOST, and no task of them is left on a core. -/
def LoseOwner (s s' : State) (l : List (Nat × W32)) : Prop :=
  ∀ e ∈ l, s'.parcel e.1 e.2 = (s.parcel e.1 e.2).map Parcel.ownerLost
    ∧ ∀ x t, s'.task x = some t → ¬ (t.ctx = e.1 ∧ t.hostSeq = e.2)

/-! ### Asynchronous instructions (R90) -/

/-- The record of an asynchronous instruction of slot w is the one that joined the unfinished ones. -/
def Accepts (s s' : State) (w : Who) (t : Task) (grp : Fin 8) (name : String) : Prop :=
  s'.nextOp = s.nextOp + 1 ∧ ∃ old op, s'.ops = old ++ [op] ∧ unspoiled old = unspoiled s.ops ∧ op.id = s.nextOp
    ∧ op.who = w ∧ op.ctx = t.ctx ∧ op.hostSeq = t.hostSeq ∧ op.group = grp.val ∧ op.name = name

/-- Every other slot keeps its task. -/
def OthersKept (s s' : State) (w : Who) : Prop := ∀ x : Who, Who.key x ≠ Who.key w → s'.task x = s.task x

/-- Every other core keeps its cistern. -/
def OtherCisterns (s s' : State) (w : Who) : Prop := ∀ c k, c ≠ w.core → s'.cisByte c k = s.cisByte c k

/-- The counter of one completion group has gone up by one; the others stand. -/
def JoinsGroup (t t' : Task) (grp : Fin 8) : Prop :=
  t'.groups.get 0 grp.val = t.groups.get 0 grp.val + 1 ∧ ∀ k, k ≠ grp.val → t'.groups.get 0 k = t.groups.get 0 k

/-- An asynchronous instruction of slot w has issued: its record is the last of the unfinished ones, its group's counter has gone up
by one, and its task stands at the next instruction (R90). -/
def Issues (s s' : State) (w : Who) (t : Task) (grp : Fin 8) (name : String) : Prop :=
  s'.nextOp = s.nextOp + 1
    ∧ (∃ old op, s'.ops = old ++ [op] ∧ old.map (·.id) = s.ops.map (·.id) ∧ op.id = s.nextOp ∧ op.who = w ∧ op.ctx = t.ctx
        ∧ op.hostSeq = t.hostSeq ∧ op.group = grp.val ∧ op.name = name)
    ∧ ∃ t', s'.task w = some t' ∧ JoinsGroup t t' grp ∧ t'.pc = t.pc + 8

/-- The bytes bs stand at a of the core's cistern; every other byte of every cistern and every byte of the tiers is as before. -/
def WritesCistern (s s' : State) (core a : Nat) (bs : List Byte) : Prop :=
  (∀ k, s'.cisByte core k = bytesOver (s.cisByte core) a bs k) ∧ (∀ c k, c ≠ core → s'.cisByte c k = s.cisByte c k)
    ∧ ∀ u k, s'.byteAt u k = s.byteAt u k

/-- A read of n bytes at device address a finds them together in the near tier at b, and they pass their check (R102, R316). -/
def ReadsNear (s : State) (ctx : Nat) (tiers : List Tier) (a n b : Nat) : Prop :=
  range s ctx (Use.of 0 tiers) a n = .ok [(.near, b, n)] ∧ checkStore s a .near b n = .ok ()

/-- A write of n bytes at device address a leads to the near tier at b, in a frame that waits for no first-touch copy (R102, R437). -/
def WritesNear (s : State) (ctx : Nat) (tiers : List Tier) (a n b : Nat) : Prop :=
  range s ctx (Use.of 1 tiers) a n = .ok [(.near, b, n)] ∧ rangeDown s .near b n = none
    ∧ uncopiedOwner s .near (b / 65536) = none

/-- Bytes of the near tier. -/
def State.near (s : State) (b n : Nat) : List Byte := (List.range n).map fun i => s.byteAt .near (b + i)

/-- Elements of the tile read as `f` says; those of the other tiles are as before. -/
def TileReads (t t' : Task) (tile : Fin 8) (f : Nat → Nat → W32) : Prop :=
  (∀ r c, r < 16 → c < 256 → t'.elem tile.val r c = f r c)
    ∧ ∀ a r c, a ≠ tile.val → r < 16 → c < 256 → t'.elem a r c = t.elem a r c

/-- Lanes that the guard admits and that name a cistern address of the access they make, in the footprint and aligned. -/
def lanesReach (t : Task) (g : Guard) (addr : Nat → Nat) : Prop :=
  ∀ l, t.guardBit g l = true → addr l + 4 ≤ t.footprint ∧ addr l % 4 = 0

/-- Lanes that the guard admits and that satisfy a test. -/
def admitted (t : Task) (g : Guard) (p : Nat → Bool) : Nat :=
  (List.range t.lanes).countP fun l => t.guardBit g l && p l

/-- Slot and guard of an instruction that bit 0 of its guard predicate guards (R93): the scalar, branch and FP32
instructions, descriptor moves, sync and system instructions that carry no further condition on their immediate. -/
def bit0Guarded : Instr → Option (Who × Guard)
  | .add w g _ _ _ | .sub w g _ _ _ | .mul w g _ _ _ | .mulh w g _ _ _ | .and w g _ _ _ | .or w g _ _ _
  | .xor w g _ _ _ | .shl w g _ _ _ | .shr w g _ _ _ | .sra w g _ _ _ | .min w g _ _ _ | .max w g _ _ _
  | .slt w g _ _ _ | .sltu w g _ _ _ | .seq w g _ _ _ | .popc w g _ _ | .addi w g _ _ _ | .subi w g _ _ _
  | .muli w g _ _ _ | .mulhi w g _ _ _ | .andi w g _ _ _ | .ori w g _ _ _ | .xori w g _ _ _ | .shli w g _ _ _
  | .shri w g _ _ _ | .srai w g _ _ _ | .mini w g _ _ _ | .maxi w g _ _ _ | .slti w g _ _ _ | .sltui w g _ _ _
  | .seqi w g _ _ _ | .movh w g _ _ | .ld8 w g _ _ _ | .ld16 w g _ _ _ | .ld32 w g _ _ _ | .ld64 w g _ _ _
  | .st8 w g _ _ _ | .st16 w g _ _ _ | .st32 w g _ _ _ | .st64 w g _ _ _ | .cld8 w g _ _ _ | .cld16 w g _ _ _
  | .cld32 w g _ _ _ | .cld64 w g _ _ _ | .cst8 w g _ _ _ | .cst16 w g _ _ _ | .cst32 w g _ _ _
  | .cst64 w g _ _ _ | .beq w g _ _ _ | .bne w g _ _ _ | .blt w g _ _ _ | .bge w g _ _ _ | .bltu w g _ _ _
  | .bgeu w g _ _ _ | .jal w g _ _ | .jr w g _ _ | .fadd w g _ _ _ | .fsub w g _ _ _ | .fmul w g _ _ _
  | .ffma w g _ _ _ _ | .fmin w g _ _ _ | .fmax w g _ _ _ | .fcvtif w g _ _ | .fcvtfi w g _ _ | .dld w g _ _
  | .dst w g _ _ | .dinv w g _ | .wait w g _ | .mfence w g | .halt w g | .yield w g
  | .ifence w g | .nop w g => some (w, g)
  | _ => none

/-! ### The host -/

/-- The module is active, its host link is up and no earlier access is held: an access of the host takes effect (R57, R418). -/
def HostReady (s : State) : Prop := s.active = true ∧ s.hg.linkUp = true ∧ s.hg.held = []

/-- A host access that Drowse holds until the module has left it (R418). -/
def State.heldBack (s : State) (i : Instr) : State := { s with
  hg := { s.hg with held := s.hg.held ++ [i] }
  power := { s.power with phase := if s.power.phase = .drowse then .leavingDrowse else s.power.phase } }

/-- The module has given an answer on its sideband or over DOE, and nothing else of it has changed. -/
def State.answered (s : State) (a : Answer) : State := { s with keeper := { s.keeper with answers := s.keeper.answers ++ [a] } }

/-- The fence list stands: fences that waited for a core to be emptied may have joined it (R449, R450). -/
def FencesLast (s s' : State) : Prop :=
  (∀ e ∈ s.keeper.fenceList, e ∈ s'.keeper.fenceList)
    ∧ (s.fence.waiting = [] → s'.keeper.fenceList = s.keeper.fenceList)

/-! ### Links -/

/-- The next flits of a port in order: the port is Active, the header carries the number it expects and R358 accepts
it. `level2` says that its kind is marked level 2. -/
def InOrder (s : State) (port : Nat) (h : FlitHead) (level2 : Bool) : Prop :=
  s.active = true ∧ (s.port port).state = .active ∧ h.seq = (s.port port).rxNext ∧ headOk (s.port port) h level2 = true

/-- The command brings the last flits of a message of n flits on its channel: class and vc (R357, R363). -/
def Brings (s : State) (port : Nat) (h : FlitHead) (cls n : Nat) : Prop :=
  n ≤ (s.port port).got.get 0 (2 * cls + if h.vc then 1 else 0) + h.count

/-- A command that brings flits of a sequenced message: its port, its head, its class, whether its kind is marked level 2, and
its payload. -/
def takesMessage : Instr → Option (Nat × FlitHead × Nat × Bool × Payload)
  | .checkComplete p h g n => some (p, h, 3, false, .check g n 0)
  | .checkRelease p h g n => some (p, h, 3, false, .check g n 1)
  | .checkClose p h g n => some (p, h, 3, false, .check g n 2)
  | .checkClosed p h g n => some (p, h, 3, false, .check g n 3)
  | .checkRelease2 p h g n => some (p, h, 3, false, .check g n 4)
  | .checkBreak p h g n => some (p, h, 3, false, .check g n 5)
  | .paceNotice p h g level duration => some (p, h, 3, true, .pace g level duration)
  | .embeddingRequest p h record row span => some (p, h, 0, false, .request record row span)
  | .linkReply p h status data => some (p, h, 1, false, .reply status data)
  | .contribution p h record row rank values => some (p, h, 2, false, .contribution record row rank values)
  | .directWrite p h record row off data => some (p, h, 2, false, .directWrite record row off data)
  | .withdrawal p h record rank => some (p, h, 2, false, .withdrawal record rank)
  | _ => none

/-- The flits that a port holds to be sent or acknowledged. -/
def Port.flits (x : Port) : List Flit := x.replay.map (fun e => e.2.1) ++ x.waiting

/-- A port has been given a check flit of a wave, for the group, context and generation of a slot, to its peer (R340, R368). -/
def SendsCheck (s s' : State) (q : Nat) (c : CheckSlot) (wave : Nat) : Prop :=
  let mine := fun (f : Flit) => decide (f.cls = 3 ∧ f.dst = (s.port q).peerAddr ∧ f.context = c.ctx.toNat
    ∧ f.payload = .check c.group (BitVec.ofNat 32 c.generation) (BitVec.ofNat 3 wave))
  (s.port q).flits.countP mine < (s'.port q).flits.countP mine

end Sys2Proof.Machine
end

