-- ==== Sys2Proof/Certificates/Slice0/Obligations.lean ====
section
/-! DEFINITION. What is claimed of the model, one definition for each claim. -/

open Sys2Proof Sys2Proof.Machine

/-! ### Scalar instructions (04_selod_isa.md) -/

/-- R101, R94 and Table 4.7: each scalar integer instruction whose guard acts writes its result to rd, and nothing else of the
module changes: on registers, with the sign-extended immediate for rb, and MOVH and POPC. -/
def Obligations.ScalarIntegerResults : Prop :=
  (∀ op ∈ ([(.add, fun a b => a + b), (.sub, fun a b => a - b), (.mul, fun a b => a * b),
      (.mulh, fun a b => BitVec.ofInt 64 (a.toInt * b.toInt / 2 ^ 64)), (.and, fun a b => a &&& b),
      (.or, fun a b => a ||| b), (.xor, fun a b => a ^^^ b), (.shl, fun a b => a <<< (b.toNat % 64)),
      (.shr, fun a b => a >>> (b.toNat % 64)), (.sra, fun a b => a.sshiftRight (b.toNat % 64)),
      (.min, fun a b => if a.toInt < b.toInt then a else b), (.max, fun a b => if a.toInt < b.toInt then b else a),
      (.slt, fun a b => if a.toInt < b.toInt then 1 else 0), (.sltu, fun a b => if a.toNat < b.toNat then 1 else 0),
      (.seq, fun a b => if a = b then 1 else 0)] :
      List ((Who → Guard → Fin 64 → Fin 64 → Fin 64 → Instr) × (Word → Word → Word))),
    ∀ (s : State) (w : Who) (t : Task) (g : Guard) (rd ra rb : Fin 64), Ready s w t → t.acts g = true →
      RunsTask (exec (op.1 w g rd ra rb) s) s w (WritesScalar t rd (op.2 (t.sreg ra) (t.sreg rb))))
  ∧ (∀ op ∈ ([(.addi, fun a b => a + b), (.subi, fun a b => a - b), (.muli, fun a b => a * b),
      (.mulhi, fun a b => BitVec.ofInt 64 (a.toInt * b.toInt / 2 ^ 64)), (.andi, fun a b => a &&& b),
      (.ori, fun a b => a ||| b), (.xori, fun a b => a ^^^ b), (.shli, fun a b => a <<< (b.toNat % 64)),
      (.shri, fun a b => a >>> (b.toNat % 64)), (.srai, fun a b => a.sshiftRight (b.toNat % 64)),
      (.mini, fun a b => if a.toInt < b.toInt then a else b), (.maxi, fun a b => if a.toInt < b.toInt then b else a),
      (.slti, fun a b => if a.toInt < b.toInt then 1 else 0), (.sltui, fun a b => if a.toNat < b.toNat then 1 else 0),
      (.seqi, fun a b => if a = b then 1 else 0)] :
      List ((Who → Guard → Fin 64 → Fin 64 → W32 → Instr) × (Word → Word → Word))),
    ∀ (s : State) (w : Who) (t : Task) (g : Guard) (rd ra : Fin 64) (imm : W32), Ready s w t → t.acts g = true →
      RunsTask (exec (op.1 w g rd ra imm) s) s w (WritesScalar t rd (op.2 (t.sreg ra) (imm.signExtend 64))))
  ∧ ∀ (s : State) (w : Who) (t : Task) (g : Guard) (rd ra : Fin 64) (imm : W32), Ready s w t → t.acts g = true →
      RunsTask (exec (.movh w g rd imm) s) s w (WritesScalar t rd (imm ++ (t.sreg rd).truncate 32))
      ∧ RunsTask (exec (.popc w g rd ra) s) s w
          (WritesScalar t rd (BitVec.ofNat 64 ((List.range 64).countP fun i => (t.sreg ra).getLsbD i)))
/-- Table 4.7 and Table 4.5: a branch whose guard acts goes to 8 × offset from itself where its comparison holds and to
the next instruction where it does not; JAL links and jumps; JR goes to ra + imm. -/
def Obligations.BranchesGoToTheirTargets : Prop :=
  (∀ op ∈ ([(.beq, fun a b => a = b), (.bne, fun a b => a ≠ b), (.blt, fun a b => a.toInt < b.toInt),
      (.bge, fun a b => b.toInt ≤ a.toInt), (.bltu, fun a b => a.toNat < b.toNat),
      (.bgeu, fun a b => b.toNat ≤ a.toNat)] :
      List ((Who → Guard → Fin 64 → Fin 64 → W32 → Instr) × (Word → Word → Prop))),
    ∀ (s : State) (w : Who) (t : Task) (g : Guard) (ra rb : Fin 64) (off : W32), Ready s w t → t.acts g = true →
      (op.2 (t.sreg ra) (t.sreg rb) →
        RunsTask (exec (op.1 w g ra rb off) s) s w (GoesTo t (t.pc + 8 * off.signExtend 64)))
      ∧ (¬ op.2 (t.sreg ra) (t.sreg rb) → RunsTask (exec (op.1 w g ra rb off) s) s w (GoesTo t (t.pc + 8))))
  ∧ ∀ (s : State) (w : Who) (t : Task) (g : Guard) (rd ra : Fin 64) (imm : W32), Ready s w t → t.acts g = true →
      RunsTask (exec (.jal w g rd imm) s) s w (fun t' =>
        t'.sreg rd = t.pc + 8 ∧ (∀ r, r ≠ rd → t'.sreg r = t.sreg r)
          ∧ { t' with sregs := t.sregs } = { t with pc := t.pc + 8 * imm.signExtend 64, status := .ready })
      ∧ RunsTask (exec (.jr w g ra imm) s) s w (GoesTo t (t.sreg ra + imm.signExtend 64))

/-- R93: a scalar, branch, FP32, cistern or descriptor instruction, a WAIT, an MFENCE, or a HALT, YIELD, IFENCE or NOP whose
guard does not act does nothing: its task goes on to the next instruction, and nothing else of the task or of the module changes. -/
def Obligations.GuardedOffInstructionsDoNothing : Prop :=
  ∀ (i : Instr) (s : State) (w : Who) (g : Guard) (t : Task), bit0Guarded i = some (w, g) → Ready s w t →
    t.acts g = false → RunsTask (exec i s) s w (GoesTo t (t.pc + 8))

/-- R96, R97, R102, R104: a task whose first instruction is not ENTRY ends its parcel as for a malformed instruction. A program
counter that is not 8-byte aligned ends the parcel with cause 1, a fetch that does not translate or fails its check as the
translation or the check says, a word that spells no instruction of the task's level with cause 4, all with access 2. The model's
own: a slot that holds no task, or whose task cannot issue, is left as it is (log entry 7), and a well-formed word leaves the task
to the command of its instruction (log entry 3). -/
def Obligations.MalformedInstructionsEndTheirParcel : Prop :=
  (∀ (i : Instr) (s : State) (w : Who) (g : Guard) (t : Task), bit0Guarded i = some (w, g) →
    (s.task w = some t → canIssue s w t = true → t.entered = false →
      exec i s = .next (failParcel t.ctx t.hostSeq (some w) t.pc (w.core / 64) (.violation 2 4 t.pc.toNat) (issued w s)))
    ∧ (s.task w = none → exec i s = .next s)
    ∧ (s.task w = some t → canIssue s w t = false → exec i s = .next s))
  ∧ ∀ (s : State) (w : Who) (t : Task) (word : Word), s.task w = some t → canIssue s w t = true →
    (t.pc.toNat % 8 ≠ 0 → exec (.malformedInstruction w word) s
      = .next (failParcel t.ctx t.hostSeq (some w) t.pc (w.core / 64) (.violation 2 1 t.pc.toNat) s))
    ∧ (∀ b, t.pc.toNat % 8 = 0 → translateMem s t.ctx (Use.of 2 nearFar) t.pc.toNat = .error b →
      exec (.malformedInstruction w word) s
        = .next (failParcel t.ctx t.hostSeq (some w) t.pc (w.core / 64) b s))
    ∧ (∀ tier a b, t.pc.toNat % 8 = 0 → translateMem s t.ctx (Use.of 2 nearFar) t.pc.toNat = .ok (tier, a) →
      checkStore s t.pc.toNat tier a 8 = .error b → exec (.malformedInstruction w word) s
        = .next (failParcel t.ctx t.hostSeq (some w) t.pc (w.core / 64) b s))
    ∧ (∀ tier a, t.pc.toNat % 8 = 0 → translateMem s t.ctx (Use.of 2 nearFar) t.pc.toNat = .ok (tier, a) →
      checkStore s t.pc.toNat tier a 8 = .ok () →
      (decodeSelod (decide (t.level ≠ 1)) w word = none → exec (.malformedInstruction w word) s
        = .next (failParcel t.ctx t.hostSeq (some w) t.pc (w.core / 64) (.violation 2 4 t.pc.toNat) s))
      ∧ ∀ i, decodeSelod (decide (t.level ≠ 1)) w word = some i → exec (.malformedInstruction w word) s = .next s)

/-- Table 4.7, R224, R238: scalar FP32 instructions whose guard acts write the exact result, rounded once, to rd[31:0]
with rd[63:32] zero, and count a result that is no finite number. FCVTFI rounds toward zero and saturates at the ends of
the signed 64-bit range; for a NaN, whose result the spec does not state, rd takes some value (log entry 16, the model's
own), and every other effect stands. -/
def Obligations.ScalarFloatResults : Prop :=
  (∀ op ∈ ([(.fadd, fun a b => round32 ((f32 a).add (f32 b))), (.fsub, fun a b => round32 ((f32 a).add (f32 b).neg)),
      (.fmul, fun a b => round32 ((f32 a).mul (f32 b))), (.fmin, fmin), (.fmax, fmax)] :
      List ((Who → Guard → Fin 64 → Fin 64 → Fin 64 → Instr) × (W32 → W32 → W32))),
    ∀ (s : State) (w : Who) (t : Task) (g : Guard) (rd ra rb : Fin 64) (v : W32), Ready s w t → t.acts g = true →
      v = op.2 ((t.sreg ra).truncate 32) ((t.sreg rb).truncate 32) →
      RunsCounted (exec (op.1 w g rd ra rb) s) s w t ⟨0, if nonfin v then 1 else 0⟩
        (WritesScalar t rd (v.zeroExtend 64)))
  ∧ (∀ (s : State) (w : Who) (t : Task) (g : Guard) (rd ra rb rc : Fin 64) (v : W32), Ready s w t → t.acts g = true →
      (v = round32 (((f32 ((t.sreg ra).truncate 32)).mul (f32 ((t.sreg rb).truncate 32))).add
          (f32 ((t.sreg rc).truncate 32))) →
        RunsCounted (exec (.ffma w g rd ra rb rc) s) s w t ⟨0, if nonfin v then 1 else 0⟩
          (WritesScalar t rd (v.zeroExtend 64)))
      ∧ (v = round32 (.fin (t.sreg ra).msb (t.sreg ra).toInt.natAbs 0) →
        RunsCounted (exec (.fcvtif w g rd ra) s) s w t ⟨0, if nonfin v then 1 else 0⟩
          (WritesScalar t rd (v.zeroExtend 64))))
  ∧ ∀ (s : State) (w : Who) (t : Task) (g : Guard) (rd ra : Fin 64), Ready s w t → t.acts g = true →
    (∀ neg m e, f32 ((t.sreg ra).truncate 32) = .fin neg m e →
      RunsTask (exec (.fcvtfi w g rd ra) s) s w (WritesScalar t rd (BitVec.ofInt 64
        (max (-(2 ^ 63)) (min (2 ^ 63 - 1)
          ((if neg then -1 else 1) * (if 0 ≤ e then (m : Int) * 2 ^ e.toNat else (m : Int) / 2 ^ (-e).toNat)))))))
    ∧ (∀ neg, f32 ((t.sreg ra).truncate 32) = .inf neg →
      RunsTask (exec (.fcvtfi w g rd ra) s) s w
        (WritesScalar t rd (BitVec.ofInt 64 (if neg then -(2 ^ 63) else 2 ^ 63 - 1))))
    ∧ (f32 ((t.sreg ra).truncate 32) = .nan →
      ∃ s' t' v, exec (.fcvtfi w g rd ra) s = .next s' ∧ s'.task w = some t' ∧ WritesScalar t rd v t'
        ∧ OnlyTask s { s' with freeCount := s.freeCount } w)

/-! ### Vector instructions -/

/-- R101, Table 4.8: each vector integer instruction writes its result in the lanes the guard admits. -/
def Obligations.VectorIntegerResults : Prop :=
  (∀ op ∈ ([(.vadd, fun a b => a + b), (.vsub, fun a b => a - b), (.vmul, fun a b => a * b),
      (.vmulh, fun a b => BitVec.ofInt 32 (a.toInt * b.toInt / 2 ^ 32)), (.vand, fun a b => a &&& b),
      (.vor, fun a b => a ||| b), (.vxor, fun a b => a ^^^ b), (.vshl, fun a b => a <<< (b.toNat % 32)),
      (.vshr, fun a b => a >>> (b.toNat % 32)), (.vsra, fun a b => a.sshiftRight (b.toNat % 32)),
      (.vmin, fun a b => if a.toInt < b.toInt then a else b), (.vmax, fun a b => if a.toInt < b.toInt then b else a),
      (.vslt, fun a b => if a.toInt < b.toInt then 1 else 0), (.vsltu, fun a b => if a.toNat < b.toNat then 1 else 0),
      (.vseq, fun a b => if a = b then 1 else 0)] :
      List ((Who → Guard → Fin 32 → Fin 32 → Fin 32 → Instr) × (W32 → W32 → W32))),
    ∀ (s : State) (w : Who) (t : Task) (g : Guard) (vd va vb : Fin 32), Ready s w t →
      RunsTask (exec (op.1 w g vd va vb) s) s w (WritesLanes t g vd fun l => op.2 (t.lane va l) (t.lane vb l)))
  ∧ ∀ (s : State) (w : Who) (t : Task) (g : Guard) (vd va : Fin 32), Ready s w t →
      RunsTask (exec (.vpopcnt w g vd va) s) s w
        (WritesLanes t g vd fun l => BitVec.ofNat 32 ((List.range 32).countP fun i => (t.lane va l).getLsbD i))

/-- R101, R224, R225, R238, Table 4.8: each vector FP32 instruction writes its result in the lanes the guard admits and
counts every infinity and NaN it writes. -/
def Obligations.VectorFloatResults : Prop :=
  (∀ op ∈ ([(.vfadd, fun a b => round32 ((f32 a).add (f32 b))), (.vfsub, fun a b => round32 ((f32 a).add (f32 b).neg)),
      (.vfmul, fun a b => round32 ((f32 a).mul (f32 b))), (.vfmin, fmin), (.vfmax, fmax)] :
      List ((Who → Guard → Fin 32 → Fin 32 → Fin 32 → Instr) × (W32 → W32 → W32))),
    ∀ (s : State) (w : Who) (t : Task) (g : Guard) (vd va vb : Fin 32) (f : Nat → W32), Ready s w t →
      (∀ l, f l = op.2 (t.lane va l) (t.lane vb l)) →
      RunsCounted (exec (op.1 w g vd va vb) s) s w t ⟨0, admitted t g fun l => nonfin (f l)⟩ (WritesLanes t g vd f))
  ∧ (∀ op ∈ ([(.vfabs, fun a => a &&& 0x7FFFFFFF), (.vfneg, fun a => a ^^^ 0x80000000), (.vfrcp, frcp),
      (.vfrsq, frsq), (.vfexp, fexp), (.vflog, flog)] :
      List ((Who → Guard → Fin 32 → Fin 32 → Instr) × (W32 → W32))),
    ∀ (s : State) (w : Who) (t : Task) (g : Guard) (vd va : Fin 32) (f : Nat → W32), Ready s w t →
      (∀ l, f l = op.2 (t.lane va l)) →
      RunsCounted (exec (op.1 w g vd va) s) s w t ⟨0, admitted t g fun l => nonfin (f l)⟩ (WritesLanes t g vd f))
  ∧ ∀ (s : State) (w : Who) (t : Task) (g : Guard) (vd va vb vc : Fin 32) (pc : Fin 8) (f : Nat → W32), Ready s w t →
      ((∀ l, f l = round32 (((f32 (t.lane va l)).mul (f32 (t.lane vb l))).add (f32 (t.lane vc l)))) →
        RunsCounted (exec (.vffma w g vd va vb vc) s) s w t ⟨0, admitted t g fun l => nonfin (f l)⟩
          (WritesLanes t g vd f))
      ∧ ((∀ l, f l = if (t.pred pc).getLsbD l then t.lane va l else t.lane vb l) →
        RunsCounted (exec (.vfsel w g vd va vb pc) s) s w t ⟨0, admitted t g fun l => nonfin (f l)⟩
          (WritesLanes t g vd f))

/-- R91, R93, R98, Tables 4.8 and 4.9: each instruction that writes a predicate writes the bits the guard admits, a
write of p0 is ignored, and bits from lane L upward are zero; PTOS and PCOUNT read an excluded lane as 0. -/
def Obligations.PredicateResults : Prop :=
  (∀ op ∈ ([(.vfclt, fun a b => a.lt b), (.vfceq, fun a b => a.eqv b)] :
      List ((Who → Guard → Fin 8 → Fin 32 → Fin 32 → Instr) × (Val → Val → Bool))),
    ∀ (s : State) (w : Who) (t : Task) (g : Guard) (pd : Fin 8) (va vb : Fin 32), Ready s w t →
      RunsTask (exec (op.1 w g pd va vb) s) s w
        (WritesPred t g pd fun l => op.2 (f32 (t.lane va l)) (f32 (t.lane vb l))))
  ∧ (∀ op ∈ ([(.pand, fun a b => a && b), (.por, fun a b => a || b), (.pxor, fun a b => a != b)] :
      List ((Who → Guard → Fin 8 → Fin 8 → Fin 8 → Instr) × (Bool → Bool → Bool))),
    ∀ (s : State) (w : Who) (t : Task) (g : Guard) (pd pa pb : Fin 8), Ready s w t →
      RunsTask (exec (op.1 w g pd pa pb) s) s w
        (WritesPred t g pd fun l => op.2 ((t.pred pa).getLsbD l) ((t.pred pb).getLsbD l)))
  ∧ ∀ (s : State) (w : Who) (t : Task) (g : Guard) (pd pa : Fin 8) (rd ra : Fin 64), Ready s w t →
      RunsTask (exec (.pnot w g pd pa) s) s w (WritesPred t g pd fun l => !(t.pred pa).getLsbD l)
      ∧ RunsTask (exec (.pfroms w g pd ra) s) s w (WritesPred t g pd fun l => (t.sreg ra).getLsbD l)
      ∧ RunsTask (exec (.pfirst w g pd pa) s) s w (WritesPred t g pd fun l =>
          (t.pred pa).getLsbD l && (List.range l).all fun j => !(t.pred pa).getLsbD j)
      ∧ RunsTask (exec (.pcount w g rd pa) s) s w
          (WritesScalar t rd (BitVec.ofNat 64 (admitted t g fun l => (t.pred pa).getLsbD l)))
      ∧ ∃ v : Word, (∀ l, l < 64 → v.getLsbD l = ((t.pred pa).getLsbD l && t.guardBit g l))
          ∧ RunsTask (exec (.ptos w g rd pa) s) s w (WritesScalar t rd v)

/-- R93, R101, Table 4.9: lane instructions. Reads across lanes take every logical lane whatever the guard; a
reduction takes the lanes the guard admits. Readings of the model: log entry 21. -/
def Obligations.LaneOperationResults : Prop :=
  ∀ (s : State) (w : Who) (t : Task) (g : Guard) (vd va vb : Fin 32) (rd ra rb : Fin 64), Ready s w t →
    RunsTask (exec (.vbcast w g vd ra) s) s w (WritesLanes t g vd fun _ => (t.sreg ra).truncate 32)
    ∧ RunsTask (exec (.vperm w g vd va vb) s) s w
        (WritesLanes t g vd fun l => t.lane va ((t.lane vb l).toNat % t.lanes))
    ∧ RunsTask (exec (.vscan w g vd va) s) s w
        (WritesLanes t g vd fun l => (List.range (l + 1)).foldl (fun a i => a + t.lane va i) 0)
    ∧ (((t.pred g.pred).getLsbD (t.sreg rb).toNat != g.sense) = true →
        RunsTask (exec (.vmovs w g rd va rb) s) s w
          (WritesScalar t rd ((t.lane va (t.sreg rb).toNat).zeroExtend 64)))
    ∧ (((t.pred g.pred).getLsbD (t.sreg rb).toNat != g.sense) = false →
        RunsTask (exec (.vmovs w g rd va rb) s) s w (GoesTo t (t.pc + 8)))
    ∧ RunsTask (exec (.vrisum w g rd va) s) s w (WritesScalar t rd (BitVec.ofInt 64
        (((List.range t.lanes).map fun l => if t.guardBit g l then (t.lane va l).toInt else 0).sum)))
    ∧ (∀ v, v = treeSum 6 ((List.range t.lanes).map fun l => if t.guardBit g l then t.lane va l else 0x80000000) →
        RunsCounted (exec (.vrsum w g rd va) s) s w t ⟨0, if nonfin v then 1 else 0⟩
          (WritesScalar t rd (v.zeroExtend 64)))
    ∧ (∀ v l r, ((List.range t.lanes).filter fun l => t.guardBit g l) = l :: r →
        v = r.foldl (fun a j => fmax a (t.lane va j)) (fmax (t.lane va l) (t.lane va l)) →
        RunsCounted (exec (.vrmax w g rd va) s) s w t ⟨0, if nonfin v then 1 else 0⟩
          (WritesScalar t rd (v.zeroExtend 64)))
    ∧ (((List.range t.lanes).filter fun l => t.guardBit g l) = [] →
        RunsCounted (exec (.vrmax w g rd va) s) s w t ⟨0, 1⟩ (WritesScalar t rd 0x00000000FF800000))

/-! ### Memory accesses of a task -/

/-- Table 4.7, R102, R105: a load whose guard acts reads n bytes of device memory at ra + imm, zero-extended into rd,
and changes nothing else; a misaligned one ends the parcel with cause 1, one that does not translate as the translation
says, and data that fails its check is a detected error of the task. That the alignment is judged before the translation is the
model's reading (log entry 53). A load through the window of an embedding table is the business of R277. -/
def Obligations.LoadsReadDeviceMemory : Prop :=
  ∀ op ∈ ([(.ld8, 1), (.ld16, 2), (.ld32, 4), (.ld64, 8)] :
      List ((Who → Guard → Fin 64 → Fin 64 → W32 → Instr) × Nat)),
    ∀ (s : State) (w : Who) (t : Task) (g : Guard) (rd ra : Fin 64) (imm : W32) (a : Nat), Ready s w t →
      t.acts g = true → a = (t.sreg ra + imm.signExtend 64).toNat →
      (∀ tier b, a % op.2 = 0 → translateMem s t.ctx (Use.of 0 nearFarHost) a = .ok (tier, b) →
        (checkStore s a tier b op.2 = .ok () → RunsTask (exec (op.1 w g rd ra imm) s) s w (WritesScalar t rd
          (BitVec.ofNat 64 (leNat ((List.range op.2).map fun i => s.byteAt tier (b + i))))))
        ∧ ∀ e, checkStore s a tier b op.2 = .error e → EndsParcel (exec (op.1 w g rd ra imm) s) s w t e)
      ∧ (a % op.2 ≠ 0 → EndsParcel (exec (op.1 w g rd ra imm) s) s w t (.violation 0 1 a))
      ∧ (∀ e, a % op.2 = 0 → walkFrom s t.ctx (Use.of 0 nearFarHost) a = .error e →
        EndsParcel (exec (op.1 w g rd ra imm) s) s w t e)

/-- Table 4.7, R102, R105: a store whose guard acts writes the n low bytes of rd to device memory at ra + imm: those
bytes read back, and every other byte of memory, register and task is unchanged. A misaligned one ends the parcel with cause 1,
before its address is translated (the model's reading, log entry 53), one that does not translate as the translation says, and one
to a channel without its clock is a detected error of the task (R47). A store to a frame of a committed seal that still waits for
its first-touch copy is the business of R437, and one through the window of an embedding table of R279. -/
def Obligations.StoresWriteDeviceMemory : Prop :=
  ∀ op ∈ ([(.st8, 1), (.st16, 2), (.st32, 4), (.st64, 8)] :
      List ((Who → Guard → Fin 64 → Fin 64 → W32 → Instr) × Nat)),
    ∀ (s : State) (w : Who) (t : Task) (g : Guard) (rd ra : Fin 64) (imm : W32) (a : Nat), Ready s w t →
      t.acts g = true → a = (t.sreg ra + imm.signExtend 64).toNat → s.memoriesOk = true →
      (∀ tier b, a % op.2 = 0 → translateMem s t.ctx useWrite a = .ok (tier, b) →
        (rangeDown s tier b op.2 = none → uncopiedOwner s tier (b / 65536) = none → heldBy s w = false →
          ∃ s', exec (op.1 w g rd ra imm) s = .next s'
            ∧ StoresToTier s s' w { t with pc := t.pc + 8, status := .ready } tier b (leBytes op.2 (t.sreg rd).toNat))
        ∧ ∀ i, rangeDown s tier b op.2 = some i →
          EndsParcel (exec (op.1 w g rd ra imm) s) s w t (.detected (clockErr i a)))
      ∧ (a % op.2 ≠ 0 → EndsParcel (exec (op.1 w g rd ra imm) s) s w t (.violation 1 1 a))
      ∧ (∀ e, a % op.2 = 0 → walkFrom s t.ctx useWrite a = .error e →
        EndsParcel (exec (op.1 w g rd ra imm) s) s w t e)

/-- Table 4.11, R90, R102: DLD and DST move the 64 bytes of a descriptor register as they stand; DINV sets them to
zero, which makes the register invalid. A misaligned address ends the parcel with cause 1 before it is translated (the model's
reading, log entry 53); one that does not translate, data that fails its check and a channel without its clock end the access as
for a load or a store. A DST to a frame of a committed seal that still waits for its first-touch copy is the business of R437. -/
def Obligations.DescriptorMoves : Prop :=
  ∀ (s : State) (w : Who) (t : Task) (g : Guard) (d : Fin 16) (ra : Fin 64) (a : Nat), Ready s w t →
    t.acts g = true → a = (t.sreg ra).toNat →
    (∀ tier b, a % 64 = 0 → translateMem s t.ctx (Use.of 0 nearFarHost) a = .ok (tier, b) →
      (checkStore s a tier b 64 = .ok () → RunsTask (exec (.dld w g d ra) s) s w (fun t' =>
        t'.desc d = BitVec.ofNat 512 (leNat ((List.range 64).map fun i => s.byteAt tier (b + i)))
          ∧ (∀ e, e ≠ d → t'.desc e = t.desc e)
          ∧ { t' with descs := t.descs } = { t with pc := t.pc + 8, status := .ready }))
      ∧ ∀ e, checkStore s a tier b 64 = .error e → EndsParcel (exec (.dld w g d ra) s) s w t e)
    ∧ (∀ tier b, a % 64 = 0 → s.memoriesOk = true → translateMem s t.ctx useWrite a = .ok (tier, b) →
      (rangeDown s tier b 64 = none → uncopiedOwner s tier (b / 65536) = none → heldBy s w = false →
        ∃ s', exec (.dst w g d ra) s = .next s'
          ∧ StoresToTier s s' w { t with pc := t.pc + 8, status := .ready } tier b (leBytes 64 (t.desc d).toNat))
      ∧ ∀ i, rangeDown s tier b 64 = some i → EndsParcel (exec (.dst w g d ra) s) s w t (.detected (clockErr i a)))
    ∧ (a % 64 ≠ 0 → EndsParcel (exec (.dld w g d ra) s) s w t (.violation 0 1 a)
        ∧ EndsParcel (exec (.dst w g d ra) s) s w t (.violation 1 1 a))
    ∧ (∀ e, a % 64 = 0 → translateMem s t.ctx (Use.of 0 nearFarHost) a = .error e →
      EndsParcel (exec (.dld w g d ra) s) s w t e)
    ∧ (∀ e, a % 64 = 0 → translateMem s t.ctx useWrite a = .error e → EndsParcel (exec (.dst w g d ra) s) s w t e)
    ∧ RunsTask (exec (.dinv w g d) s) s w (fun t' => t'.desc d = 0 ∧ (∀ e, e ≠ d → t'.desc e = t.desc e)
        ∧ { t' with descs := t.descs } = { t with pc := t.pc + 8, status := .ready })

/-- Table 4.7, R99, R102: scalar loads and stores of the cistern. Outside the footprint they fault with cause 0, and
inside it misaligned with cause 1, at 0xC000_0000_0000_0000 + the cistern address. A load of a word that fails its parity
is a detected error of the task (R316). -/
def Obligations.CisternScalarAccesses : Prop :=
  ∀ op ∈ ([(.cld8, .cst8, 1), (.cld16, .cst16, 2), (.cld32, .cst32, 4), (.cld64, .cst64, 8)] :
      List ((Who → Guard → Fin 64 → Fin 64 → W32 → Instr) × (Who → Guard → Fin 64 → Fin 64 → W32 → Instr) × Nat)),
    ∀ (s : State) (w : Who) (t : Task) (g : Guard) (rd ra : Fin 64) (imm : W32) (a : Nat), Ready s w t →
      t.acts g = true → a = (t.sreg ra + imm.signExtend 64).toNat →
      (a + op.2.2 ≤ t.footprint → a % op.2.2 = 0 →
        (wordErr s w.core a op.2.2 = false → RunsTask (exec (op.1 w g rd ra imm) s) s w (WritesScalar t rd
          (BitVec.ofNat 64 (leNat ((List.range op.2.2).map fun i => s.cisByte w.core (a + i))))))
        ∧ (wordErr s w.core a op.2.2 = true →
          EndsParcel (exec (op.1 w g rd ra imm) s) s w t (.detected (coreErr 5 w.core)))
        ∧ (s.memoriesOk = true → ∃ s', exec (op.2.1 w g rd ra imm) s = .next s'
            ∧ StoresToCistern s s' w { t with pc := t.pc + 8, status := .ready }
                (bytesOver (s.cisByte w.core) a (leBytes op.2.2 (t.sreg rd).toNat))))
      ∧ (t.footprint < a + op.2.2 →
        EndsParcel (exec (op.1 w g rd ra imm) s) s w t (.violation 0 0 (0xC000000000000000 + a))
        ∧ EndsParcel (exec (op.2.1 w g rd ra imm) s) s w t (.violation 1 0 (0xC000000000000000 + a)))
      ∧ (a + op.2.2 ≤ t.footprint → a % op.2.2 ≠ 0 →
        EndsParcel (exec (op.1 w g rd ra imm) s) s w t (.violation 0 1 (0xC000000000000000 + a))
        ∧ EndsParcel (exec (op.2.1 w g rd ra imm) s) s w t (.violation 1 1 (0xC000000000000000 + a)))

/-- Table 4.9, R93, R102: the vector accesses of the cistern in their three address forms. A load writes the admitted
lanes. A store writes their bytes in lane order, so the highest lane of one address stays, and no other byte. The fault
is that of the lowest admitted lane that faults; a lane that the guard excludes is not checked (log entry 53). -/
def Obligations.CisternVectorAccesses : Prop :=
  ∀ (s : State) (w : Who) (t : Task) (g : Guard) (vd vb : Fin 32) (ra rb : Fin 64) (imm : W32), Ready s w t →
    ∀ op ∈ ([(.vld w g vd ra imm, .vst w g vd ra imm, fun l => t.sreg ra + imm.signExtend 64 + BitVec.ofNat 64 (4 * l)),
        (.vlds w g vd ra rb, .vsts w g vd ra rb, fun l => t.sreg ra + BitVec.ofNat 64 l * t.sreg rb),
        (.vldx w g vd ra vb, .vstx w g vd ra vb, fun l => t.sreg ra + (t.lane vb l).zeroExtend 64)] :
        List (Instr × Instr × (Nat → Word))),
    ∀ addr : Nat → Nat, (∀ l, addr l = (op.2.2 l).toNat) →
      (lanesReach t g addr →
        ((∀ l, t.guardBit g l = true → wordErr s w.core (addr l) 4 = false) →
          RunsTask (exec op.1 s) s w (WritesLanes t g vd fun l =>
            BitVec.ofNat 32 (leNat ((List.range 4).map fun i => s.cisByte w.core (addr l + i)))))
        ∧ (s.memoriesOk = true → ∃ s', exec op.2.1 s = .next s'
            ∧ StoresToCistern s s' w { t with pc := t.pc + 8, status := .ready }
                (((List.range t.lanes).filter fun l => t.guardBit g l).foldl
                  (fun f l => bytesOver f (addr l) (leBytes 4 (t.lane vd l).toNat)) (s.cisByte w.core))))
      ∧ ∀ l, t.guardBit g l = true → (∀ j, j < l → t.guardBit g j = true →
          addr j + 4 ≤ t.footprint ∧ addr j % 4 = 0 ∧ wordErr s w.core (addr j) 4 = false) →
        (t.footprint < addr l + 4 →
          EndsParcel (exec op.1 s) s w t (.violation 0 0 (0xC000000000000000 + addr l))
          ∧ EndsParcel (exec op.2.1 s) s w t (.violation 1 0 (0xC000000000000000 + addr l)))
        ∧ (addr l + 4 ≤ t.footprint → addr l % 4 ≠ 0 →
          EndsParcel (exec op.1 s) s w t (.violation 0 1 (0xC000000000000000 + addr l))
          ∧ EndsParcel (exec op.2.1 s) s w t (.violation 1 1 (0xC000000000000000 + addr l)))

/-! ### The cube array and the accumulators -/

/-- R103, R199, R201, R203, R204, R90: an MXM that its core's array takes adds the product of its operands into the
tile columns 0 to 32·S - 1 of the rows the guard admits, step by step in increasing depth, the first step overwriting
where acc is 0; it advances its descriptor, and joins its completion group and the array's queue. Its D × S array steps are counted
at its die at once where the array is idle and its quadrant's array issue is not withheld (R390, R394), and otherwise later. No byte
of memory and no other register changes; an overwritten element is no longer the result of an earlier MXM. Readings of the model:
log entries 9 and 23. -/
def Obligations.MxmAccumulatesItsProduct : Prop :=
  ∀ (s : State) (w : Who) (t : Task) (g : Guard) (grp : Fin 8) (minor : Fin 9) (tile : Fin 8) (ra : Fin 64) (d : Fin 16)
    (depthM1 : Fin 64) (spanM1 : Fin 8) (acc wt : Bool) (o : MxmOp) (m : MxmData), Ready s w t →
    (minor.val < 7 ∨ t.level ≠ 1) → t.groups.get 0 grp.val < 255 → (s.core w.core).mxmQueue.length < 4 →
    moveOn s w tile.val = false →
    o = ⟨minor.val, (t.sreg ra).toNat, depthM1.val + 1, spanM1.val + 1, acc, wt, (t.desc d).toNat⟩ → o.ok = true →
    o.read (issued w s) w t = .ok m →
    ∃ s' t', exec (.mxm w g grp minor tile ra d depthM1 spanM1 acc wt) s = .next s' ∧ s'.task w = some t'
      ∧ TileReads t t' tile (fun r c =>
          if c < 32 * (spanM1.val + 1) ∧ t.guardBit g r = true then
            (List.range (depthM1.val + 1)).foldl (fun x k =>
              if k = 0 ∧ acc = false then o.tree m k r c else round32 ((f32 x).add (f32 (o.tree m k r c))))
              (t.elem tile.val r c)
          else t.elem tile.val r c)
      ∧ t'.desc d = o.advanced ∧ (∀ e, e ≠ d → t'.desc e = t.desc e) ∧ JoinsGroup t t' grp
      ∧ { t' with tiles := t.tiles, descs := t.descs, groups := t.groups } = { t with pc := t.pc + 8, status := .ready }
      ∧ Accepts s s' w t grp "MXM" ∧ OthersKept s s' w ∧ SameBytes s s' ∧ unspoiled s'.loose = unspoiled s.loose
      ∧ (acc = true → s'.loose = s.loose) ∧ (∀ c, c ≠ w.core → s'.core c = s.core c)
      ∧ { s'.core w.core with mxmQueue := [] } = { (issued w s).core w.core with mxmQueue := [] }
      ∧ (s'.core w.core).mxmQueue = (s.core w.core).mxmQueue ++ [s.nextOp]
      ∧ ((s.core w.core).mxmQueue = [] → (s.die (w.core / 64)).droop.getLsbD (w.core % 64 / 16) = false →
        (∀ k, (s'.die (w.core / 64)).acts.get 0 k = if k = minor.val then
            min (2 ^ 48 - 1) ((s.die (w.core / 64)).acts.get 0 k + (depthM1.val + 1) * (spanM1.val + 1))
            else (s.die (w.core / 64)).acts.get 0 k)
        ∧ { s'.die (w.core / 64) with acts := [] } = { s.die (w.core / 64) with acts := [] }
        ∧ ∀ d, d ≠ w.core / 64 → s'.die d = s.die d)
      ∧ ((s.core w.core).mxmQueue ≠ [] ∨ (s.die (w.core / 64)).droop.getLsbD (w.core % 64 / 16) = true →
        s'.dies = s.dies ∧ ∃ op ∈ s'.ops, op.id = s.nextOp ∧ op.steps = (depthM1.val + 1) * (spanM1.val + 1))
      ∧ { s' with tasks := s.tasks, ops := s.ops, loose := s.loose, nextOp := s.nextOp, cores := s.cores,
                  dies := s.dies } = s

/-- R201, R203, R210, Table 4.10, Table 4.9: AZERO, ALOAD and ASTORE on the rows the guard admits, and VFROMA and ATOV
on the 64 columns that rb names, each where no MXM of the task into the tile is unfinished. A VFROMA or ATOV that finds the
array's parity in error goes on, with the tile undefined, and the error is found (R217). Readings of the model: log entries 9
and 24. -/
def Obligations.AccumulatorMoves : Prop :=
  ∀ (s : State) (w : Who) (t : Task) (g : Guard) (grp : Fin 8) (tile : Fin 8) (ra rb : Fin 64) (vd : Fin 32) (a : Nat),
    Ready s w t → a = (t.sreg ra).toNat →
    (mxmInto s w tile.val = false →
      ∃ s' t', exec (.azero w g tile) s = .next s' ∧ s'.task w = some t' ∧ OthersKept s s' w
        ∧ TileReads t t' tile (fun r c => if t.guardBit g r then 0 else t.elem tile.val r c)
        ∧ { t' with tiles := t.tiles } = { t with pc := t.pc + 8, status := .ready }
        ∧ { s' with tasks := s.tasks } =
            overwrite w tile.val (fun r => if t.guardBit g r then 2 ^ 256 - 1 else 0) (issued w s))
    ∧ (mxmInto s w tile.val = false → t.groups.get 0 grp.val < 255 → a + 16384 ≤ t.footprint → a % 4 = 0 →
      (wordErr s w.core a 16384 = false → ∃ s' t', exec (.aload w g grp tile ra) s = .next s' ∧ s'.task w = some t' ∧ Accepts s s' w t grp "ALOAD"
        ∧ OthersKept s s' w
        ∧ TileReads t t' tile (fun r c => if t.guardBit g r then
            BitVec.ofNat 32 (leNat ((List.range 4).map fun i => s.cisByte w.core (a + 1024 * r + 4 * c + i)))
            else t.elem tile.val r c)
        ∧ JoinsGroup t t' grp
        ∧ { t' with tiles := t.tiles, groups := t.groups } = { t with pc := t.pc + 8, status := .ready }
        ∧ unspoiled s'.loose = unspoiled s.loose
        ∧ { s' with tasks := s.tasks, ops := s.ops, loose := s.loose, nextOp := s.nextOp } = issued w s)
      ∧ (s.memoriesOk = true → ∃ s' t', exec (.astore w g grp tile ra) s = .next s' ∧ MovesOn s s' w t'
        ∧ Accepts s s' w t grp "ASTORE" ∧ OtherCisterns s s' w ∧ JoinsGroup t t' grp ∧ CisternMarks s s' w.core
        ∧ { t' with groups := t.groups } = { t with pc := t.pc + 8, status := .ready }
        ∧ (∀ r c i, r < 16 → c < 256 → i < 4 → t.guardBit g r = true →
            s'.cisByte w.core (a + 1024 * r + 4 * c + i) = (leBytes 4 (t.elem tile.val r c).toNat).getD i 0)
        ∧ (∀ k, k < a ∨ a + 16384 ≤ k ∨ t.guardBit g ((k - a) / 1024) = false →
            s'.cisByte w.core k = s.cisByte w.core k)
        ∧ { s' with tasks := s.tasks, ops := s.ops, loose := s.loose, errs := s.errs, freeCount := s.freeCount,
                    nextOp := s.nextOp, cores := s.cores } = s))
    ∧ (mxmInto s w ((t.sreg rb).toNat % 8) = false → ⟨6, w.core, 0⟩ ∈ s.errs →
      ∀ i ∈ [Instr.vfroma w g vd rb, .atov w g vd rb], ∃ s' t', exec i s = .next s' ∧ s'.task w = some t'
        ∧ t'.pc = t.pc + 8 ∧ t'.status = .ready ∧ ⟨6, w.core, 0⟩ ∉ s'.errs)
    ∧ (mxmInto s w ((t.sreg rb).toNat % 8) = false → ⟨6, w.core, 0⟩ ∉ s.errs →
      RunsTask (exec (.vfroma w g vd rb) s) s w (WritesLanes t g vd fun l =>
        t.elem ((t.sreg rb).toNat % 8) ((t.sreg rb).toNat / 16 % 16) (64 * ((t.sreg rb).toNat / 256 % 4) + l))
      ∧ ∃ s' t', exec (.atov w g vd rb) s = .next s' ∧ s'.task w = some t' ∧ OthersKept s s' w
          ∧ (∀ l, l < t.lanes → t'.elem ((t.sreg rb).toNat % 8) ((t.sreg rb).toNat / 16 % 16)
              (64 * ((t.sreg rb).toNat / 256 % 4) + l)
            = if t.guardBit g l then t.lane vd l
              else t.elem ((t.sreg rb).toNat % 8) ((t.sreg rb).toNat / 16 % 16) (64 * ((t.sreg rb).toNat / 256 % 4) + l))
          ∧ (∀ k r c, k ≠ (t.sreg rb).toNat % 8 ∨ r ≠ (t.sreg rb).toNat / 16 % 16 ∨ c < 64 * ((t.sreg rb).toNat / 256 % 4)
              ∨ 64 * ((t.sreg rb).toNat / 256 % 4) + 64 ≤ c → k < 8 → r < 16 → c < 256 → t'.elem k r c = t.elem k r c)
          ∧ { t' with tiles := t.tiles } = { t with pc := t.pc + 8, status := .ready }
          ∧ unspoiled s'.ops = unspoiled s.ops ∧ unspoiled s'.loose = unspoiled s.loose
          ∧ { s' with tasks := s.tasks, ops := s.ops, loose := s.loose } = issued w s)

/-- R231, R232, R234: ASTN narrows the rows the guard admits into the cistern at ra, packed row after row, with the
scales of a block-scaled format after the sixteen rows; it counts what saturates and what is not finite. Readings of
the model: log entries 9 and 24. -/
def Obligations.AstnNarrowsTheTile : Prop :=
  ∀ (s : State) (w : Who) (t : Task) (g : Guard) (grp : Fin 8) (tile : Fin 8) (ra : Fin 64) (fmt : BitVec 4)
    (block : BitVec 2) (sr : Bool) (a row scales : Nat) (n : Nat → List Nat × List Nat × Counts), Ready s w t →
    1 ≤ fmt.toNat → fmt.toNat ≤ 10 → (t.level ≠ 1 ∨ fmt.toNat < 8) → mxmInto s w tile.val = false →
    t.groups.get 0 grp.val < 255 → s.memoriesOk = true → a = (t.sreg ra).toNat → row = packedBytes fmt.toNat 256 →
    scales = (if 6 ≤ fmt.toNat then 256 / (16 * 2 ^ block.toNat) else 0) → a + 16 * row + 16 * scales ≤ t.footprint →
    a % 64 = 0 →
    (∀ r, n r = narrowList t ⟨fmt.toNat, 16 * 2 ^ block.toNat, sr⟩ (2 ^ 57 + a + r * row)
      ((List.range 256).map fun c => f32 (t.elem tile.val r c))) →
    ∃ s' t', exec (.astn w g grp tile ra fmt block sr) s = .next s' ∧ MovesOn s s' w t'
      ∧ Accepts s s' w t grp "ASTN" ∧ OtherCisterns s s' w ∧ JoinsGroup t t' grp ∧ CisternMarks s s' w.core
      ∧ { t' with groups := t.groups } = { t with pc := t.pc + 8, status := .ready }
      ∧ (∀ k, s'.cisByte w.core k = (((List.range 16).filter fun r => t.guardBit g r).foldl
          (fun f r => bytesOver (bytesOver f (a + r * row) (packEls fmt.toNat (n r).1))
            (a + 16 * row + r * scales) (if scales = 0 then [] else (n r).2.1.map (BitVec.ofNat 8)))
          (s.cisByte w.core)) k)
      ∧ { s' with tasks := s.tasks, ops := s.ops, loose := s.loose, errs := s.errs, freeCount := s.freeCount,
                  nextOp := s.nextOp, cores := s.cores, ctxs := s.ctxs, log := s.log, dies := s.dies } = s
      ∧ ((∀ r, r < 16 → (n r).2.2 = ⟨0, 0⟩) → s'.ctxs = s.ctxs ∧ s'.log = s.log ∧ s'.dies = s.dies)

/-! ### Stream, sampling, sparsity and memory-side conversion instructions -/

/-- Asynchronous instructions of these classes: whether they are of level 2, whether they join their die's sampler queue,
and the effect at their issue. -/
def streamInstrs (w : Who) (g : Guard) (grp : Fin 8) (d : Fin 16) (func : BitVec 2) :
    List (Instr × Bool × Bool × (Nat → Task → State → State × Except Bad AsyncOp)) :=
  [(.gather w g grp d, false, false, gatherEffect w grp d), (.scatter w g grp d, false, false, scatterEffect w grp d),
   (.segred w g grp d func, false, false, plainOp w grp "SEGRED" (segNamed w d func) (segredEffect w d func)),
   (.combine w g grp d, true, false, combineEffect w grp d), (.scopy w g grp d, false, false, scopyEffect w grp d),
   (.pfsched w g grp d, false, false, pfschedEffect w grp d),
   (.shuf w g grp d, false, true, plainOp w grp "SHUF" (shufNamed d) (shufEffect w d)),
   (.sample w g grp d, false, true, sampleEffect w grp d),
   (.dedup w g grp d, false, true, plainOp w grp "DEDUP" (dedupNamed d) (dedupEffect w d)),
   (.predict w g grp d, true, false, plainOp w grp "PREDICT" (predictNamed w d) (predictEffect w d)),
   (.bmchk w g grp d, false, false, plainOp w grp "BMCHK" (sparseNamed w d false) (bmchkEffect w d)),
   (.bmexp w g grp d, false, false, plainOp w grp "BMEXP" (sparseNamed w d true) (bmexpEffect w d))]

/-- R90, R82, R93, R152: an asynchronous instruction of these twelve (GATHER, SCATTER, SEGRED, COMBINE, SCOPY, PFSCHED, SHUF,
SAMPLE, DEDUP, PREDICT, BMCHK, BMEXP) that its unit accepts has the effect of its issue, joins the unfinished instructions, and its
engine reads go out as far as their bounds let them; one that fails its checks ends its parcel; one that needs a part of the flash
map that is not there stays at issue (R315; the model's reading, log entry 18); one whose guard does not act joins no group and does
nothing; one whose group counter stands at 255, or a sampling one whose die's queue of 64 is full, waits; a level 2 one at level 1 is
malformed. What memory the effects read and write is StreamInstructionsAct. Readings of the model: log entries 9 and 18. -/
def Obligations.StreamInstructionsIssue : Prop :=
  ∀ (s : State) (w : Who) (t : Task) (g : Guard) (grp : Fin 8) (d : Fin 16) (func : BitVec 2), Ready s w t →
    ∀ i ∈ streamInstrs w g grp d func, ∀ (start s1 : State),
      start = { (issued w s).setTask w (t.join grp).advance with nextOp := s.nextOp + 1 } →
      (i.2.1 = true → t.level = 1 → EndsParcel (exec i.1 s) s w t (.violation 2 4 t.pc.toNat))
      ∧ ((i.2.1 = false ∨ t.level ≠ 1) →
      (t.acts g = true → t.groups.get 0 grp.val < 255 →
        (i.2.2.1 = true → (samplerQueue s (w.core / 64)).length < 64) →
        (∀ op, i.2.2.2 s.nextOp t start = (s1, .ok op) →
          exec i.1 s = .next (issueReads op.id op.openPos (ownHeld s.dg.held.length op.id { s1 with ops := s1.ops ++ [op] })))
        ∧ (∀ b, b ≠ .wait → i.2.2.2 s.nextOp t start = (s1, .error b) →
          exec i.1 s = .next (failParcel t.ctx t.hostSeq (if b.byEngine then none else some w) t.pc (w.core / 64) b s1))
        ∧ (i.2.2.2 s.nextOp t start = (s1, .error .wait) → exec i.1 s = .next s))
      ∧ (t.acts g = false → RunsTask (exec i.1 s) s w (GoesTo t (t.pc + 8)))
      ∧ (t.acts g = true → 255 ≤ t.groups.get 0 grp.val ∨ (i.2.2.1 = true ∧ 64 ≤ (samplerQueue s (w.core / 64)).length) →
        exec i.1 s = .next s))

/-- Unique entries of a list, each node's first one, in order of first appearance; the low 40 bits name the node (R149). -/
def uniqueEntries (es : List Nat) : List Nat :=
  es.foldl (fun l e => if l.any fun x => decide (x % 2 ^ 40 = e % 2 ^ 40) then l else l ++ [e]) []

/-- R90, R131, R149, R161 to R165, R176, R181, R183, R188, R190: what the stream, sampling and sparsity instructions read and write,
shown where their rows and lists lie together in the near tier or in the cistern, with no embedding window on the way. SCOPY copies
bytes; SHUF writes the permutation's entries; DEDUP writes the unique entries, the index of each entry and their number; SCATTER
writes its row at its index and drops one out of range where it may; COMBINE writes the sum of the rows of equal keys at their key;
SEGRED writes the sum of the live edges of every segment; BMEXP lists the elements of a tile; PREDICT writes its mask tile; GATHER
holds the converted row for its place until its read is answered, and writes a zero row for an index out of range; BMCHK, SAMPLE and
PFSCHED write no memory at their issue. The effects come at the issue, and those of a SAMPLE at its finish (log entry 9). -/
def Obligations.StreamInstructionsAct : Prop :=
  ∀ (s : State) (w : Who) (t : Task) (g : Guard) (grp : Fin 8) (d : Fin 16) (start : State) (n : Nat), Ready s w t →
    t.acts g = true → t.groups.get 0 grp.val < 255 → s.memoriesOk = true → n = (t.desc d).toNat →
    start = { (issued w s).setTask w (t.join grp).advance with nextOp := s.nextOp + 1 } →
    ((dieEngines start (w.core / 64)).isEmpty = false →
      -- SCOPY
      (bitsN n 7 4 = 6 → copyOk n = true → ∀ len src dst, len = bitsN n 71 32 → src = bitsN n 191 128 → dst = bitsN n 255 192 →
        (bitN n 8 = true → bitN n 9 = true → src + len ≤ t.footprint → dst + len ≤ t.footprint →
          wordErr start w.core src len = false → ∃ s', exec (.scopy w g grp d) s = .next s' ∧ Issues s s' w t grp "SCOPY"
            ∧ WritesCistern s s' w.core dst ((List.range len).map fun i => s.cisByte w.core (src + i)))
        ∧ ∀ b c, bitN n 8 = false → bitN n 9 = false → meetsWindow start t.ctx src len = false →
          ReadsNear start t.ctx anyTier src len b → WritesNear start t.ctx nearFarHost dst len c →
          ∃ s', exec (.scopy w g grp d) s = .next s' ∧ Issues s s' w t grp "SCOPY"
            ∧ WritesTier s s' .near c (s.near b len))
      -- SCATTER of one row
      ∧ (∀ x j b row stride, x = gatherDescOf n → scatterOk t n = true → x.count = 1 → x.report = 0 → x.add = false →
        x.isLocal = false → windowOf start t.ctx (Use.of 1 anyTier) x.table = none →
        ReadsNear start t.ctx nearFar x.index (entryBytes x.idxKind) b →
        j = leNat (s.near b (entryBytes x.idxKind)) % 2 ^ (if x.idxKind = 0 then 32 else 48) →
        stride = rowStride x.rowFmt x.elems → ReadsNear start t.ctx anyTier x.data stride row →
        (∀ c, j < x.rows → WritesNear start t.ctx nearFarHost (x.table + j * stride) stride c →
          ∃ s', exec (.scatter w g grp d) s = .next s' ∧ Issues s s' w t grp "SCATTER"
            ∧ WritesTier s s' .near c (s.near row stride))
        ∧ (x.rows ≤ j → x.drop = true →
          ∃ s', exec (.scatter w g grp d) s = .next s' ∧ Issues s s' w t grp "SCATTER" ∧ SameBytes s s'
            ∧ s'.sl.dropped = min (2 ^ 48 - 1) (s.sl.dropped + 1)))
      -- COMBINE of rows of one key
      ∧ (∀ x k b vals stride out, x = combineDescOf n → combineOk n = true → t.level ≠ 1 → x.report = 0 → x.add = false →
        x.valLocal = false → windowOf start t.ctx (Use.of 1 anyTier) x.dst = none →
        ReadsNear start t.ctx nearFar x.keys (x.count * entryBytes x.keyKind) b →
        (∀ i, i < x.count → entryIndex x.keyKind true
          (leNat (s.near (b + i * entryBytes x.keyKind) (entryBytes x.keyKind))) = k) → k < x.rows →
        stride = rowStride x.valFmt x.elems → ReadsNear start t.ctx anyTier x.vals (x.count * stride) vals →
        WritesNear start t.ctx nearFar (x.dst + k * rowStride x.dstFmt x.elems) (rowStride x.dstFmt x.elems) out →
        ∃ s', exec (.combine w g grp d) s = .next s' ∧ Issues s s' w t grp "COMBINE"
          ∧ WritesTier s s' .near out (narrowRow x.dstFmt ((List.range (x.count - 1)).foldl (fun sum i =>
              List.zipWith fadd sum (rowFp x.valFmt x.elems (s.near (vals + (i + 1) * stride) stride)))
            (rowFp x.valFmt x.elems (s.near vals stride)))).1)
      -- BMEXP, its list in the cistern
      ∧ (∀ tile dst, sparseDescOk n = true → readSparse (engLoc start w t (bitN n 8) useRead)
          (engineOf start (w.core / 64) 0) t (bitsN n 127 64) = .ok tile →
        bitN n 9 = true → bitsN n 319 256 = 0 → bitsN n 255 192 = 0 → dst = bitsN n 191 128 →
        dst + 4 * tile.listed.length ≤ t.footprint →
        ∃ s', exec (.bmexp w g grp d) s = .next s' ∧ Issues s s' w t grp "BMEXP"
          ∧ WritesCistern s s' w.core dst (tile.listed.flatMap fun e => leBytes 4 (e + bitsN n 63 32)))
      -- GATHER of one row
      ∧ (∀ x j b out, x = gatherDescOf n → gatherOk t n = true → x.count = 1 → x.report = 0 → x.fallback = 0 →
        x.compressed = false → x.isLocal = true → out = rowStride x.outFmt x.elems → x.data + out ≤ t.footprint →
        windowOf start t.ctx (Use.of 0 anyTier) x.table = none →
        ReadsNear start t.ctx nearFar x.index (entryBytes x.idxKind) b →
        j = leNat (s.near b (entryBytes x.idxKind)) % 2 ^ (if x.idxKind = 0 then 32 else 48) →
        (∀ row stride, j < x.rows → stride = rowStride x.rowFmt x.elems →
          range start t.ctx useRead (x.table + j * stride) stride = .ok [(.near, row, stride)] →
          ∃ s', exec (.gather w g grp d) s = .next s' ∧ Issues s s' w t grp "GATHER" ∧ SameBytes s s'
            ∧ ∃ op p, s'.ops.getLast? = some op ∧ op.openPos = [p] ∧ p.dstLocal = true ∧ p.dst = x.data
              ∧ p.bytes = (convertRow x.rowFmt x.outFmt x.elems (s.near row stride)).1)
        ∧ (x.rows ≤ j → x.drop = true →
          ∃ s', exec (.gather w g grp d) s = .next s' ∧ Issues s s' w t grp "GATHER"
            ∧ WritesCistern s s' w.core x.data (List.replicate out 0)
            ∧ ∃ op, s'.ops.getLast? = some op ∧ op.openPos = [] ∧ op.dropped = 1))
      -- PFSCHED
      ∧ (pfOk t n = true → pfListCheck start t d.val n = .ok () →
        ∃ s', exec (.pfsched w g grp d) s = .next s' ∧ Issues s s' w t grp "PFSCHED" ∧ SameBytes s s'
          ∧ ∃ op, s'.ops.getLast? = some op ∧ op.nextPos = bitsN n 135 96 ∧ op.openPos = []))
    ∧ ((samplerQueue s (w.core / 64)).length < 64 → samplersCheck start (w.core / 64) = .ok () →
      -- SHUF
      (∀ b, shufOk n = true → bitsN n 255 192 % 8 = 0 →
        WritesNear start t.ctx nearFar (bitsN n 255 192) (8 * bitsN n 152 128) b →
        ∃ s', exec (.shuf w g grp d) s = .next s' ∧ Issues s s' w t grp "SHUF"
          ∧ WritesTier s s' .near b ((List.range (bitsN n 152 128)).flatMap fun i =>
              leBytes 8 (shufflePi (s.ctx t.ctx).shuffleKey (bitsN n 191 160) (bitsN n 72 32) (bitsN n 119 80 + i)).1))
      -- DEDUP
      ∧ (∀ b es uniq s1 s2 s3, dedupOk n = true → bitsN n 127 64 % 8 = 0 → bitsN n 191 128 % 8 = 0 → bitsN n 255 192 % 4 = 0 →
        bitsN n 319 256 % 8 = 0 → ReadsNear start t.ctx [.near, .far, .flash] (bitsN n 127 64) (8 * bitsN n 56 32) b →
        es = (List.range (bitsN n 56 32)).map (fun i => leNat (s.near (b + 8 * i) 8)) → uniq = uniqueEntries es →
        devWrite start (t.writer w) (Use.of 1 nearFar) (bitsN n 191 128) (uniq.flatMap (leBytes 8)) = .ok s1 →
        devWrite s1 (t.writer w) (Use.of 1 nearFar) (bitsN n 255 192)
          (es.flatMap fun e => leBytes 4 (uniq.findIdx fun x => decide (x % 2 ^ 40 = e % 2 ^ 40))) = .ok s2 →
        devWrite s2 (t.writer w) (Use.of 1 nearFar) (bitsN n 319 256) (leBytes 8 uniq.length) = .ok s3 →
        ∃ s', exec (.dedup w g grp d) s = .next s' ∧ Issues s s' w t grp "DEDUP" ∧ s'.mem = s3.mem ∧ s'.cores = s3.cores)
      -- SAMPLE
      ∧ ∀ s1 op, sampleEffect w grp d s.nextOp t start = (s1, .ok op) →
        ∃ s', exec (.sample w g grp d) s = .next s' ∧ Issues s s' w t grp "SAMPLE" ∧ SameBytes s s')
    -- SEGRED, the sum of each segment, its rows in the cistern
    ∧ (∀ x data rows, x = segDescOf 0 n → segOk 0 n = true → x.backward = false → x.weighted = false → x.outLocal = true →
      readSegData start w t x = .ok data →
      rows = (List.range x.segCount).map (fun i => (narrowRow x.outFmt ((data.edges i).foldl
        (fun sum e => List.zipWith fadd sum (data.row e)) (List.replicate x.elems 0))).1) →
      x.outA + rows.flatten.length ≤ t.footprint →
      ∃ s', exec (.segred w g grp d 0) s = .next s' ∧ Issues s s' w t grp "SEGRED"
        ∧ WritesCistern s s' w.core x.outA rows.flatten)
    -- PREDICT
    ∧ (∀ tile b, t.level ≠ 1 → predictTile w d t start = .ok tile →
      WritesNear start t.ctx nearFarHost (bitsN n 383 320) tile.length b →
      ∃ s', exec (.predict w g grp d) s = .next s' ∧ Issues s s' w t grp "PREDICT" ∧ WritesTier s s' .near b tile)
    -- BMCHK
    ∧ ∀ tile, sparseDescOk n = true → readSparse (readLoc start w t (bitN n 8) useRead) 127 t (bitsN n 127 64) = .ok tile →
      ∃ s', exec (.bmchk w g grp d) s = .next s' ∧ Issues s s' w t grp "BMCHK" ∧ SameBytes s s'

/-- R230, R234, R238, R90: the memory forms of CVTN and CVTW, on a count and addresses that R230 and R102 allow: an
accepted conversion takes effect, joins its group and the unfinished instructions, bound to what it names (R264); a bad
count word ends the parcel as malformed; one whose guard does not act does nothing, and one whose group counter stands at 255
waits. Readings of the model: log entries 9 and 29. -/
def Obligations.MemoryConversionsIssue : Prop :=
  ∀ (s : State) (w : Who) (t : Task) (g : Guard) (grp : Fin 8) (ra rb rc : Fin 64) (src dst : BitVec 4)
    (block : BitVec 2) (sr : Bool), Ready s w t →
    ∀ i ∈ ([(.cvtnMemory w g grp ra rb rc src dst block sr, "CVTN",
          cvtMemFunc (decide (t.level ≠ 1)) true (cvtFunc src dst block sr), cvtnElems src dst block sr),
        (.cvtwMemory w g grp ra rb rc src dst block, "CVTW",
          cvtMemFunc (decide (t.level ≠ 1)) false (cvtFunc src dst block false), cvtwElems src dst)] :
        List (Instr × String × Bool × (Task → Nat → List (Nat × Nat) → List Nat × List Nat × Counts))),
    ∀ (start : State) (n cnt blk : Nat),
      start = { (issued w s).setTask w (t.join grp).advance with nextOp := s.nextOp + 1 } →
      n = (t.sreg rc).toNat → cnt = n % 2 ^ 32 → blk = 16 * 2 ^ block.toNat →
      (i.2.2.1 = false → t.acts g = false ∨ t.groups.get 0 grp.val < 255 →
        EndsParcel (exec i.1 s) s w t (.violation 2 4 t.pc.toNat))
      ∧ (i.2.2.1 = true → t.acts g = false → RunsTask (exec i.1 s) s w (GoesTo t (t.pc + 8)))
      ∧ (i.2.2.1 = true → t.acts g = true → 255 ≤ t.groups.get 0 grp.val → exec i.1 s = .next s)
      ∧ (t.acts g = true → t.groups.get 0 grp.val < 255 →
      (i.2.2.1 = true → cvtCountOk n blk (isBlock src.toNat || isBlock dst.toNat) = false →
        exec i.1 s = .next (failParcel t.ctx t.hostSeq (some w) t.pc (w.core / 64) (.violation 2 4 t.pc.toNat) start))
      ∧ (i.2.2.1 = true → cvtCountOk n blk (isBlock src.toNat || isBlock dst.toNat) = true →
        (t.sreg ra).toNat % max 1 (codeBits src.toNat / 8) = 0 → (t.sreg rb).toNat % max 1 (codeBits dst.toNat / 8) = 0 →
        ∀ xs y s1, readArray start w t (n.testBit 61) src.toNat (t.sreg ra).toNat cnt blk = .ok xs →
          y = i.2.2.2 t (if n.testBit 62 then 2 ^ 57 + (t.sreg rb).toNat else (t.sreg rb).toNat) xs →
          writeArray start w t (n.testBit 62) dst.toNat (t.sreg rb).toNat y.1 y.2.1 = .ok s1 →
          exec i.1 s = .next (ownHeld s.dg.held.length s.nextOp
            { countNum t.ctx t.hostSeq (w.core / 64) y.2.2 s1 with
              ops := s1.ops ++ [(AsyncOp.of s.nextOp w t grp.val i.2.1).bind start
                (cvtNamed ra rb rc src dst block t start)] })))

/-- R226 to R229, R237, R238, Table 4.13: the register forms. CVTN and CVTW convert each admitted lane and count what
saturates or is not finite; SPLIT and JOIN move the planes of R236; SPLITX and JOINX act on the extended master.
Readings of the model: log entry 29. -/
def Obligations.RegisterConversionResults : Prop :=
  ∀ (s : State) (w : Who) (t : Task) (g : Guard) (vd va vb vc : Fin 32) (rc : Fin 64) (src dst : BitVec 4) (sr : Bool),
    Ready s w t →
    RunsTask (exec (.split w g vd va true) s) s w (WritesLanes t g vd fun l => (t.lane va l) % 65536)
    ∧ RunsTask (exec (.split w g vd va false) s) s w (WritesLanes t g vd fun l => (t.lane va l) >>> 16)
    ∧ RunsTask (exec (.join w g vd va vb) s) s w
        (WritesLanes t g vd fun l => (t.lane va l) <<< 16 ||| (t.lane vb l) % 65536)
    ∧ (cvtRegFunc (decide (t.level ≠ 1)) true (cvtFunc src dst 0 sr) = true →
        ∀ f : Nat → Nat × Counts, (∀ l, f l = narrow dst.toNat
          (if sr then .stochastic (drawOf t (((t.sreg rc).toNat + l) % 2 ^ 64)) else .nearest)
          (elVal src.toNat ((t.lane va l).toNat % 2 ^ codeBits src.toNat) 0)) →
        RunsCounted (exec (.cvtnRegister w g vd va rc src dst sr) s) s w t (t.sumCounts g fun l => (f l).2)
          (WritesLanes t g vd fun l => BitVec.ofNat 32 (f l).1))
    ∧ (cvtRegFunc (decide (t.level ≠ 1)) false (cvtFunc src dst 0 false) = true →
        ∀ f : Nat → Nat × Bool, (∀ l, f l = widenTo src.toNat dst.toNat ((t.lane va l).toNat % 2 ^ codeBits src.toNat) 0) →
        RunsCounted (exec (.cvtwRegister w g vd va src dst) s) s w t
          (t.sumCounts g fun l => ⟨0, if (f l).2 then 1 else 0⟩) (WritesLanes t g vd fun l => BitVec.ofNat 32 (f l).1))
    ∧ (t.level ≠ 1 → ∀ m : Nat → Nat, (∀ l, m l = fmt40.enc false
          ((fmt40.val ((t.lane va l).toNat * 256 + (t.lane vb l).toNat % 256)).add (f32 (t.lane vc l)))) →
        RunsCounted (exec (.splitx w g vd va vb vc true) s) s w t
          (t.sumCounts g fun _ => ⟨0, 0⟩) (WritesLanes t g vd fun l => BitVec.ofNat 32 (m l % 256))
        ∧ RunsCounted (exec (.splitx w g vd va vb vc false) s) s w t
          (t.sumCounts g fun l => ⟨0, if nonfin (BitVec.ofNat 32 (m l / 256)) then 1 else 0⟩)
          (WritesLanes t g vd fun l => BitVec.ofNat 32 (m l / 256)))
    ∧ (t.level ≠ 1 → ∀ f : Nat → Nat × Counts, (∀ l, f l = narrowFmt fmt32 .nearest
          (fmt40.val ((t.lane va l).toNat * 256 + (t.lane vb l).toNat % 256))) →
        RunsCounted (exec (.joinx w g vd va vb) s) s w t (t.sumCounts g fun l => (f l).2)
          (WritesLanes t g vd fun l => BitVec.ofNat 32 (f l).1))

/-- R242 to R245, Table 4.15: RKEY loads the keyed seed and stream; RDK writes 32 bits of each lane's keyed block;
RINIT starts each admitted lane 2^64 draws past the one before; RDR advances each admitted lane by one draw. Readings
of the model: log entry 11. -/
def Obligations.RandomNumberInstructions : Prop :=
  ∀ (s : State) (w : Who) (t : Task) (g : Guard) (vd : Fin 32) (ra rb : Fin 64), Ready s w t →
    (t.level ≠ 1 → t.acts g = true → RunsTask (exec (.rkey w g ra rb) s) s w (fun t' =>
        t' = { t with keySeed := t.sreg ra, keyStream := (t.sreg rb).truncate 40, pc := t.pc + 8, status := .ready }))
    ∧ (t.level ≠ 1 → RunsTask (exec (.rdk w g vd ra) s) s w (WritesLanes t g vd fun l =>
        (keyed t.keySeed t.keyStream (BitVec.ofNat 24 ((t.sreg ra).toNat + l))).truncate 32))
    ∧ (t.level = 1 → EndsParcel (exec (.rkey w g ra rb) s) s w t (.violation 2 4 t.pc.toNat)
        ∧ EndsParcel (exec (.rdk w g vd ra) s) s w t (.violation 2 4 t.pc.toNat))
    ∧ RunsTask (exec (.rinit w g ra) s) s w (fun t' =>
        (∀ l, l < t.lanes → t.guardBit g l = true →
          t'.rngLane l = (autoLanes (autoPow 64) t.lanes (autoSeed (t.sreg ra))).getD l 0)
        ∧ (∀ l, t.guardBit g l = false → t'.rngLane l = t.rngLane l)
        ∧ { t' with rng := t.rng } = { t with pc := t.pc + 8, status := .ready })
    ∧ RunsTask (exec (.rdr w g vd) s) s w (fun t' =>
        (∀ l, t'.lane vd l = if t.guardBit g l then (mixround (mixround (autoStep (t.rngLane l)) 0) 1).truncate 32
          else t.lane vd l)
        ∧ (∀ r l, r ≠ vd → t'.lane r l = t.lane r l)
        ∧ (∀ l, t'.rngLane l = if t.guardBit g l then autoStep (t.rngLane l) else t.rngLane l)
        ∧ { t' with vregs := t.vregs, rng := t.rng } = { t with pc := t.pc + 8, status := .ready })

/-! ### System instructions -/

/-- R93, R97 to R99: ENTRY at a RUN's entry. One that is guarded off does nothing, as bit 0 of p0 reads as one before a lane
count stands (the model's reading, log entry 22). A level other than the context's ends the RUN with LEVEL_MISMATCH and no fault
record; a lane field that R98 does not allow, a reserved bit or a footprint other than that of the core's running tasks
ends the parcel with access 2 and cause 4; otherwise the task takes its level, lane count and footprint and goes on. -/
def Obligations.EntryStartsTheTask : Prop :=
  ∀ (s : State) (w : Who) (t : Task) (g : Guard) (imm : W32) (level lanes foot : Nat), s.task w = some t →
    canIssue s w t = true → t.entered = false → level = imm.toNat % 16 → lanes = imm.toNat / 16 % 4 →
    foot = 65536 * (imm.toNat / 64 % 64 + 1) →
    (4096 ≤ imm.toNat → EndsParcel (exec (.entry w g imm) s) s w t (.violation 2 4 t.pc.toNat))
    ∧ (imm.toNat < 4096 → t.acts g = false → RunsTask (exec (.entry w g imm) s) s w (GoesTo t (t.pc + 8)))
    ∧ (imm.toNat < 4096 → t.acts g = true → level ≠ (s.ctx t.ctx).regs.level.toNat →
        EndsParcel (exec (.entry w g imm) s) s w t (.status 0xE 0))
    ∧ (imm.toNat < 4096 → t.acts g = true → level = (s.ctx t.ctx).regs.level.toNat →
        (lanes = 3 ∨ (level ≠ 1 ∧ lanes ≠ 0) ∨ ∃ f, (s.core w.core).footprint = some f ∧ f ≠ foot) →
        EndsParcel (exec (.entry w g imm) s) s w t (.violation 2 4 t.pc.toNat))
    ∧ (imm.toNat < 4096 → t.acts g = true → level = (s.ctx t.ctx).regs.level.toNat → lanes ≠ 3 → (level = 1 ∨ lanes = 0) →
        ((s.core w.core).footprint = none ∨ (s.core w.core).footprint = some foot) →
        ∃ s' t', exec (.entry w g imm) s = .next s' ∧ s'.task w = some t'
          ∧ t' = { t with
              entered := true, level := BitVec.ofNat 4 level, footprint := foot
              width := if lanes = 0 then .l64 else if lanes = 1 then .l32 else .l16
              pc := t.pc + 8, status := .ready }
          ∧ (∀ x : Who, Who.key x ≠ Who.key w → s'.task x = s.task x)
          ∧ s'.core w.core = { (issued w s).core w.core with footprint := some foot }
          ∧ s'.parcel t.ctx t.hostSeq = (s.parcel t.ctx t.hostSeq).map (fun p => { p with pastEntry := true })
          ∧ { s' with tasks := s.tasks, cores := s.cores, ctxs := s.ctxs } = s)

/-- R104, R89, R109, Table 4.16: HALT ends the task at once where nothing asynchronous is outstanding, and its slot is
then free and its RUN has one task less; otherwise the task waits for its asynchronous instructions. YIELD gives up an issue
round: no other ready slot of its core comes after it. IFENCE and NOP only go on, and a later ENTRY does too (log entry 22, the model's reading), but is malformed
where its lane field is one that R98 does not allow. Readings of the model: log entry 20. -/
def Obligations.HaltYieldAndNop : Prop :=
  ∀ (s : State) (w : Who) (t : Task) (g : Guard), Ready s w t →
    (t.acts g = true → t.groups.all (fun e => e.2 = 0) = true →
      ∃ s', exec (.halt w g) s = .next s' ∧ s'.task w = none
        ∧ (∀ x : Who, Who.key x ≠ Who.key w → s'.task x = s.task x)
        ∧ s'.parcel t.ctx t.hostSeq = (s.parcel t.ctx t.hostSeq).map (fun p => { p with running := p.running - 1 })
        ∧ SameBytes s s' ∧ (∀ o, o ∈ s'.loose ↔ o ∈ s.loose ∧ o.who ≠ w)
        ∧ { s' with tasks := s.tasks, cores := s.cores, ctxs := s.ctxs, loose := s.loose } = s)
    ∧ (t.acts g = true → t.groups.all (fun e => e.2 = 0) = false →
      RunsTask (exec (.halt w g) s) s w (fun t' => t' = { t with pc := t.pc + 8, status := .haltPending }))
    ∧ (t.acts g = true → w.slot < 4 → ∃ s' t', exec (.yield w g) s = .next s' ∧ s'.task w = some t'
        ∧ t' = { t with pc := t.pc + 8, status := .ready } ∧ OthersKept s s' w
        ∧ s'.core w.core = { (issued w s).core w.core with yields := BitVec.twoPow 4 w.slot }
        ∧ (∀ c, c ≠ w.core → s'.core c = s.core c) ∧ { s' with tasks := s.tasks, cores := s.cores } = s
        ∧ ((∃ k, k < 4 ∧ k ≠ w.slot ∧ slotReady s' w.core k = true) → canIssue s' w t' = false))
    ∧ RunsTask (exec (.ifence w g) s) s w (GoesTo t (t.pc + 8))
    ∧ RunsTask (exec (.nop w g) s) s w (GoesTo t (t.pc + 8))
    ∧ ∀ (imm : W32) (level lanes : Nat), level = imm.toNat % 16 → lanes = imm.toNat / 16 % 4 →
      (imm.toNat < 4096 → lanes ≠ 3 → (level ≠ 2 ∨ lanes = 0) → RunsTask (exec (.entry w g imm) s) s w (GoesTo t (t.pc + 8)))
      ∧ (4096 ≤ imm.toNat ∨ lanes = 3 ∨ (level = 2 ∧ lanes ≠ 0) →
        EndsParcel (exec (.entry w g imm) s) s w t (.violation 2 4 t.pc.toNat))

/-- R93, R96, R253, R49, R239 to R241, Table 4.16: RDINFO writes the item it names, an item above 4 is malformed; PHASE sets the
phase of the core, at level 2 alone, and a phase above 5 is malformed. A LOSS report takes the verdict of R241 to rd and the
detector of its context forward: the first report sets the mean; a report that is no finite number changes nothing in the detector
and is counted; a spike or a non-finite report raises one numeric event. Guarded off, none of the three does anything. -/
def Obligations.InformationPhaseAndLoss : Prop :=
  (∀ (s : State) (w : Who) (t : Task) (g : Guard) (rd : Fin 64) (imm : W32), Ready s w t →
    (imm.toNat ≤ 4 → t.acts g = false → RunsTask (exec (.rdinfo w g rd imm) s) s w (GoesTo t (t.pc + 8)))
    ∧ (t.level ≠ 1 → imm.toNat ≤ 5 → t.acts g = false → RunsTask (exec (.phase w g imm) s) s w (GoesTo t (t.pc + 8)))
    ∧ (4 < imm.toNat → EndsParcel (exec (.rdinfo w g rd imm) s) s w t (.violation 2 4 t.pc.toNat))
    ∧ (t.acts g = true →
      (imm = 0 → RunsTask (exec (.rdinfo w g rd imm) s) s w (WritesScalar t rd (BitVec.ofNat 64 (w.core + 512 * w.slot))))
      ∧ (imm = 2 → RunsTask (exec (.rdinfo w g rd imm) s) s w (WritesScalar t rd (BitVec.ofNat 64 t.ctx)))
      ∧ (imm = 3 → RunsTask (exec (.rdinfo w g rd imm) s) s w (WritesScalar t rd (BitVec.ofNat 64 t.lanes)))
      ∧ (imm = 4 → RunsTask (exec (.rdinfo w g rd imm) s) s w (WritesScalar t rd 64))
      ∧ (imm = 1 → ∃ s' t' ticks, exec (.rdinfo w g rd imm) s = .next s' ∧ s'.task w = some t'
          ∧ (s.die (w.core / 64)).ticks ≤ ticks ∧ (s'.die (w.core / 64)).ticks = ticks
          ∧ WritesScalar t rd (BitVec.ofNat 64 (w.core / 64 * 2 ^ 60 + ticks % 2 ^ 60)) t'
          ∧ OnlyTask s { s' with dies := s.dies, freeCount := s.freeCount } w))
    ∧ (t.level = 1 ∨ 5 < imm.toNat → EndsParcel (exec (.phase w g imm) s) s w t (.violation 2 4 t.pc.toNat))
    ∧ (t.level ≠ 1 → imm.toNat ≤ 5 → t.acts g = true → ∃ s', exec (.phase w g imm) s = .next s'
        ∧ s'.task w = some { t with pc := t.pc + 8, status := .ready }
        ∧ (∀ x : Who, Who.key x ≠ Who.key w → s'.task x = s.task x)
        ∧ (s'.core w.core).mark.map Fin.val = some imm.toNat
        ∧ { s'.core w.core with mark := none } = { (issued w s).core w.core with mark := none }
        ∧ { s' with tasks := s.tasks, cores := s.cores } = s))
  ∧ ∀ (s : State) (w : Who) (t : Task) (g : Guard) (rd ra : Fin 64) (imm : W32) (x : W32) (d : Detector),
    Ready s w t → d = (s.ctx t.ctx).det → x = (t.sreg ra).truncate 32 →
    (t.level = 1 ∨ imm.toNat % 16 = 0 ∨ imm.toNat / 16 % 256 = 0 ∨ 2 ^ 22 ≤ imm.toNat →
      EndsParcel (exec (.loss w g rd ra imm) s) s w t (.violation 2 4 t.pc.toNat))
    ∧ (t.level ≠ 1 → imm.toNat % 16 ≠ 0 → imm.toNat / 16 % 256 ≠ 0 → imm.toNat < 2 ^ 22 → t.acts g = false →
      RunsTask (exec (.loss w g rd ra imm) s) s w (GoesTo t (t.pc + 8)))
    ∧ (t.level ≠ 1 → imm.toNat % 16 ≠ 0 → imm.toNat / 16 % 256 ≠ 0 → imm.toNat < 2 ^ 22 → t.acts g = true →
      ∃ s' t', exec (.loss w g rd ra imm) s = .next s' ∧ s'.task w = some t'
        ∧ (nonfin x = true → WritesScalar t rd (0x7FC00000 + 2 ^ 33) t' ∧ (s'.ctx t.ctx).det = d
            ∧ (s'.ctx t.ctx).regs.nonfinite = min (2 ^ 48 - 1) ((s.ctx t.ctx).regs.nonfinite + 1)
            ∧ s'.log.classes.get 0 3 = min (2 ^ 48 - 1) (s.log.classes.get 0 3 + 1))
        ∧ (nonfin x = false → d.count = 0 → WritesScalar t rd (2 ^ 34) t' ∧ (s'.ctx t.ctx).det = ⟨1, x, 0⟩
            ∧ s'.log = s.log)
        ∧ (nonfin x = false → d.count ≠ 0 → ∀ v, v = detect d x imm.toNat → WritesScalar t rd v.2.word t'
            ∧ (s'.ctx t.ctx).det = v.1 ∧ v.2.z = round32 ((f32 (round32 ((f32 x).add (f32 d.mean).neg))).mul
              (f32 (frsq d.var)))
            ∧ v.2.warming = decide (d.count.toNat < imm.toNat / 4096 % 256) ∧ v.2.nonfinite = false
            ∧ (v.2.warming = true → v.2.spike = false)
            ∧ s'.log.classes.get 0 3 =
              if v.2.spike then min (2 ^ 48 - 1) (s.log.classes.get 0 3 + 1) else s.log.classes.get 0 3)
        ∧ { s' with tasks := s.tasks, ctxs := s.ctxs, log := s.log, dies := s.dies, freeCount := s.freeCount } = issued w s)

/-! ### Tallies (12_tallies_sync.md) -/

/-- R326: a WAIT, SIGNAL or SIGNAL_ALL that is guarded off is not sent to the tally, claims nothing and records nothing: its task
goes on to the next instruction, and nothing else changes. -/
def Obligations.GuardedOffSyncSendsNothing : Prop :=
  ∀ (s : State) (w : Who) (t : Task) (g : Guard) (ra rb : Fin 64), Ready s w t → t.acts g = false →
    ∀ i ∈ [Instr.wait w g ra, .signal w g ra rb, .signalAll w g ra], ∃ s', exec i s = .next s'
      ∧ s'.inflight = s.inflight ∧ s'.tallies = s.tallies ∧ s'.tl = s.tl ∧ s'.grants = s.grants
      ∧ TaskBecomes s s' w { t with pc := t.pc + 8, status := .ready }

/-- R322, R323, R325, R107, R106, R93: WAIT sends its operation and holds the task; SIGNAL and SIGNAL_ALL send theirs
once the task's asynchronous instructions have finished and none of its writes is held, and wait until then; CWAIT
goes on once the counter of its group is low enough, or where it is guarded off; MFENCE goes on.
Readings of the model: log entry 44. -/
def Obligations.SyncInstructionsAreSent : Prop :=
  ∀ (s : State) (w : Who) (t : Task) (g : Guard) (ra rb : Fin 64) (grp : Fin 8) (atMost : Byte) (tally : Nat),
    Ready s w t → tally = (t.sreg ra).toNat % 65536 →
    (t.acts g = true →
      (∃ s', exec (.wait w g ra) s = .next s'
        ∧ s'.task w = some { t with pc := t.pc + 8, status := .waitHeld, waitTally := tally }
        ∧ s'.inflight = s.inflight ++ [⟨.wait, tally, w, t.ctx, t.hostSeq, none, t.taskIndex, t.pc, false⟩]
        ∧ OnlyTask s { s' with inflight := s.inflight } w)
      ∧ (t.groups.all (fun e => e.2 = 0) = true → heldBy s w = false →
        ∀ i ∈ ([(.signal w g ra rb, .signal ((t.sreg rb).toNat % 65536)), (.signalAll w g ra, .signalAll)] :
            List (Instr × SyncKind)),
          ∃ s', exec i.1 s = .next s' ∧ s'.task w = some { t with pc := t.pc + 8, status := .ready }
            ∧ s'.inflight = s.inflight ++ [⟨i.2, tally, w, t.ctx, t.hostSeq, none, t.taskIndex, t.pc, false⟩]
            ∧ OnlyTask s { s' with inflight := s.inflight } w)
      ∧ (t.groups.all (fun e => e.2 = 0) = false ∨ heldBy s w = true →
        exec (.signal w g ra rb) s = .next s ∧ exec (.signalAll w g ra) s = .next s)
      ∧ (atMost.toNat < t.groups.get 0 grp.val → exec (.cwait w g grp atMost) s = .next s)
      ∧ (t.groups.get 0 grp.val ≤ atMost.toNat → ∃ s', exec (.cwait w g grp atMost) s = .next s'
        ∧ s'.task w = some { t with pc := t.pc + 8, status := .ready } ∧ OnlyTask s { s' with loose := s.loose } w
        ∧ s'.loose = s.loose.filter fun o => !(o.who = w && o.group = grp.val && decide (atMost.toNat < o.place))))
    ∧ (t.acts g = false →
      RunsTask (exec (.cwait w g grp atMost) s) s w (GoesTo t (t.pc + 8)))
    ∧ RunsTask (exec (.mfence w g) s) s w (GoesTo t (t.pc + 8))

/-- R319, R321 to R325, R331, R335: an operation applied at its tally, in the order of its route (the model's reading, log entry
44). A WAIT takes a held grant or joins the tail of the queue; one that finds the waiter pool full stays at issue, and is counted
once; a SIGNAL grants the first waiters and adds the rest to count, or ends its parcel where count would pass 65,535; a SIGNAL_ALL
grants every waiter; each signal advances the sequence; a poisoned tally ends the parcel with OWNER_LOST and changes nothing. -/
def Obligations.OperationsAtTheirTally : Prop :=
  ∀ (s s0 : State) (k : Nat) (m : SyncMsg) (t : Tally), s.active = true → s.inflight[k]? = some m →
    nextOnRoute s k m = true → s0 = { s with inflight := s.inflight.eraseIdx k } → t = s.tally m.tally →
    (t.poisoned = true →
      (m.kind = .wait → exec (.waitApplied k) s = .next (endParcel m.ctx m.hostSeq 7 0 s0))
      ∧ (∀ n, m.kind = .signal n → exec (.signalApplied k) s = .next (endParcel m.ctx m.hostSeq 7 0 s0))
      ∧ (m.kind = .signalAll → exec (.signalAllApplied k) s = .next (endParcel m.ctx m.hostSeq 7 0 s0)))
    ∧ (t.poisoned = false →
      (m.kind = .wait → 0 < t.count → ∃ s', exec (.waitApplied k) s = .next s'
        ∧ s'.tally m.tally = { t with
            count := t.count - 1, owned := true, owner := if t.owned then t.owner else m.ctx }
        ∧ s'.grants = s.grants ++ [⟨m.who, m.ctx, m.hostSeq, m.task, m.pf, true, m.tally / 8192 % 8⟩]
        ∧ (∀ j, j ≠ m.tally → s'.tally j = s.tally j)
        ∧ { s' with tallies := s.tallies, grants := s.grants } = s0)
      ∧ (m.kind = .wait → t.count = 0 → poolFull s m.tally = false →
        ∃ s' e, exec (.waitApplied k) s = .next s' ∧ (s'.tally m.tally).queue = t.queue ++ [e]
          ∧ e.who = m.who ∧ e.ctx = m.ctx ∧ e.hostSeq = m.hostSeq ∧ e.task = m.task ∧ e.pf = m.pf
          ∧ (s'.tally m.tally).count = 0 ∧ (s'.tally m.tally).owned = true
          ∧ (∀ j, j ≠ m.tally → (s'.tally j).queue = (s.tally j).queue ∧ (s'.tally j).count = (s.tally j).count)
          ∧ s'.grants = s.grants ∧ SameBytes s s')
      ∧ (m.kind = .wait → t.count = 0 → poolFull s m.tally = true → ∃ s', exec (.waitApplied k) s = .next s'
          ∧ s'.tallies = s.tallies ∧ s'.grants = s.grants
          ∧ (m.stalled = false → s'.tl.poolFull.get 0 (m.tally / 8192 % 8)
              = min (2 ^ 48 - 1) (s.tl.poolFull.get 0 (m.tally / 8192 % 8) + 1))
          ∧ (m.stalled = true → s'.tl = s.tl)
          ∧ (m.pf = none → s'.inflight = s0.inflight
              ∧ s'.task m.who = (s.task m.who).map fun t => { t with status := .poolFull })
          ∧ (∀ o, m.pf = some o → s'.inflight = s0.inflight ++ [{ m with stalled := true }] ∧ s'.tasks = s.tasks)
          ∧ { s' with tasks := s.tasks, ops := s.ops, inflight := s.inflight, tl := s.tl } = s)
      ∧ (∀ n, m.kind = .signal n → t.count + (n - t.queue.length) ≤ 65535 →
        ∃ s', exec (.signalApplied k) s = .next s'
          ∧ (s'.tally m.tally).queue = t.queue.drop n ∧ (s'.tally m.tally).count = t.count + (n - t.queue.length)
          ∧ s'.grants = s.grants ++ (t.queue.take n).map (fun e =>
              ⟨e.who, e.ctx, e.hostSeq, e.task, e.pf, true, m.tally / 8192 % 8⟩)
          ∧ (s'.tally m.tally).sigSeq = t.sigSeq + 1 ∧ (s'.tally m.tally).sigHost = m.hostSeq
          ∧ (s'.tally m.tally).owned = true
          ∧ (∀ j, j ≠ m.tally → (s'.tally j).queue = (s.tally j).queue ∧ (s'.tally j).count = (s.tally j).count)
          ∧ { s' with tallies := s.tallies, grants := s.grants } = s0)
      ∧ (∀ n, m.kind = .signal n → 65535 < t.count + (n - t.queue.length) → exec (.signalApplied k) s
          = .next (failParcel m.ctx m.hostSeq (some m.who) m.pc (m.who.core / 64)
            (.violation 5 4 (0xE000000000000000 + m.tally)) s0))
      ∧ (m.kind = .signalAll → ∃ s', exec (.signalAllApplied k) s = .next s'
          ∧ (s'.tally m.tally).queue = [] ∧ (s'.tally m.tally).count = t.count
          ∧ s'.grants = s.grants ++ t.queue.map (fun e =>
              ⟨e.who, e.ctx, e.hostSeq, e.task, e.pf, true, m.tally / 8192 % 8⟩)
          ∧ (s'.tally m.tally).sigSeq = t.sigSeq + 1
          ∧ { s' with tallies := s.tallies, grants := s.grants } = s0))

/-- R327, R329, R331, R333: a grant wakes the task that waits for it, or is kept with the saved task; a hold window
that runs out deschedules its task and counts it; a WAIT held back by a full pool is sent again once it has room; a
lease that runs out loses the tally's owner: its waiters' parcels end with OWNER_LOST. Readings of the model: log entry 44. -/
def Obligations.WaitingTasksWakeAndExpire : Prop :=
  (∀ (s : State) (k : Nat) (g : Grant) (t : Task), s.active = true → s.grants[k]? = some g → g.pf = none →
    nextGrant s k g = true → s.task g.who = some t → t.ctx = g.ctx → t.hostSeq = g.hostSeq → t.taskIndex = g.task →
    (t.status = .waitHeld ∨ t.status = .waitDesched ∨ t.status = .arriveHeld ∨ t.status = .arriveDesched) →
    exec (.grantWake k) s
      = .next { s.setTask g.who { t with status := .ready } with grants := s.grants.eraseIdx k })
  ∧ (∀ (s : State) (k : Nat) (g : Grant), s.active = true → s.grants[k]? = some g → g.pf = none →
    nextGrant s k g = true → s.task g.who = none →
    (∃ o ∈ s.saved, o.ctx = g.ctx ∧ o.hostSeq = g.hostSeq ∧ ∃ x ∈ o.tasks, x.2.1.taskIndex = g.task ∧ x.2.2 = false) →
    ∃ s', exec (.grantWake k) s = .next s' ∧ s'.grants = s.grants.eraseIdx k ∧ s'.tasks = s.tasks
      ∧ s'.saved = s.saved.map fun o => if o.ctx = g.ctx ∧ o.hostSeq = g.hostSeq then
          { o with tasks := o.tasks.map fun x => (x.1, x.2.1, x.2.2 || decide (x.2.1.taskIndex = g.task)) } else o)
  ∧ (∀ (s : State) (w : Who) (t : Task), s.task w = some t → t.status = .arriveHeld →
    exec (.holdWindowExpiry w) s = .next { s.setTask w { t with status := .arriveDesched } with
      tl := { s.tl with desched := min (2 ^ 48 - 1) (s.tl.desched + 1) } })
  ∧ (∀ (s : State) (w : Who) (t : Task), s.task w = some t → t.status = .waitHeld →
    ∃ s', exec (.holdWindowExpiry w) s = .next s' ∧ s'.task w = some { t with status := .waitDesched }
      ∧ s'.tl = { s.tl with desched := min (2 ^ 48 - 1) (s.tl.desched + 1) }
      ∧ (∀ n, (s'.tally n).queue.map (·.who) = (s.tally n).queue.map (·.who) ∧ (s'.tally n).count = (s.tally n).count)
      ∧ { s' with tasks := s.tasks, tallies := s.tallies, tl := s.tl } = s)
  ∧ (∀ (s : State) (w : Who) (t : Task), s.active = true → s.task w = some t → t.status = .poolFull →
    poolFull s t.waitTally = false →
    exec (.waitPoolResend w) s = .next { s.setTask w { t with status := .waitHeld } with
      inflight := s.inflight ++ [⟨.wait, t.waitTally, w, t.ctx, t.hostSeq, none, t.taskIndex, t.pc - 8, false⟩] })
  ∧ ∀ (s : State) (n : Nat), (s.tally n).lease = true → (s.tally n).poisoned = false →
    ∃ s', exec (.leaseExpiry n) s = .next s' ∧ (s'.tally n).poisoned = true ∧ (s'.tally n).queue = []
      ∧ (s'.tally n).count = (s.tally n).count ∧ (s'.tally n).owner = (s.tally n).owner
      ∧ s'.tl.poisons = min (2 ^ 48 - 1) (s.tl.poisons + 1)
      ∧ s'.tl.ownerLost = min (2 ^ 48 - 1) (s.tl.ownerLost + (s.tally n).queue.length)
      ∧ s'.log.classes.get 0 4 = min (2 ^ 48 - 1) (s.log.classes.get 0 4 + 1)
      ∧ LoseOwner s s' ((s.tally n).queue.map fun e => (e.ctx, e.hostSeq))

/-- R336, R345, R346: TL_RESET resets the tallies of its range, which stops at 65,535, one at a time, and the parcels of their
waiters end with OWNER_LOST. The first is reset by the write itself and the others at steps without a command (the model's own, log
entry 53); busy reads 1 until the last, and a write that finds it busy is ignored. A snapshot latches one tally and changes none; a
hand set acts while debug is unlocked, and otherwise, or on a poisoned tally, is refused. -/
def Obligations.TallyRegistersAct : Prop :=
  (∀ (s : State) (first countM1 : Nat), HostReady s → first < 65536 → countM1 < 65536 →
    (s.tl.resetBusy = true → exec (.tallyReset first countM1) s = .next s)
    ∧ (s.tl.resetBusy = false → ∃ s', exec (.tallyReset first countM1) s = .next s' ∧ s'.tally first = Tally.reset
      ∧ s'.tl.resetFirst.toNat = first ∧ s'.tl.resetCountM1.toNat = countM1 ∧ s'.tl.resetNext = first + 1
      ∧ s'.tl.resetLeft = min 65535 (first + countM1) - first
      ∧ s'.tl.resetBusy = decide (first < min 65535 (first + countM1))
      ∧ LoseOwner s s' ((s.tally first).queue.map fun e => (e.ctx, e.hostSeq))
      ∧ ∀ n, n ≠ first → (s'.tally n).count = (s.tally n).count ∧ (s'.tally n).owned = (s.tally n).owned
          ∧ (s'.tally n).poisoned = (s.tally n).poisoned ∧ (s'.tally n).sigSeq = (s.tally n).sigSeq))
  ∧ (∀ s : State, s.active = true → s.tl.resetBusy = true → (nextReset s).tally s.tl.resetNext = Tally.reset
    ∧ (nextReset s).tl.resetNext = s.tl.resetNext + 1 ∧ (nextReset s).tl.resetBusy = decide (1 < s.tl.resetLeft)
    ∧ LoseOwner s (nextReset s) ((s.tally s.tl.resetNext).queue.map fun e => (e.ctx, e.hostSeq))
    ∧ ∀ n, n ≠ s.tl.resetNext → ((nextReset s).tally n).count = (s.tally n).count
        ∧ ((nextReset s).tally n).owned = (s.tally n).owned ∧ ((nextReset s).tally n).poisoned = (s.tally n).poisoned)
  ∧ (∀ (s : State) (n : Nat), HostReady s → n < 65536 → ∃ s', exec (.tallySnapshot n) s = .next s'
      ∧ s'.tl.sel.toNat = n ∧ s'.tl.selWord = (s.tally n).word ∧ s'.tl.selWaiters = (s.tally n).queue.length
      ∧ s'.tl.selQueue = (s.tally n).queue.take 64 ∧ { s' with tl := s.tl } = s)
  ∧ ∀ (s : State) (n v : Nat), HostReady s → n < 65536 → v < 65536 →
    (debugOpen s 1 = false ∨ (s.tally n).poisoned = true →
      (∃ s', exec (.handSetSignal n v) s = .next s' ∧ s'.tl.setRefused = true ∧ s'.tallies = s.tallies
        ∧ s'.log.classes.get 0 10 = min (2 ^ 48 - 1) (s.log.classes.get 0 10 + 1))
      ∧ ∃ s', exec (.handSetCount n v) s = .next s' ∧ s'.tl.setRefused = true ∧ s'.tallies = s.tallies
        ∧ s'.log.classes.get 0 10 = min (2 ^ 48 - 1) (s.log.classes.get 0 10 + 1))
    ∧ (debugOpen s 1 = true → (s.tally n).poisoned = false →
      ((s.tally n).count + (v - (s.tally n).queue.length) ≤ 65535 → ∃ s', exec (.handSetSignal n v) s = .next s'
        ∧ s'.tl.setRefused = false ∧ (s'.tally n).queue = (s.tally n).queue.drop v
        ∧ (s'.tally n).count = (s.tally n).count + (v - (s.tally n).queue.length)
        ∧ (s'.tally n).byHand = true ∧ (s'.tally n).sigSeq = (s.tally n).sigSeq + 1)
      ∧ ((s.tally n).queue = [] → ∃ s', exec (.handSetCount n v) s = .next s' ∧ s'.tl.setRefused = false
        ∧ (s'.tally n).count = v ∧ (s'.tally n).queue = [] ∧ (s'.tally n).byHand = true)
      ∧ ((s.tally n).queue ≠ [] → ∃ s', exec (.handSetCount n v) s = .next s' ∧ s'.tl.setRefused = true
        ∧ s'.tallies = s.tallies))

/-! ### Barriers -/

/-- R338, R342, Table 12.6: a bind is refused, and changes nothing else, on a slot that is bound, with more than 2,048 arrivals,
beside a bound slot of the same group and context, with a parent that is also a child, or with no arrivals and no child;
otherwise it starts the slot at generation 0. While a slot is bound its configuration is locked, to a write of a whole register
or of either half. A slot that holds no task is unbound. -/
def Obligations.CheckSlotsBind : Prop :=
  ∀ (s : State) (n : Nat) (c : CheckSlot) (refuse : Prop), HostReady s → n < 4096 → c = s.slot n →
    (refuse ↔ c.bound = true ∨ 2048 < c.expected.toNat
      ∨ (∃ e ∈ s.slots, e.2.bound = true ∧ e.2.group = c.group ∧ e.2.ctx.toNat = c.ctx.toNat)
      ∨ (c.hasParent = true ∧ c.children.getLsbD c.parent.toNat = true) ∨ (c.expected = 0 ∧ c.children = 0)) →
    (refuse → exec (.checkSlotBind n) s = .next (s.modSlot n fun c => { c with refused := true }))
    ∧ (¬ refuse → ∃ s', exec (.checkSlotBind n) s = .next s' ∧ (∀ j, j ≠ n → s'.slot j = s.slot j)
        ∧ (s'.slot n).bound = true ∧ (s'.slot n).refused = false ∧ (s'.slot n).arrived = 0
        ∧ (s'.slot n).ahead = 0 ∧ (s'.slot n).generation = 0 ∧ (s'.slot n).completions = 0 ∧ (s'.slot n).state = .counting
        ∧ (s'.slot n).group = c.group ∧ (s'.slot n).ctx = c.ctx ∧ (s'.slot n).expected = c.expected
        ∧ { s' with slots := s.slots } = s)
    ∧ (c.bound = true → ∀ v, ∀ off ∈ [0x540000, 0x540008, 0x540010],
        exec (.registerWrite ⟨.bar0, off + 32 * n, 8⟩ v) s = .next s ∧ exec (.registerWrite ⟨.bar0, off + 32 * n, 4⟩ v) s = .next s
          ∧ exec (.registerWrite ⟨.bar0, off + 32 * n + 4, 4⟩ v) s = .next s)
    ∧ (c.bound = true → (∀ e ∈ c.held, heldTask s e = false) → ∃ s', exec (.checkSlotUnbind n) s = .next s'
        ∧ (s'.slot n).bound = false ∧ (s'.slot n).arrived = 0 ∧ (s'.slot n).held = []
        ∧ (∀ j, j ≠ n → s'.slot j = s.slot j) ∧ { s' with slots := s.slots } = s)

/-- R339, R341, R107: ARRIVE on a group that is not bound for the task's context ends the parcel with cause 4 at
0xE800_0000_0000_0000 + the group; on a bound one the task is held, or descheduled at once with a hold window of zero, and
its arrival waits at its die; it waits itself for the task's asynchronous instructions. -/
def Obligations.ArriveHoldsTheTask : Prop :=
  ∀ (s : State) (w : Who) (t : Task) (g : Guard) (group : W32), Ready s w t →
    (t.acts g = false → RunsTask (exec (.arrive w g group) s) s w (GoesTo t (t.pc + 8)))
    ∧ (t.acts g = true → t.groups.all (fun e => e.2 = 0) = false → exec (.arrive w g group) s = .next s)
    ∧ (t.acts g = true → t.groups.all (fun e => e.2 = 0) = true → heldBy s w = false →
      (slotOf s group t.ctx = none →
        EndsParcel (exec (.arrive w g group) s) s w t (.violation 5 4 (0xE800000000000000 + group.toNat)))
      ∧ ∀ n c, slotOf s group t.ctx = some (n, c) → c = s.slot n →
        (c.state = .broken → exec (.arrive w g group) s = .next (endParcel t.ctx t.hostSeq 7 0 (issued w s)))
        ∧ (c.state ≠ .broken → ∃ s' st, exec (.arrive w g group) s = .next s'
            ∧ st = (if c.pace = true ∨ (s.ctx t.ctx).regs.holdTicks = 0 then .arriveDesched else .arriveHeld)
            ∧ s'.task w = some { t with pc := t.pc + 8, status := st }
            ∧ (s'.slot n).pendingDie = c.pendingDie ++ [(w, t.hostSeq)]
            ∧ (s'.slot n).arrived = c.arrived ∧ (∀ j, j ≠ n → s'.slot j = s.slot j)
            ∧ s'.tl.desched = (if st = .arriveDesched then min (2 ^ 48 - 1) (s.tl.desched + 1) else s.tl.desched)
            ∧ { s' with tasks := s.tasks, slots := s.slots, tl := s.tl } = issued w s))

/-- R340, R341: a batch of arrivals of a die is counted at the home node; where it completes a group that spans one
module, every task held in the generation is released, and the next generation begins; where it does not, the tasks stay
held and the count rises. In a generation that is complete and not yet released, arrivals count toward the next one. -/
def Obligations.ArrivalBatchesCompleteABarrier : Prop :=
  ∀ (s : State) (n die : Nat) (c : CheckSlot) (batch : List (Who × W32)), s.active = true → c = s.slot n →
    c.bound = true → batch = c.pendingDie.filter (fun w => decide (Who.die w.1 = die)) → batch ≠ [] →
    (c.state = .counting → c.hasParent = false → c.children = 0 → c.merge = false →
      c.arrived + batch.length = c.expected.toNat → c.heldNext = [] → c.ahead = 0 → ∃ s', exec (.arrivalBatch n die) s = .next s'
      ∧ (s'.slot n).generation = c.generation + 1 ∧ (s'.slot n).completions = (c.completions + 1) % 2 ^ 31
      ∧ (s'.slot n).arrived = 0 ∧ (s'.slot n).heldNow = []
      ∧ (s'.slot n).pendingDie = c.pendingDie.filter (fun w => decide (Who.die w.1 ≠ die))
      ∧ s'.grants = s.grants ++ ((c.heldNow ++ batch).filter (heldTask s)).map
          (fun w => ⟨w.1, c.ctx.toNat, w.2, (match s.task w.1 with | some t => t.taskIndex | none => 0), none, false,
            c.home.toNat⟩)
      ∧ { s' with slots := s.slots, grants := s.grants } = s)
    ∧ (c.state = .counting → c.arrived + batch.length < c.expected.toNat → ∃ s', exec (.arrivalBatch n die) s = .next s'
      ∧ (s'.slot n).arrived = c.arrived + batch.length ∧ (s'.slot n).heldNow = c.heldNow ++ batch
      ∧ (s'.slot n).generation = c.generation ∧ s'.grants = s.grants ∧ { s' with slots := s.slots } = s)
    ∧ (c.state ≠ .counting → c.state ≠ .broken → ∃ s', exec (.arrivalBatch n die) s = .next s'
      ∧ (s'.slot n).arrived = c.arrived ∧ (s'.slot n).ahead = c.ahead + batch.length
      ∧ (s'.slot n).heldNow = c.heldNow ∧ (s'.slot n).heldNext = c.heldNext ++ batch
      ∧ (s'.slot n).state = c.state ∧ (s'.slot n).generation = c.generation ∧ { s' with slots := s.slots } = s)

/-! ### Link ports (13_utgor_links.md) -/

/-- R352 to R354, R374, Table 13.2: how a port comes up. An enabled port that is down enters Detect; a signal takes it to
Train; lanes that lock take it to Negotiate with its capability sent, on a half where only that half locked and half
width is allowed, and to Align after the second Train of UL2; the common version is the higher one; Align makes it
Active with its numbers at zero. A Train or a Negotiate that fails: a Train that times out runs again, and at its third time-out in
a row, without a whole half, or with a half that an end does not accept, the port goes down with cause 3, as it does where
Negotiate times out or a retrain does (no unit holds a charge before it: a charged port may be fenced); an Align that times out goes
back to Train. Readings of the model: log entries 7 and 19. -/
def Obligations.PortsComeUp : Prop :=
  ∀ (s : State) (p : Nat) (x : Port), x = s.port p → s.active = true →
    (s.hg.linkUp = true → x.state = .down → s.inBist 7 p = false → clockGood s (768 + p) = true → ∃ s', exec (.portEnable p) s = .next s'
      ∧ (s'.port p).state = .detect ∧ (s'.port p).enable = true ∧ (s'.port p).peerValid = false
      ∧ (s'.port p).trainedUl2 = false ∧ (s'.port p).trainFails = 0 ∧ (∀ j, j ≠ p → s'.port j = s.port j)
      ∧ { s' with links := s.links } = s)
    ∧ (x.enable = true → x.state = .detect → ∃ s', exec (.signalDetect p) s = .next s'
      ∧ s'.port p = { x with state := .train, lanesErr := [] } ∧ (∀ j, j ≠ p → s'.port j = s.port j)
      ∧ { s' with links := s.links } = s)
    ∧ (∀ lanes : Byte, x.state = .train → ∀ half upper,
        (lanes = 0xFF ∧ half = false ∧ upper = false
          ∨ lanes ≠ 0xFF ∧ lanes &&& 0x0F = 0x0F ∧ half = true ∧ upper = false
          ∨ lanes &&& 0x0F ≠ 0x0F ∧ lanes &&& 0xF0 = 0xF0 ∧ half = true ∧ upper = true) →
        (half = false ∨ (x.allowHalf = true ∧ (x.peerValid = false ∨ x.peerHalf = true))) →
        ∃ s', exec (.trainComplete p lanes) s = .next s' ∧ (s'.port p).half = half ∧ (s'.port p).upper = upper
          ∧ (s'.port p).state = (if x.trainedUl2 then .align else .negotiate)
          ∧ (s'.port p).control = x.control ++ (if x.trainedUl2 then [] else
              [(3, (if x.allowUl1 then 1 else 0) + (if x.allowUl2 then 2 else 0) + (if x.allowHalf then 4 else 0)
                + s.links.modAddr.toNat * 2 ^ 3 + p * 2 ^ 35)])
          ∧ (∀ j, j ≠ p → s'.port j = s.port j) ∧ { s' with links := s.links } = s)
    ∧ (∀ (o : OfferFlit) (half : Bool) (addr : W32) (peer : BitVec 5), x.state = .negotiate →
        headOk { x with version := 1 } o.head false = true → (x.half = false ∨ half = true) →
        ((x.allowUl2 = true ∧ o.versions.getLsbD 1 = true) → ∃ s', exec (.capability p o half addr peer) s = .next s'
          ∧ (s'.port p).state = .train ∧ (s'.port p).version = 2 ∧ (s'.port p).peerAddr = addr
          ∧ (s'.port p).peerPort = peer ∧ (s'.port p).peerHalf = half ∧ (s'.port p).trainedUl2 = true
          ∧ { s' with links := s.links } = s)
        ∧ (¬ (x.allowUl2 = true ∧ o.versions.getLsbD 1 = true) → x.allowUl1 = true ∧ o.versions.getLsbD 0 = true →
          ∃ s', exec (.capability p o half addr peer) s = .next s'
          ∧ (s'.port p).state = .align ∧ (s'.port p).version = 1 ∧ (s'.port p).peerAddr = addr
          ∧ { s' with links := s.links } = s))
    ∧ (∀ (o : OfferFlit) (half : Bool) (addr : W32) (peer : BitVec 5), x.state = .negotiate →
        headOk { x with version := 1 } o.head false = false → exec (.capability p o half addr peer) s
          = .next (s.modPort p fun x => { x with badFlit := min (2 ^ 48 - 1) (x.badFlit + 1) }))
    ∧ (x.state = .align → x.waiting = [] → ∃ s', exec (.alignComplete p) s = .next s' ∧ (s'.port p).state = .active
      ∧ (s'.port p).txSeq = 0 ∧ (s'.port p).rxNext = 0 ∧ (s'.port p).replay = [] ∧ (s'.port p).nakSent = false
      ∧ (∀ j, j ≠ p → s'.port j = s.port j) ∧ { s' with links := s.links } = s)
    ∧ (x.state = .train → x.trainFails < 2 → ∃ s', exec (.portStateTimeout p) s = .next s'
      ∧ s'.port p = { x with state := .train, lanesErr := [], trainFails := x.trainFails + 1 }
      ∧ (∀ j, j ≠ p → s'.port j = s.port j) ∧ { s' with links := s.links } = s)
    ∧ (x.state = .align → ∃ s', exec (.portStateTimeout p) s = .next s'
      ∧ s'.port p = { x with state := .train, lanesErr := [] } ∧ (∀ j, j ≠ p → s'.port j = s.port j)
      ∧ { s' with links := s.links } = s)
    ∧ (s.fence.charges = [] → ∀ i,
      (i = Instr.portStateTimeout p ∧ (x.state = .train ∧ 2 ≤ x.trainFails ∨ x.state = .negotiate ∨ x.state = .retrain)
        ∨ (∃ lanes : Byte, i = .trainComplete p lanes ∧ x.state = .train ∧ lanes ≠ 0xFF
            ∧ (lanes &&& 0x0F ≠ 0x0F ∧ lanes &&& 0xF0 ≠ 0xF0
              ∨ x.allowHalf = false ∨ (x.peerValid = true ∧ x.peerHalf = false)))
        ∨ (∃ o addr peer, i = .capability p o false addr peer ∧ x.state = .negotiate ∧ x.half = true
            ∧ headOk { x with version := 1 } o.head false = true
            ∧ (x.allowUl1 = true ∧ o.versions.getLsbD 0 = true ∨ x.allowUl2 = true ∧ o.versions.getLsbD 1 = true))) →
      ∃ s', exec i s = .next s' ∧ (s'.port p).state = .down ∧ (s'.port p).downCause = 3 ∧ (s'.port p).replay = []
        ∧ (s'.port p).lost = min (2 ^ 48 - 1) (x.lost + x.replay.length)
        ∧ s'.log.classes.get 0 13 = min (2 ^ 48 - 1) (s.log.classes.get 0 13 + 1))

/-- R352, R361, R362: how a port goes down: by a disabling write with cause 6, by a loss of signal with cause 1, where
the offers have no version in common with cause 2. Its unacknowledged flits are counted lost, and it keeps none. A
first or second retrain within a second keeps version, width and replay buffer. Readings of the model: log entry 19.
-/
def Obligations.PortsGoDown : Prop :=
  ∀ (s : State) (p : Nat) (x : Port), x = s.port p → x.state ≠ .down → x.state ≠ .fenced →
    (HostReady s → ∃ s', exec (.portDisable p) s = .next s' ∧ (s'.port p).state = .down
      ∧ (s'.port p).downCause = 6 ∧ (s'.port p).enable = false ∧ (s'.port p).replay = [] ∧ (s'.port p).waiting = []
      ∧ (s'.port p).lost = min (2 ^ 48 - 1) (x.lost + x.replay.length))
    ∧ (x.state ≠ .detect → ∃ s', exec (.lossOfSignal p) s = .next s' ∧ (s'.port p).state = .down
      ∧ (s'.port p).downCause = 1 ∧ (s'.port p).replay = []
      ∧ (s'.port p).lost = min (2 ^ 48 - 1) (x.lost + x.replay.length)
      ∧ s'.log.classes.get 0 13 = min (2 ^ 48 - 1) (s.log.classes.get 0 13 + 1))
    ∧ (∀ (o : OfferFlit) half addr peer, s.active = true → x.state = .negotiate →
      headOk { x with version := 1 } o.head false = true →
      (x.allowUl1 = false ∨ o.versions.getLsbD 0 = false) → (x.allowUl2 = false ∨ o.versions.getLsbD 1 = false) →
      ∃ s', exec (.capability p o half addr peer) s = .next s' ∧ (s'.port p).state = .down
        ∧ (s'.port p).downCause = 2)
    ∧ (HostReady s → x.state = .active → x.retrains3.length ≤ 1 →
      ∃ s', exec (.portRetrain p) s = .next s' ∧ (s'.port p).state = .retrain
        ∧ (s'.port p).retrained = min (2 ^ 48 - 1) (x.retrained + 1) ∧ (s'.port p).version = x.version ∧ (s'.port p).half = x.half
        ∧ (s'.port p).replay = x.replay)

/-- R358 to R360, R363, R364, R366: what a command that brings flits of a sequenced message does to its port. Ahead of the number
expected, it is not taken and draws one nak, and no second; behind it, it is acknowledged again and not taken. In order, its flits
move the number on and are acknowledged where the number passes a multiple of 32; accepted, they are counted, and with the last of
its flits the message takes its effect; with a bad header they are discarded and counted as bad. Their buffer places are returned
where the message is for this module or is discarded; one in transit keeps them until it has left. A message for another module goes
out on the bundle of its route and is counted in transit, or has no route and is counted so. Readings of the model: log entry
19. -/
def Obligations.SequencedMessagesAreTaken : Prop :=
  ∀ (s : State) (i : Instr) (port cls ch n had k : Nat) (h : FlitHead) (level2 here : Bool) (pl : Payload) (x : Port),
    takesMessage i = some (port, h, cls, level2, pl) → x = s.port port → s.active = true → x.state = .active →
    h.ack = none → (h.kind < 7 ∨ h.sequenced = true) → n = pl.flits → here = (decide (cls = 3) || s.links.here h.dst) →
    ch = 2 * cls + (if h.vc then 1 else 0) → had = x.got.get 0 ch → k = max 1 (min h.count (n - had)) →
    (h.seq ≠ x.rxNext → (h.seq - x.rxNext).toNat < 2 ^ 11 → x.nakSent = true → exec i s = .next s)
    ∧ (h.seq ≠ x.rxNext → (h.seq - x.rxNext).toNat < 2 ^ 11 → x.nakSent = false → ∃ s', exec i s = .next s'
      ∧ s'.port port = { x with nakSent := true, control := x.control ++ [(1, x.rxNext.toNat)] }
      ∧ (∀ j, j ≠ port → s'.port j = s.port j) ∧ { s' with links := s.links } = s)
    ∧ (2 ^ 11 ≤ (h.seq - x.rxNext).toNat → ∃ s', exec i s = .next s'
      ∧ s'.port port = { x with control := x.control ++ [(0, (x.rxNext - 1).toNat)] }
      ∧ (∀ j, j ≠ port → s'.port j = s.port j) ∧ { s' with links := s.links } = s)
    ∧ (h.seq = x.rxNext → ∃ s1 : State, ∃ effect : State → State,
      s1.port port = { x with
        rxNext := x.rxNext + BitVec.ofNat 12 k, nakSent := false
        got := if headOk x h level2 = true ∧ had + k < n then x.got.put ch (had + k) else x.got.del ch
        control := x.control
          ++ (if here then [(2, ch + 8 * k)] else if headOk x h level2 then [] else [(2, ch + 8 * (had + k))])
          ++ (if x.rxNext.toNat / 32 = (x.rxNext + BitVec.ofNat 12 k).toNat / 32 then []
              else [(0, (x.rxNext + BitVec.ofNat 12 k - 1).toNat)])
        rx := if headOk x h level2 then min (2 ^ 48 - 1) (x.rx + k) else x.rx
        badFlit := if headOk x h level2 then x.badFlit else min (2 ^ 48 - 1) (x.badFlit + k) }
      ∧ (∀ j, j ≠ port → s1.port j = s.port j) ∧ { s1 with links := s.links } = s
      ∧ exec i s = .next (if headOk x h level2 = true ∧ n ≤ had + k then effect s1 else s1)
      ∧ (here = false → headOk x h level2 = true → n ≤ had + k →
        (∀ b crosses q, s.links.hop h.dst = .bundle b crosses →
          s.links.pickPort b (Flit.first cls h.dst h.src h.tag h.context pl) = some q →
          (effect s1).links.transit = min (2 ^ 48 - 1) (s.links.transit + n))
        ∧ ((∀ b crosses, s.links.hop h.dst = .bundle b crosses →
            s.links.pickPort b (Flit.first cls h.dst h.src h.tag h.context pl) = none) →
          (effect s1).links.unroutable = min (2 ^ 48 - 1) (s.links.unroutable + n))
        ∧ { effect s1 with links := s.links } = s))

/-- R340, R342: the check flits, in order and from the side of the tree they belong to. A child's complete or closed
is counted, and the last complete is passed to the parent; a release, or a release2 after a closed, ends the generation at a leaf
and releases its tasks, and goes on to every child with a live port; so does a close, which a leaf answers with closed; a break
makes the slot broken, goes on to the other tree ports, and the parcels of the tasks held there end with OWNER_LOST. Readings of the
model: log entry 27. -/
def Obligations.CheckFlitsMoveTheWave : Prop :=
  ∀ (s s1 : State) (port n : Nat) (h : FlitHead) (group gen : W32) (c : CheckSlot), InOrder s port h false → h.ack = none →
    s1 = receive port h 3 false 1 true id s → slotOf s1 group h.context = some (n, c) → c = s1.slot n →
    c.treePorts.contains port = true → gen.toNat = c.generation % 2 ^ 32 → port < 32 →
    (c.children.getLsbD port = true → c.state = .counting → c.arrived ≠ c.expected.toNat →
      exec (.checkComplete port h group gen) s
        = .next (s1.modSlot n fun c => { c with childrenDone := c.childrenDone + 1 }))
    ∧ (c.children.getLsbD port = true → c.state = .counting → c.arrived = c.expected.toNat →
      c.childrenDone + 1 = c.childPorts.length → c.hasParent = true → (s1.port c.parent.toNat).live = true →
      ∃ s', exec (.checkComplete port h group gen) s = .next s' ∧ (s'.slot n).state = .waitParent
        ∧ (s'.slot n).generation = c.generation ∧ SendsCheck s1 s' c.parent.toNat c 0)
    ∧ (c.children.getLsbD port = true → c.state = .closing → c.childrenDone + 1 < c.childPorts.length →
      exec (.checkClosed port h group gen) s
        = .next (s1.modSlot n fun c => { c with childrenDone := c.childrenDone + 1 }))
    ∧ (c.children.getLsbD port = true → c.state = .closing → c.childrenDone + 1 = c.childPorts.length → c.hasParent = true →
      (s1.port c.parent.toNat).live = true → ∃ s', exec (.checkClosed port h group gen) s = .next s'
        ∧ (s'.slot n).state = .waitRelease2 ∧ SendsCheck s1 s' c.parent.toNat c 3)
    ∧ (c.hasParent = true → c.parent.toNat = port →
      ∀ i wave, (i = Instr.checkRelease port h group gen ∧ wave = 1 ∧ c.state = .waitParent ∧ c.merge = false
          ∨ i = Instr.checkRelease2 port h group gen ∧ wave = 4 ∧ c.state = .waitRelease2) →
      (∀ q ∈ c.childPorts, (s1.port q).live = true → ∃ s', exec i s = .next s' ∧ SendsCheck s1 s' q c wave)
      ∧ (c.children = 0 → c.heldNext = [] → c.ahead = 0 → 0 < c.expected.toNat →
        ∃ s', exec i s = .next s' ∧ (s'.slot n).generation = c.generation + 1 ∧ (s'.slot n).state = .counting
        ∧ (s'.slot n).arrived = 0 ∧ (s'.slot n).heldNow = []
        ∧ s'.grants = s1.grants ++ (c.heldNow.filter (heldTask s1)).map (fun w => ⟨w.1, c.ctx.toNat, w.2,
            (match s1.task w.1 with | some t => t.taskIndex | none => 0), none, false, c.home.toNat⟩)
        ∧ SameBytes s1 s'))
    ∧ (c.hasParent = true → c.parent.toNat = port → c.state = .waitParent → c.merge = true →
      (∀ q ∈ c.childPorts, (s1.port q).live = true →
        ∃ s', exec (.checkClose port h group gen) s = .next s' ∧ (s'.slot n).state = .closing ∧ SendsCheck s1 s' q c 2)
      ∧ (c.children = 0 → ∃ s', exec (.checkClose port h group gen) s = .next s' ∧ (s'.slot n).state = .waitRelease2
        ∧ (s'.slot n).generation = c.generation ∧ SendsCheck s1 s' port c 3))
    ∧ (c.state ≠ .broken → c.bound = true → ∃ s', exec (.checkBreak port h group gen) s = .next s'
        ∧ (s'.slot n).state = .broken ∧ (s'.slot n).heldNow = [] ∧ s'.tl.broken = min (2 ^ 48 - 1) (s1.tl.broken + 1)
        ∧ LoseOwner s1 s' ((c.held.filter (heldTask s1)).map fun w => (c.ctx.toNat, w.2))
        ∧ ∀ q ∈ c.treePorts, q ≠ port → (s1.port q).live = true → SendsCheck s1 s' q c 5)

/-- R351, R356, R358, R360, R361, R363: the control flits and timers of a port. In Active, an ack frees the flits up to its
number; a nak and a replay time-out send the unacknowledged flits again, a nak after freeing those before its number;
a credit adds to its channel; the ack timer sends the last number received; one with a bad header is discarded and counted. A flit
that fails its CRC is counted in every state that receives codewords, and draws one nak in Active. Readings of the model: log entry
19. -/
def Obligations.LinkControlActs : Prop :=
  (∀ (s : State) (p : Nat) (x : Port), x = s.port p → s.active = true → x.state = .active → x.waiting = [] →
    (∀ f : AckFlit, f.head.ack = none → headOk x f.head false = true → f.num ∈ x.replay.map (fun e => e.1) →
      exec (.ack p f) s = .next (s.modPort p fun x =>
        { x with replay := x.replay.filter fun e => decide (f.num ≠ e.1) && decide ((e.1 - f.num).toNat < 2 ^ 11) }))
    ∧ (∀ f : AckFlit, f.head.ack = none → headOk x f.head false = true → f.num ∉ x.replay.map (fun e => e.1) →
      ∃ s', exec (.ack p f) s = .next s' ∧ s'.port p = x ∧ { s' with links := s.links } = s)
    ∧ (∀ vc (f : CreditFlit), f.head.ack = none → headOk x f.head false = true → ∃ s', exec (.credit p vc f) s = .next s'
      ∧ (s'.port p).credits.get 32 vc = x.credits.get 32 vc + f.count ∧ { s' with links := s.links } = s)
    ∧ (∃ s', exec (.ackTimer p) s = .next s' ∧ s'.port p = { x with control := x.control ++ [(0, (x.rxNext - 1).toNat)] }
      ∧ { s' with links := s.links } = s)
    ∧ (∀ (f : AckFlit) (kept : List (BitVec 12 × Flit × Nat)), f.head.ack = none → headOk x f.head false = true →
      kept = (if f.num - 1 ∈ x.replay.map (fun e => e.1) then
        x.replay.filter (fun e => decide (f.num - 1 ≠ e.1) && decide ((e.1 - (f.num - 1)).toNat < 2 ^ 11)) else x.replay) →
      (∀ e ∈ kept, e.2.2 < 15) →
      ∃ s', exec (.nak p f) s = .next s' ∧ (s'.port p).state = .active
        ∧ (s'.port p).replay = kept.map (fun e =>
            if e.1 = f.num ∨ 2 ^ 11 ≤ (f.num - e.1).toNat then (e.1, { e.2.1 with ack := x.rxNext - 1 }, e.2.2 + 1) else e)
        ∧ { s' with links := s.links } = s)
    ∧ (∀ e r, x.replay = e :: r → (∀ f ∈ x.replay, f.2.2 < 15) → (∀ f ∈ r, (f.1 - e.1).toNat < 2 ^ 11) →
      ∃ s', exec (.linkReplayTimeout p) s = .next s'
        ∧ (s'.port p).replay = x.replay.map (fun f => (f.1, { f.2.1 with ack := x.rxNext - 1 }, f.2.2 + 1))
        ∧ (s'.port p).replayed = min (2 ^ 48 - 1) (x.replayed + x.replay.length) ∧ { s' with links := s.links } = s)
    ∧ (∀ h : FlitHead, h.ack = none → h.kind < 7 → headOk x h false = true → exec (.idle p h) s = .next s)
    ∧ (∀ h : FlitHead, h.ack = none → headOk x h false = false → (7 ≤ h.kind → h.sequenced = false) →
      ∀ i, i = Instr.idle p h ∨ (h.kind < 7 ∧ ((∃ num, i = .ack p ⟨h, num⟩ ∨ i = .nak p ⟨h, num⟩)
          ∨ ∃ vc count, i = .credit p vc ⟨h, count⟩)) →
      exec i s = .next (s.modPort p fun x => { x with badFlit := min (2 ^ 48 - 1) (x.badFlit + 1) })))
  ∧ ∀ (s : State) (p : Nat) (u : Bool) (x : Port), x = s.port p → s.active = true →
    x.state ∈ [PortState.train, .negotiate, .align, .active, .retrain] →
    ∃ s', exec (.flitCrcFailure p u) s = .next s' ∧ (s'.port p).crcFail = min (2 ^ 48 - 1) (x.crcFail + 1)
      ∧ (s'.port p).fecUncorr = min (2 ^ 48 - 1) (x.fecUncorr + (if u then 1 else 0))
      ∧ (x.state = .active → (s'.port p).nakSent = true
          ∧ (s'.port p).control = x.control ++ (if x.nakSent then [] else [(1, x.rxNext.toNat)]))
      ∧ (x.state ≠ .active → (s'.port p).control = x.control) ∧ { s' with links := s.links } = s

/-- R276, R277, R279, R280, R284, Table 13.6: the owner of a row answers each message that is for this module. A
context that is not open, or a record that fails R271, is answered with status 1; otherwise a request is served from
the row's home, and a dropped row is answered with none; the other messages take effect before their reply, which tells the
sender of a drop; a direct write that is queued for a moving row is answered only once it has been applied. Readings
of the model: log entries 28 and 39. -/
def Obligations.OwnersAnswerMessages : Prop :=
  ∀ (s : State) (port : Nat) (h : FlitHead) (record : Word) (row rank off : Nat) (data : List Byte), InOrder s port h false →
    h.ack = none → h.dst = s.links.modAddr →
    (∀ s1 sp, s1 = receive port h 0 false 1 true id s →
      ((s1.ctx h.context).isOpen = false → exec (.embeddingRequest port h record row sp) s = .next (replyTo h 1 [] s1))
      ∧ ((s1.ctx h.context).isOpen = true →
      (∀ x c a, embRead s1 h.context 0 record.toNat = .error (.violation x c a) →
        exec (.embeddingRequest port h record row sp) s = .next (replyTo h 1 [] s1))
      ∧ ∀ e s2, embRead s1 h.context 0 record.toNat = .ok e → s2 = noteRecord h.context record.toNat s1 →
        (sp ≠ e.span → exec (.embeddingRequest port h record row sp) s = .next (replyTo h 1 [] s2))
        ∧ (sp = e.span → homeOf s2 h.context e row = .ok .invalid →
          exec (.embeddingRequest port h record row sp) s = .next (replyTo h 0 [] { emDrop true s2 with
            merge := { (emDrop true s2).merge with remote := min (2 ^ 48 - 1) ((emDrop true s2).merge.remote + 1) } }))
        ∧ ∀ a ep bs, sp = e.span → homeOf s2 h.context e row = .ok (.at a ep) →
          devRead s2 h.context useRead a e.rowBytes = .ok bs →
          exec (.embeddingRequest port h record row sp) s = .next (replyTo h 0 bs { s2 with
            merge := { s2.merge with remote := min (2 ^ 48 - 1) (s2.merge.remote + 1) } })))
    ∧ (∀ s1, s1 = receive port h 2 false 1 true id s →
      ((s1.ctx h.context).isOpen = false → exec (.withdrawal port h record rank) s = .next (replyTo h 1 [] s1))
      ∧ ∀ e s3, (s1.ctx h.context).isOpen = true → embRead s1 h.context 0 record.toNat = .ok e →
        withdrawAt h.context record.toNat rank (noteRecord h.context record.toNat s1) = .ok s3 →
        exec (.withdrawal port h record rank) s = .next (replyTo h 0 [] s3))
    ∧ (∀ s1 e s2 s3 drop, Brings s port h 2 ((data.length + 247) / 232) →
      s1 = receive port h 2 false ((data.length + 247) / 232) true id s →
      (s1.ctx h.context).isOpen = true → embRead s1 h.context 0 record.toNat = .ok e →
      s2 = noteRecord h.context record.toNat s1 →
      (off + data.length ≤ e.rowBytes → (e.owner row = e.rank ∨ e.rows ≤ row) →
        directWrite (mergeWriter h.context) (some h) e 0 row off data s2 = .ok (s3, drop) →
        exec (.directWrite port h record row off data) s =
          .next (if movingRow s2 h.context e.addr row = true ∧ drop = false then s3
            else replyTo h 0 (if drop then [1] else []) s3))
      ∧ (e.members ≤ rank ∨ data.length ≠ e.rowBytes →
        exec (.contribution port h record row rank data) s = .next (replyTo h 1 [] s2))
      ∧ (rank < e.members → data.length = e.rowBytes → (e.owner row = e.rank ∨ e.rows ≤ row) →
        (contribute (mergeWriter h.context) e 0 row rank data s2 = .ok (s3, .logged) →
          exec (.contribution port h record row rank data) s = .next (replyTo h 0 [] s3))
        ∧ (contribute (mergeWriter h.context) e 0 row rank data s2 = .ok (s3, .dropped) →
          exec (.contribution port h record row rank data) s = .next (replyTo h 0 [1] s3))
        ∧ ∀ full, contribute (mergeWriter h.context) e 0 row rank data s2 = .ok (s3, .refused full) →
          exec (.contribution port h record row rank data) s = .next (refuseRemote h e row rank full s3)))

/-! ### Start-up, supplies, resets and low-power states (15_startup_states.md, 01_module.md) -/

/-- Table 15.1, R397 to R404, R23, R449, R450: the steps of power-up. A verified image starts; one that fails falls
back to the other slot, and two that fail leave the module in recovery; the fenced cores of the fence list stay out of
service; between P9 and P11 a configuration request is answered with Configuration Request Retry Status; the headgate opens
after PERST# is deasserted and takes the minimum security version forward. Readings of the model: log entries 3, 4, 7, 8, 45
and 52. -/
def Obligations.PowerUpRunsInOrder : Prop :=
  ∀ (s : State) (strap : BitVec 3) (addr : BitVec 7),
    (s.power.phase = .off → ∃ s', exec (.powerOn strap) s = .next s' ∧ s'.power.phase = .romStarted
      ∧ s'.power.vaux = true ∧ s'.keeper.straps = strap ∧ s'.keeper.address = 0x58 ||| strap.zeroExtend 7
      ∧ s'.keeper.slotA = s.keeper.slotA ∧ s'.keeper.slotB = s.keeper.slotB ∧ s'.keeper.preferB = s.keeper.preferB
      ∧ s'.keeper.certChain = s.keeper.certChain ∧ s'.keeper.fenceList = s.keeper.fenceList ∧ s'.fuses = s.fuses
      ∧ s'.mem.flash = s.mem.flash ∧ s'.ctxs = [] ∧ s'.tasks = [])
    ∧ (∀ img p (j : Nat), s.power.phase = .romStarted → s.fuses.lifecycle ≠ 4 → p = s.keeper.preferB →
      img = s.keeper.image p → img.magic = 0x464B5A43 → img.version = 2 → img.reserved = 0 → img.tail = 0 →
      0 < img.length → img.length ≤ 4194304 - 512 → (j = img.keyIndex.val ∨ s.fuses.lifecycle = 1 ∧ j < 4) →
      s.fuses.fwRevoked.getD j true = false → s.fuses.fwDigest.getD j 0 = bytesRec (sha512 (leBytes 132 img.publicKey.toNat)) →
      s.fuses.svnMin.ule img.svn = true → bytesRec (sha512 (takePad 0 img.length img.body)) = img.digest → img.sigOk = true →
      exec .keeperImageVerify s = .next { s with
        keeper := { s.keeper with
          runB := p, newImage := s.keeper.newImage && !s.keeper.firstStart, firstStart := false, bootFail := 0
          fallback := false }
        power := { s.power with phase := .imageVerified } })
    ∧ (∀ p c, s.power.phase = .romStarted → p = s.keeper.preferB → c = imageFails s (s.keeper.image p) → c ≠ 0 →
      ∃ s', exec .keeperImageVerify s = .next s' ∧ s'.keeper.bootFail = BitVec.ofNat 4 c ∧ s'.keeper.fallback = true
        ∧ s'.log.classes.get 0 14 = min (2 ^ 48 - 1) (s.log.classes.get 0 14 + 1) ∧ s'.fuses = s.fuses
        ∧ (s.fuses.lifecycle ≠ 4 → imageFails s (s.keeper.image (!p)) = 0 →
          s'.power.phase = .imageVerified ∧ s'.keeper.runB = !p)
        ∧ (imageFails s (s.keeper.image (!p)) ≠ 0 → s'.power.phase = .recovery))
    ∧ (s.power.phase = .romStarted → s.fuses.lifecycle = 4 →
      ∃ s', exec .keeperImageVerify s = .next s' ∧ s'.power.phase = .recovery)
    ∧ (s.power.phase = .imageVerified → exec .keeperFirmwareStart s
        = .next { s with power := { s.power with phase := .deep, starting := !s.power.thermalHold } })
    ∧ (s.power.phase = .deep → s.power.starting = true → s.power.vmain = true → s.power.inputOpen = false →
      s.power.thermalHold = false → ∃ mv, 40000 ≤ mv ∧ mv ≤ 60000
        ∧ exec .conversionEnable s = .next { s with
          power := { s.power with phase := .charging, starting := false, wakeHeld := false, vmainMv := mv }
          freeCount := s.freeCount + 1 })
    ∧ (s.power.phase = .charging → s.power.vmain = true → exec .inrushChargeComplete s
        = .next { s with power := { s.power with
          phase := .converted, converting := true, vstbFromVint := true, alert := s.keeper.alertHeld } })
    ∧ (s.power.phase = .converted → exec .pllLock s
        = .next { s with power := { s.power with phase := .locked, keeperPll := true } })
    ∧ (s.power.phase = .locked → ∃ s', exec .computeDomainsStart s = .next s'
        ∧ (∀ d, d < 10 → (s'.die d).up = true ∧ (s'.die d).point = 0 ∧ (s'.die d).index = 78
          ∧ (s'.die d).ticks = (s.die d).ticks)
        ∧ s'.hg = { s.hg with detect := s.hg.detect || !s.power.perst }
        ∧ { s' with dies := s.dies, hg := s.hg } = { s with power := { s.power with phase := .computing } })
    ∧ (s.hg.detect = true → ∀ f n v, exec (.registerWrite ⟨.config f, 0, n⟩ v) s
        = .next { s with hg := { s.hg with retries := s.hg.retries + 1 } })
    ∧ (s.power.phase = .computing → ∃ s', exec .moduleInitComplete s = .next s' ∧ s'.power.phase = .initialised
        ∧ s'.keeper = s.keeper ∧ s'.fuses = s.fuses
        ∧ ∀ e ∈ s.keeper.fenceList, e.kind = 1 → (s'.core e.index).fenced = true)
    ∧ (s.power.phase = .initialised → s.power.perst = false → ∃ gen lanes flit, 1 ≤ gen ∧ gen ≤ 7
        ∧ lanes ∈ [1, 2, 4, 8, 16] ∧ (6 ≤ gen → flit = true) ∧ exec .headgateOpen s = .next { s with
        power := { s.power with phase := .active, ready := true, rwlLocked := true }, freeCount := s.freeCount + 1
        hg := { s.hg with detect := false, linkUp := clockGood s 0, generation := gen, lanes := lanes, flitMode := flit }
        fuses := { s.fuses with svnMin := (if s.fuses.svnMin.ult (s.keeper.image s.keeper.runB).svn then
          (s.keeper.image s.keeper.runB).svn else s.fuses.svnMin) } })
    ∧ (s.power.phase = .initialised ∨ s.active = true → exec .ftlMapLoaded s = .next { s with mt := { s.mt with mapReady := true } })
    ∧ (sidebandUp s = true → exec (.i3cDynamicAddressAssignment addr) s
        = .next { s with keeper := { s.keeper with address := addr, dynamicAddr := true } })

/-- R17, R28, R31, Table 1.7, R398, R413, R415, Table 15.12: what a loss of a supply, PERST# and a reset of the host
port leave. A loss of VMAIN while converting takes the module to Deep with its cause, or to Off without VAUX; fuses
and the fence list outlast each of them; a reset of the host port keeps the sticky fields of the configuration space, and an FLR
the link's. Readings of the model: log entries 32, 41 and 52. -/
def Obligations.SuppliesAndResetsLeaveWhatTheyMust : Prop :=
  ∀ (s : State) (mv ticks : Nat),
    (∀ i ∈ [(Instr.vmainUndervoltage mv ticks, 3), (.vmainOvervoltage mv ticks, 4), (.vmainOvercurrentTrip mv ticks, 5)],
      s.power.converting = true → s.power.phase ≠ .off →
      (s.power.vaux = true → ∃ s', exec i.1 s = .next s' ∧ s'.power.phase = .deep ∧ s'.power.converting = false
        ∧ s'.keeper.deepCause = BitVec.ofNat 4 i.2 ∧ s'.ctxs = [] ∧ s'.tasks = [] ∧ s'.fuses = s.fuses
        ∧ FencesLast s s' ∧ s'.mem.flash = s.mem.flash
        ∧ ((s.log.staging.get [] 8).length < 64 →
          ∃ r ∈ s'.log.staging.get [] 8, r.cls = 9 ∧ r.kind = 19 ∧ r.index = 0))
      ∧ (s.power.vaux = false → ∃ s', exec i.1 s = .next s' ∧ s'.power.phase = .off ∧ s'.fuses = s.fuses
        ∧ s'.keeper.fenceList = s.keeper.fenceList))
    ∧ (∀ i ∈ [(Instr.vmainUndervoltage mv ticks, 3), (.vmainOvervoltage mv ticks, 4)],
      s.power.converting = false → s.power.phase = .charging ∨ (s.power.phase = .deep ∧ s.power.starting = true) →
      s.power.vaux = true → ∃ s', exec i.1 s = .next s' ∧ s'.power.phase = .deep ∧ s'.power.starting = false
        ∧ s'.power.vmain = false ∧ s'.keeper.deepCause = BitVec.ofNat 4 i.2 ∧ s'.fuses = s.fuses ∧ FencesLast s s')
    ∧ (s.power.converting = false → s.power.phase ≠ .charging → s.power.starting = false → exec (.vmainUndervoltage mv ticks) s
        = .next { s with power := { s.power with vmain := false } })
    ∧ exec .vmainReturn s = .next { s with power := { s.power with
        vmain := true, inputOpen := false, wakeHeld := s.power.wakeHeld || decide (s.power.phase = .deep) } }
    ∧ (∀ i ∈ [Instr.vauxUndervoltage mv ticks, .vauxOvervoltage mv ticks], s.power.vaux = true →
      ∃ s', exec i s = .next s' ∧ s'.fuses = s.fuses ∧ s'.keeper.fenceList = s.keeper.fenceList
        ∧ s'.mem.flash = s.mem.flash
        ∧ (s.power.converting = true → s'.power = { s.power with vaux := false, vauxLost := true }
          ∧ s'.ctxs = s.ctxs ∧ s'.tasks = s.tasks ∧ s'.log.classes.get 0 9 = min (2 ^ 48 - 1) (s.log.classes.get 0 9 + 1))
        ∧ (s.power.converting = false → s'.power.phase = .off))
    ∧ (s.power.phase ≠ .off → exec .vauxReturn s = .next { s with power := { s.power with vaux := true } })
    ∧ (∃ s', exec .bothSuppliesLost s = .next s' ∧ s'.power.phase = .off ∧ s'.fuses = s.fuses
        ∧ s'.keeper.fenceList = s.keeper.fenceList ∧ s'.mem.flash = s.mem.flash)
    ∧ (s.active = false → inDrowse s = false → exec .perstAssert s
        = .next { s with power := { s.power with perst := true }, hg := { s.hg with detect := false } })
    ∧ (s.active = true → s.fence.waiting = [] → ∃ s', exec .perstAssert s = .next s' ∧ s'.power.phase = .computing
        ∧ s'.power.perst = true ∧ s'.power.ready = false ∧ s'.ctxs = [] ∧ s'.tasks = [] ∧ s'.tallies = [] ∧ s'.slots = []
        ∧ s'.mem = s.mem ∧ s'.fuses = s.fuses ∧ s'.keeper.fenceList = s.keeper.fenceList
        ∧ s'.log.head = s.log.head ∧ s'.log.tail = s.log.tail ∧ s'.weir.capHost = 4000
        ∧ s'.weir.capSideband = s.weir.capSideband ∧ (∀ c, (s'.core c).fenced = (s.core c).fenced)
        ∧ ∀ p, ((s'.port p).state = .fenced ↔ (s.port p).state = .fenced))
    ∧ exec .perstDeassert s = .next { s with
        power := { s.power with perst := false }
        hg := { s.hg with detect := s.hg.detect || decide (s.power.phase = .computing ∨ s.power.phase = .initialised) } }
    ∧ (∀ i ∈ [(Instr.hotReset, false), (.flr, true)], hostUp s = true → ∃ s', exec i.1 s = .next s'
        ∧ (∀ c, (s'.ctx c).isOpen = false) ∧ (∀ c, (s'.ctx c).regs = CtRegs.reset) ∧ (∀ n, (s'.slot n).bound = false)
        ∧ s'.weir.capHost = 4000 ∧ s'.keeper.pwrRequest = 0 ∧ s'.hg.held = [] ∧ s'.hg.cfg.bar4Log2 = 28
        ∧ s'.hg.cfg.readRequest = 512 ∧ s'.hg.cfg.payload = (if i.2 then s.hg.cfg.payload else 128)
        ∧ s'.hg.cfg.poisoned = s.hg.cfg.poisoned ∧ s'.hg.cfg.timedOut = s.hg.cfg.timedOut
        ∧ s'.hg.cfg.unsupported = s.hg.cfg.unsupported
        ∧ (i.2 = true → s'.hg.linkUp = s.hg.linkUp ∧ s'.hg.generation = s.hg.generation ∧ s'.hg.lanes = s.hg.lanes)
        ∧ (i.2 = false → 1 ≤ s'.hg.generation ∧ s'.hg.generation ≤ 7 ∧ s'.hg.lanes ∈ [1, 2, 4, 8, 16]))

/-- R417 to R421, Table 15.9, R24, R37: Drowse, Deep and the way out of them. A request is refused with its cause
while the module is busy; an access of the host to a unit that Drowse gates is held and leads out of Drowse, and one after it
is held as well, in its order; a wake in Deep waits until VMAIN and the temperature allow it. Readings of the model: log
entries 2, 32 and 41. -/
def Obligations.LowPowerStatesAreEnteredAndLeft : Prop :=
  ∀ (s : State) (why : WakeBy),
    (∀ i ∈ [Instr.drowseRequest, .sidebandDrowseRequest], s.active = true → s.hg.linkUp = true →
      (i = .drowseRequest → s.hg.held = []) →
      (drowseRefusal s ≠ 0 → ∃ s', exec i s = .next s' ∧ s'.power = s.power ∧ s'.keeper.pwrRefused = true
        ∧ s'.keeper.pwrCause = BitVec.ofNat 4 (drowseRefusal s) ∧ { s' with keeper := s.keeper } = s)
      ∧ (drowseRefusal s = 0 → ∃ s', exec i s = .next s'
        ∧ s'.power = { s.power with phase := .enteringDrowse, ready := false } ∧ s'.keeper.pwrRefused = false
        ∧ { s' with keeper := s.keeper, power := s.power } = s))
    ∧ (s.power.phase = .enteringDrowse → s.power.wakeHeld = false → s.hg.held = [] →
      ∃ s', exec .drowseEntryComplete s = .next s' ∧ s'.power.phase = .drowse
        ∧ (∀ c, (s'.core c).cistern = []) ∧ (∀ d, d < 8 → (s'.die d).vcd = 450 ∧ (s'.die d).vcs = 0)
        ∧ ∀ p, p < 32 → (s'.port p).state = .down ∨ (s'.port p).state = .fenced)
    ∧ (s.hg.held = [] → s.power.phase = .enteringDrowse → exec (.drowseExit why) s = .next { s with
        power := { s.power with phase := .active, ready := true, wakeHeld := false }
        keeper := { s.keeper with pwrRefused := true, pwrCause := 6 } })
    ∧ (s.hg.held = [] → s.power.phase = .drowse ∨ s.power.phase = .leavingDrowse →
      ∃ s', exec (.drowseExit why) s = .next s' ∧ s'.power = { s.power with phase := .active, ready := true, wakeHeld := false }
        ∧ (∀ d, d < 8 → (s'.die d).point = 0 ∧ (s'.die d).index = 78)
        ∧ { s' with power := s.power, dies := s.dies, links := s.links } = s)
    ∧ (hostUp s = true → s.hg.held = [] → ∃ s', exec .deepRequest s = .next s'
        ∧ (s.ctxs.any (fun e => e.2.isOpen) = true →
          s'.keeper.pwrRefused = true ∧ s'.keeper.pwrCause = 4 ∧ s'.power = s.power)
        ∧ (s.ctxs.any (fun e => e.2.isOpen) = false → s.power.vaux = false →
          s'.keeper.pwrRefused = true ∧ s'.keeper.pwrCause = 5 ∧ s'.power = s.power)
        ∧ (s.ctxs.any (fun e => e.2.isOpen) = false → s.power.vaux = true →
          s'.power.phase = .deep ∧ s'.keeper.deepCause = 1 ∧ s'.fuses = s.fuses
            ∧ FencesLast s s' ∧ s'.mem.flash = s.mem.flash))
    ∧ (s.active = true → ∃ s', exec .sidebandDeepRequest s = .next s'
        ∧ (s.power.vaux = true → s'.power.phase = .deep ∧ s'.keeper.deepCause = 1 ∧ s'.ctxs = []
          ∧ s'.keeper.answers = s.keeper.answers ++ [.handled true])
        ∧ (s.power.vaux = false → s'.keeper.pwrCause = 5 ∧ s'.keeper.answers = s.keeper.answers ++ [.handled false]
          ∧ s'.power = s.power))
    ∧ (∀ (off a b : Nat) (v : Word) (bytes : List Byte) (on : Bool), s.hg.linkUp = true → inDrowse s = true →
      (0x400000 ≤ off → ∀ n, exec (.registerWrite ⟨.bar0, off, n⟩ v) s = .next (s.heldBack (.registerWrite ⟨.bar0, off, n⟩ v)))
      ∧ (a + b ≤ 2 ^ s.hg.cfg.bar4Log2 → exec (.bar4Read a b on) s = .next (s.heldBack (.bar4Read a b on)))
      ∧ (a + bytes.length ≤ 2 ^ s.hg.cfg.bar4Log2 → exec (.bar4Write a bytes) s = .next (s.heldBack (.bar4Write a bytes)))
      ∧ (a ≠ 0 → (s.ctx a).isOpen = true →
        exec (.intakeWrite a b bytes) s = .next (s.heldBack (.intakeWrite a b bytes)))
      ∧ ∀ i ∈ [Instr.fenceRequest a b, .bistRequest a b, .portEnable a, .portDisable a, .portRetrain a, .clearFirst,
          .translationInvalidate a b, .ingest a, .trim a, .hostCapWrite a, .fixedRateWrite on, .tallyReset a b,
          .tallySnapshot a, .handSetSignal a b, .handSetCount a b, .checkSlotBind a, .checkSlotUnbind a],
        exec i s = .next (s.heldBack i))
    ∧ (hostUp s = true → s.hg.held ≠ [] → ∀ (c : Nat) (v : W32) (drawn : Mix) (kd : Rec) (l : BitVec 2) (on : Bool),
      ∀ i ∈ [Instr.ringConsumedWrite c v, .contextOpen c l on, .contextReset c, .intakeRewind c, .faultRecordClear c,
          .ctxSnapshot c, .debugChallenge drawn, .debugSubmit kd on, .debugLock, .drowseRequest, .deepRequest],
        exec i s = .next { s with hg := { s.hg with held := s.hg.held ++ [i] } })
    ∧ (s.power.phase = .deep → exec .wakeTrip s = .next { s with power := { s.power with wakeHeld := true } })
    ∧ (s.power.phase = .drowse → exec .wakeTrip s = .next { s with power := { s.power with phase := .leavingDrowse } })
    ∧ (s.power.phase = .deep → exec .sidebandWakeRequest s = .next { s with
        power := { s.power with wakeHeld := true }
        keeper := { s.keeper with answers := s.keeper.answers ++ [.handled true] } })
    ∧ (s.power.phase = .deep → s.power.wakeHeld = true →
      (s.power.vmain = true → s.power.thermalHold = false → exec .wakeTakesEffect s
        = .next { s with power := { s.power with wakeHeld := false, starting := true } })
      ∧ (s.power.vmain = false ∨ s.power.thermalHold = true → exec .wakeTakesEffect s = .next s))

/-- R35 to R37, R392, R47, Tables 1.9, 2.2 and 2.3: samples of the sensors and loss of a clock. A sensor at its trip
level takes a converting module to Deep with cause 2 until the condition of R37 is met; without one, the thermal floor
of a running die rises by 4 where a sensor of it warns. A domain that loses lock is retried, and its third failure
lists it as fenced. The host link is up again as soon as the PLL of PCIe has locked (the model's choice, log entry 51).
Readings of the model: log entries 30 and 46. -/
def Obligations.SensorsAndClocksAct : Prop :=
  ∀ (s : State) (readings : List (Nat × Int)) (row inst index : Nat),
    (sidebandUp s = true → s.power.converting = true → s.power.vaux = true →
      (∃ e ∈ readings, ∃ l, sensorLimits e.1 = some l ∧ l.2 ≤ e.2) → (readings.map Prod.fst).Nodup →
      ∃ s', exec (.thermalSample readings) s = .next s' ∧ s'.power.phase = .deep ∧ s'.keeper.deepCause = 2
        ∧ s'.power.thermalHold = true ∧ s'.power.converting = false ∧ s'.ctxs = [] ∧ s'.fuses = s.fuses
        ∧ FencesLast s s')
    ∧ (sidebandUp s = true → s.power.sensors = [] → (∀ e ∈ readings, ∀ l, sensorLimits e.1 = some l → e.2 < l.2) →
      (readings.map Prod.fst).Nodup → ∃ s', exec (.thermalSample readings) s = .next s'
        ∧ s'.power.phase = s.power.phase ∧ s'.ctxs = s.ctxs ∧ s'.tasks = s.tasks ∧ SameBytes s s'
        ∧ (∀ e ∈ readings, (sensorLimits e.1).isSome = true → s'.power.sensors.get 0 e.1 = e.2)
        ∧ ∀ d, dieRuns s d = true → (∃ e ∈ readings, ∃ l, e.1 / 64 = d ∧ sensorLimits e.1 = some l ∧ l.1 ≤ e.2) →
          (s'.die d).thermal = min 78 ((s.die d).thermal + 4))
    ∧ (s.active = true → index = 256 * row + inst → inst < 256 → unitExists 15 index = true → listed s 15 index = false →
      s.fence.pllBad.find index = none →
      (row = 5 → ∃ s', exec (.pllLossOfLock row inst) s = .next s' ∧ s'.fence.pllBad.find index = some 0
        ∧ s'.power.keeperPll = false ∧ s'.keeper.alerts = s.keeper.alerts + 1 ∧ s'.power.phase = .active
        ∧ s'.ctxs = s.ctxs ∧ SameBytes s s'
        ∧ s'.log.classes.get 0 8 = min (2 ^ 48 - 1) (s.log.classes.get 0 8 + 1))
      ∧ (row = 1 ∨ row = 2 → (∀ o ∈ s.ops, o.openPos = []) → (∀ e ∈ s.mt.ingest, e.2.state ≠ 1) → s.dg.held = [] →
        ∃ s', exec (.pllLossOfLock row inst) s = .next s' ∧ s'.fence.pllBad.find index = some 0 ∧ s'.power = s.power
        ∧ s'.ctxs = s.ctxs ∧ SameBytes s s' ∧ s'.log.classes.get 0 8 = min (2 ^ 48 - 1) (s.log.classes.get 0 8 + 1))
      ∧ (row = 0 → ∃ s', exec (.pllLossOfLock row inst) s = .next s' ∧ s'.hg.linkUp = false)
      ∧ (row = 3 → (s.port inst).state ≠ .down → (s.port inst).state ≠ .fenced →
        ∃ s', exec (.pllLossOfLock row inst) s = .next s' ∧ (s'.port inst).state = .down ∧ (s'.port inst).downCause = 1)
      ∧ (row = 4 → ∃ s', exec (.pllLossOfLock row inst) s = .next s'
        ∧ ∀ u, u < 8 → s'.fence.ucie.get 0 (8 * (inst / 2) + u) = 3))
    ∧ (∀ n, index = 256 * row + inst → s.fence.pllBad.find index = some n →
      (row ≠ 0 → row ≠ 5 → exec (.pllLockRetry row inst true) s
        = .next { s with fence := { s.fence with pllBad := s.fence.pllBad.del index } })
      ∧ (row = 5 → exec (.pllLockRetry row inst true) s = .next { s with
        fence := { s.fence with pllBad := s.fence.pllBad.del index }, power := { s.power with keeperPll := true } })
      ∧ (row = 0 → s.active = true → ∃ gen lanes flit, exec (.pllLockRetry row inst true) s = .next { s with
        fence := { s.fence with pllBad := s.fence.pllBad.del index }, freeCount := s.freeCount + 1
        hg := { s.hg with detect := false, linkUp := true, generation := gen, lanes := lanes, flitMode := flit } })
      ∧ (n < 2 → exec (.pllLockRetry row inst false) s
        = .next { s with fence := { s.fence with pllBad := s.fence.pllBad.put index (n + 1) } })
      ∧ (2 ≤ n → listed s 15 index = false → ∃ s', exec (.pllLockRetry row inst false) s = .next s'
        ∧ ⟨15, index, 5⟩ ∈ s'.keeper.fenceList))

/-! ### The sideband, attestation, firmware and debug -/

/-- R406 to R409, R402, R411, Tables 15.4 and 15.5: every request of a transport that is there is answered. The higher
version offered is settled where P-521 and SHA-512 are offered; the certificate chain of slot 0 is given part by part, with its
digest, and no other slot's; a signature is given while the identity key stands; each measurement reports its content, index 0
their number and index 255 all of them, and any other request is refused. Keeper firmware takes the owner's debug digest once,
in Production, and in Test the identity key, its chain and the end of test. Readings of the model: log entries 8 and 15. -/
def Obligations.AttestationRequestsAreAnswered : Prop :=
  ∀ (s : State) (port : SpdmPort) (nonce : Mix) (o12 o13 signed : Bool) (index : Nat),
    (spdmUp s port = true →
      exec (.getVersion port) s = .next (s.answered (.versions port [0x12, 0x13]))
      ∧ (∃ flags, exec (.getCapabilities port) s = .next (s.answered (.capabilities port flags)))
      ∧ (s.fuses.lifecycle ≠ 1 →
        exec (.getDigests port) s = .next (s.answered (.digests port 0 (bytesRec (sha512 s.keeper.certChain))))
        ∧ ∀ off n, exec (.getCertificate ⟨port, 0, off, n⟩) s = .next (s.answered
          (.certificate port 0 ((s.keeper.certChain.drop off).take n) (s.keeper.certChain.length - off - n))))
      ∧ (s.fuses.lifecycle = 1 → ∃ chain : List Byte,
        exec (.getDigests port) s = .next (s.answered (.digests port 0 (bytesRec (sha512 chain))))
        ∧ ∀ off n, exec (.getCertificate ⟨port, 0, off, n⟩) s
          = .next (s.answered (.certificate port 0 ((chain.drop off).take n) (chain.length - off - n))))
      ∧ (∀ slot off n, slot ≠ 0 →
        exec (.getCertificate ⟨port, slot, off, n⟩) s = .next (s.answered (.spdmError port))
        ∧ exec (.challenge ⟨port, slot⟩ nonce) s = .next (s.answered (.spdmError port)))
      ∧ exec (.unsupportedSpdmRequest port) s = .next (s.answered (.spdmError port))
      ∧ exec (.mctpControlMessage (.control port)) s = .next (s.answered .mctp)
      ∧ (∀ p521 sha, (o12 = false ∧ o13 = false) ∨ p521 = false ∨ sha = false →
        exec (.negotiateAlgorithms ⟨port, p521, sha⟩ o12 o13) s = .next (s.answered (.spdmError port)))
      ∧ (o12 = true ∨ o13 = true → ∀ v, v = (if o13 then 0x13 else 0x12) →
        exec (.negotiateAlgorithms ⟨port, true, true⟩ o12 o13) s = .next { s with keeper := { s.keeper with
          spdmVersion := v, answers := s.keeper.answers ++ [.algorithms port v] } })
      ∧ (s.fuses.identityKey = true → s.fuses.lifecycle ≠ 3 → s.fuses.lifecycle ≠ 4 →
        exec (.challenge ⟨port, 0⟩ nonce) s = .next (s.answered (.challengeSigned port nonce)))
      ∧ (s.fuses.identityKey = false → exec (.challenge ⟨port, 0⟩ nonce) s = .next (s.answered (.spdmError port))
        ∧ exec (.getMeasurements port index true) s = .next (s.answered (.spdmError port)))
      ∧ ((signed = false ∨ s.fuses.identityKey = true ∧ s.fuses.lifecycle ≠ 3 ∧ s.fuses.lifecycle ≠ 4) →
        ∀ img (all : List (Nat × List Byte)), img = s.keeper.image s.keeper.runB →
        all = [(1, recBytes s.keeper.romDigest), (2, sha512 (imageHeader img ++ takePad 0 img.length img.body)),
            (3, [img.svn.zeroExtend 8, s.fuses.svnMin.zeroExtend 8]),
            (4, [s.fuses.lifecycle.zeroExtend 8, s.keeper.scopes.zeroExtend 8]), (5, identityBlock s),
            (6, fenceListBytes s)] →
        (∀ m ∈ all, exec (.getMeasurements port m.1 signed) s = .next (s.answered (.measurements port 1 [m] signed)))
        ∧ exec (.getMeasurements port 0 signed) s = .next (s.answered (.measurements port 6 [] signed))
        ∧ exec (.getMeasurements port 255 signed) s = .next (s.answered (.measurements port 6 all signed)))
      ∧ (6 < index → index ≠ 255 → exec (.getMeasurements port index signed) s = .next (s.answered (.spdmError port))))
    ∧ (sidebandUp s = true → s.power.phase ≠ .recovery → ∀ (d : Rec) (chain : List Byte), ∀ yes no, yes = Answer.handled true →
      no = Answer.handled false →
      (s.fuses.lifecycle = 2 ∧ s.fuses.ownerDigest = none → exec (.mctpControlMessage (.ownerDigest d)) s
        = .next { s.answered yes with fuses := { s.fuses with ownerDigest := some d } })
      ∧ (s.fuses.lifecycle ≠ 2 ∨ s.fuses.ownerDigest ≠ none →
        exec (.mctpControlMessage (.ownerDigest d)) s = .next (s.answered no))
      ∧ (s.fuses.lifecycle = 1 →
        exec (.mctpControlMessage (.generateKey d)) s
          = .next { s.answered yes with fuses := { s.fuses with identityKey := true, keyDigest := d } }
        ∧ exec (.mctpControlMessage (.certificate chain)) s = .next { s with
          keeper := { s.keeper with certChain := chain, answers := s.keeper.answers ++ [yes] } }
        ∧ ∃ s', exec (.mctpControlMessage .endOfTest) s = .next s' ∧ s'.fuses = { s.fuses with lifecycle := 2 })
      ∧ (s.fuses.lifecycle ≠ 1 → ∀ m ∈ [SidebandMessage.generateKey d, .certificate chain, .endOfTest],
        exec (.mctpControlMessage m) s = .next (s.answered no)))

/-- R404, R384, R402, R410 to R412, R409: firmware goes to the slot that does not run and is activated in Deep or in recovery
alone, and where it is refused the new image stays due; a token uses up its nonce, and one that passes every check unlocks its
scopes or moves the lifecycle forward for good; the port of IEEE 1149.1 takes its instruction, and EXTEST acts only with PERST#
asserted or in Deep. Readings of the model: log entries 8, 15 and 45. -/
def Obligations.FirmwareDebugAndJtag : Prop :=
  ∀ (s : State) (img : Image) (watts : Nat) (drawn : Mix) (token : BitVec 4096) (kd : Rec) (sig : Bool)
    (levels : List Bool) (k : Keeper), k = s.keeper →
    (sidebandUp s = true →
      (∀ ok, ok = decide (imageFails s img = 0) → exec (.firmwareImageTransfer img) s = .next { s with keeper := { k with
        newImage := ok, slotA := if k.runB then img else k.slotA, slotB := if k.runB then k.slotB else img
        answers := k.answers ++ [.pldm ok] } })
      ∧ (k.newImage = false → exec .activateFirmware s
        = .next { s with keeper := { k with answers := k.answers ++ [.pldm false] } })
      ∧ (k.newImage = true → s.power.phase = .deep ∨ s.power.phase = .recovery → exec .activateFirmware s = .next { s with
        keeper := { k with preferB := !k.runB, firstStart := true, answers := k.answers ++ [.pldm true] }
        power := { s.power with phase := .romStarted, starting := false, wakeHeld := false } })
      ∧ (k.newImage = true → s.power.phase ≠ .deep → s.power.phase ≠ .recovery → exec .activateFirmware s = .next { s with
        keeper := { k with preferB := !k.runB, firstStart := true, answers := k.answers ++ [.pldm false] } })
      ∧ (s.power.phase ≠ .recovery → exec (.sidebandCap watts) s = .next { s with
        weir := { s.weir with capSideband := min 4000 watts }
        keeper := { k with answers := k.answers ++ [.handled true] } }))
    ∧ (s.power.phase = .recovery → ∀ i ∈ [Instr.sidebandCap watts, .sidebandWakeRequest, .sidebandDrowseRequest,
        .sidebandDeepRequest, .debugTokenMessage token kd sig], exec i s = .next s)
    ∧ (hostUp s = true → s.hg.held = [] →
      exec (.debugChallenge drawn) s = .next { s with keeper := { k with nonce := drawn, nonceValid := true } }
      ∧ exec .debugLock s = .next { s with keeper := { k with scopes := 0 } })
    ∧ (∀ i tok, (i = Instr.debugSubmit kd sig ∧ tok = k.token ∧ hostUp s = true ∧ s.hg.held = []
          ∨ i = Instr.debugTokenMessage token kd sig ∧ tok = token ∧ sidebandUp s = true ∧ s.power.phase ≠ .recovery) →
      ∀ r t, r = tokenResult s tok.toNat kd sig → t = tokenScopes tok.toNat →
        (k.nonceValid = false → r ≠ 1)
        ∧ (r ≠ 1 → exec i s
          = .next { s with keeper := { k with token := tok, nonceValid := false, dbgResult := BitVec.ofNat 3 r } })
        ∧ (r = 1 → t < 8 → ∃ s', exec i s = .next s'
          ∧ s'.keeper = { k with
              token := tok, nonceValid := false, dbgResult := 1, scopes := k.scopes ||| BitVec.ofNat 3 t }
          ∧ s'.log.classes.get 0 10 = min (2 ^ 48 - 1) (s.log.classes.get 0 10 + 1) ∧ s'.fuses = s.fuses ∧ SameBytes s s')
        ∧ (r = 1 → 8 ≤ t → ∃ s', exec i s = .next s'
          ∧ s'.power.phase = (if s.power.vaux then Phase.romStarted else .off)
          ∧ s'.fuses = { s.fuses with lifecycle := if 16 ≤ t then 4 else 3, identityKey := false }
          ∧ s'.ctxs = [] ∧ s'.keeper.scopes = 0 ∧ (t < 16 → s'.mem.flash = [])))
    ∧ (s.power.phase ≠ .off →
      exec .bypass s = .next { s with keeper := { k with jtag := .bypass } }
      ∧ (∃ id : W32, exec .idcode s = .next { s with keeper := { k with jtag := .idcode, shiftOut := id } })
      ∧ (s.power.perst = true ∨ s.power.phase = .deep → exec (.extest (.extest levels)) s
        = .next { s with keeper := { k with jtag := .extest, boundary := levels.take 1102 } })
      ∧ (s.power.perst = false → s.power.phase ≠ .deep → exec (.extest (.extest levels)) s
        = .next { s with keeper := { k with jtag := .extest } } ∧ (k.jtag = .extest → jtagInForce s = .bypass))
      ∧ (∀ code, exec (.extest (.maker code)) s = .next { s with keeper := { k with jtag := .maker code } }
        ∧ (k.jtag = .maker code → debugOpen s 2 = false → jtagInForce s = .bypass))
      ∧ ∃ b, exec (.samplePreload levels) s = .next { s with keeper := { k with jtag := .sample, boundary := b } }
        ∧ b.length = min 1102 levels.length
        ∧ ∀ i, i < min 1102 levels.length →
          b[i]? = some (levels.getD i false && cellPowered s i))

/-! ### Power control (14_weir_power.md) -/

/-- R376 to R387, R393, R394: estimates, the governor, the weir's interval and the host's writes. Where array work
has ended, shelf steps hold an estimate to its slew share as far as there are any; the effective cap is the least of the caps; a cap below the module's floor is signalled
as it becomes unattainable, and marks the RUNs under way; a throttle index is never below its cap index, its thermal
floor or the lowest index of the point in force; a change of point waits for the end of droop withholding; the estimator's gain is trimmed so
that the estimate agrees with the measured power, from 0.90 to 1.10. Readings of the model: log entries 6, 14, 20 and 40. -/
def Obligations.PowerControlActs : Prop :=
  ∀ (s : State) (die core watts measured : Nat) (on : Bool),
    (die < 10 → (s.die die).up = true → (s.die die).resetting = false → loopsRun s = true →
      ∃ s', exec (.estimateInterval die) s = .next s' ∧ ((s'.die die).acts = [])
        ∧ (s'.die die).shelf = min (2 ^ 48 - 1) ((s.die die).shelf + shelfSteps s die) ∧ shelfSteps s die ≤ idleSteps s die
        ∧ (shelfSteps s die = 0 → (s'.die die).estimate = rawEstimate s die)
        ∧ (die < 8 → gained s (arrayWork s die) < (s.die die).arrayPart → 0 < s.weir.gain →
          (s.die die).estimate ≤ (s'.die die).estimate + s.power.vmainMv / 2000 ∨ shelfSteps s die = idleSteps s die
            ∨ shelfWeight die = 0)
        ∧ (∀ d, d ≠ die → s'.die d = s.die d) ∧ { s' with dies := s.dies, freeCount := s.freeCount } = s)
    ∧ (loopsRun s = true → ∀ cap bad, cap = min 4000 (min s.weir.capHost s.weir.capSideband) →
      bad = decide (cap < moduleFloor s) → ∃ s', exec .governorInterval s = .next s' ∧ s'.weir.capEffective = cap
        ∧ s'.weir.floor = moduleFloor s ∧ s'.weir.unattainable = bad
        ∧ s'.weir.energy = s.weir.energy + 2 * s'.weir.estimate ∧ (∀ d, d < 8 → (s'.die d).budget = budgetOf s cap d)
        ∧ (bad = true → s.weir.unattainable = false → s'.weir.unattain = min (2 ^ 48 - 1) (s.weir.unattain + 1)
          ∧ s'.hg.msix = s.hg.msix ++ [0] ∧ s'.keeper.alerts = s.keeper.alerts + 1
          ∧ s'.log.classes.get 0 6 = min (2 ^ 48 - 1) (s.log.classes.get 0 6 + 1))
        ∧ (bad = false ∨ s.weir.unattainable = true → s'.weir.unattain = s.weir.unattain ∧ s'.hg = s.hg
          ∧ s'.keeper = s.keeper ∧ s'.log = s.log)
        ∧ (bad = true → ∀ c, ∀ p ∈ (s'.ctx c).parcels, p.kind = kRun → p.progress = .started → p.failure = none →
          p.capped = true)
        ∧ (bad = false → s'.ctxs = s.ctxs))
    ∧ (loopsRun s = true → s.weir.trimCount ≠ 0 → ∀ part want, part = s.weir.trimDyn / s.weir.trimCount →
      want = part + measured - s.weir.trimSum / s.weir.trimCount → exec (.estimatorTrim measured) s = .next { s with
        weir := { s.weir with
          gain := if part = 0 then s.weir.gain else max 29491 (min 36045 (s.weir.gain * want / part))
          trimSum := 0, trimDyn := 0, trimCount := 0 } })
    ∧ (dieRuns s die = true → loopsRun s = true → ∃ s' x, exec (.weirInterval die) s = .next s' ∧ x = s'.die die
        ∧ x.fixed = s.weir.fixedRate ∧ x.capIndex ≤ x.index ∧ x.thermal ≤ x.index ∧ (x.pointOf x.point).minIndex ≤ x.index
        ∧ x.thermal = (s.die die).thermal
        ∧ x.throttled = min (2 ^ 48 - 1) ((s.die die).throttled + (if 0 < (s.die die).index then 200 else 0))
        ∧ (s.die die).allowance ≤ x.allowance + s.power.vmainMv / 2000
        ∧ ((s.die die).droop ≠ 0 → (s.die die).settled ((s.die die).pointOf (s.die die).point) = true →
          x.point = (s.die die).point ∧ x.vcd = (s.die die).vcd)
        ∧ (s'.weir.fixedActive = true ↔ ∃ d, d < 8 ∧ (s'.die d).fixed = true)
        ∧ (∀ d, d ≠ die → s'.die d = s.die d)
        ∧ { s' with dies := s.dies, links := s.links, weir := s.weir, freeCount := s.freeCount } = s)
    ∧ (s.active = true → dieRuns s (core / 64) = true → (s.die (core / 64)).fixed = true →
      exec (.pacerToken core false) s = .next { s with cores := s.cores.put core { s.core core with token := true } }
      ∧ ((∃ k, k < 4 ∧ slotReady s core k = true) → exec (.pacerToken core true) s = .next { s with
        cores := s.cores.put core { s.core core with token := false }
        dies := s.dies.put (core / 64) { s.die (core / 64) with
          pacerMiss := min (2 ^ 48 - 1) ((s.die (core / 64)).pacerMiss + 1) } })
      ∧ ((∀ k, k < 4 → slotReady s core k = false) → exec (.pacerToken core true) s
        = .next { s with cores := s.cores.put core { s.core core with token := false } }))
    ∧ (HostReady s →
      exec (.hostCapWrite watts) s = .next { s with weir := { s.weir with capHost := min 4000 watts } }
      ∧ ∀ r : Bool, (r = true ↔ on = true ∧ ∃ d, d < 8 ∧ (∃ k, k < 64 ∧ (s.core (64 * d + k)).fenced = false)
            ∧ ∀ p, p < 16 → ((s.die d).pointOf p).minRate < 1000) →
        exec (.fixedRateWrite on) s
          = .next { s with weir := { s.weir with fixedRate := on && !r, fixedRefused := r } })

/-- R389 to R391, R395, R371, R413, R425: droop, pace notices and the reset of a die. A warning withholds its quadrant
until its hold ends, and the dip is then recorded; a die that resets loses its tasks, its cisterns and the tallies
homed on it, and stands at OP0 and T = 78; a pace notice in order is counted and makes the hold windows of its slot
zero; a pacing die sends its notice again on every tree port that carries level 2 flits. Readings of the model: log entries 2, 40,
46 and 55. -/
def Obligations.DroopPaceAndDieResets : Prop :=
  ∀ (s : State) (die q depth duration : Nat),
    (dieRuns s die = true → q < 4 →
      exec (.droopWarning die q) s = .next { s with dies := s.dies.put die { s.die die with
        droop := (s.die die).droop ||| BitVec.twoPow 4 q, droops := min (2 ^ 48 - 1) ((s.die die).droops + 1) } }
      ∧ ((s.die die).droop.getLsbD q = true → ∃ s', exec (.droopRecoveryHoldExpiry die q depth duration) s = .next s'
        ∧ (s'.die die).droop.getLsbD q = false ∧ (∀ k, k ≠ q → (s'.die die).droop.getLsbD k = (s.die die).droop.getLsbD k)
        ∧ (s'.die die).dipValid = true ∧ (s'.die die).dipQuadrant.toNat = q
        ∧ (s'.die die).dipDepth = BitVec.ofNat 8 depth ∧ s'.weir.dips = min (2 ^ 48 - 1) (s.weir.dips + 1)
        ∧ s'.log.classes.get 0 6 = min (2 ^ 48 - 1) (s.log.classes.get 0 6 + 1)
        ∧ s'.ops.map (fun o => { o with steps := 0 }) = s.ops.map (fun o => { o with steps := 0 })
        ∧ { s' with dies := s.dies, ops := s.ops, weir := s.weir, log := s.log, freeCount := s.freeCount } = s)
      ∧ ∀ i ∈ [Instr.droopReset die q, .dieReset die], ∃ s', exec i s = .next s'
        ∧ (s'.die die).resetting = true ∧ (s'.die die).point = 0 ∧ (s'.die die).index = 78
        ∧ (∀ w : Who, w.slot < 4 → w.core / 64 = die → s'.task w = none)
        ∧ (∀ k, k / 64 = die → (s'.core k).cistern = [] ∧ (s'.core k).footprint = none)
        ∧ (∀ n, homeDie n = die → s'.tally n = Tally.reset)
        ∧ ∃ r, s'.log.last = some r ∧ r.severity = 3)
    ∧ ((s.die die).resetting = true → exec (.dieResetComplete die) s
        = .next { s with dies := s.dies.put die { s.die die with resetting := false } })
    ∧ (s.active = true → dieRuns s die = true → (s.die die).pacing = true → ∃ s', exec (.paceNoticeResend die) s = .next s'
        ∧ { s' with links := s.links } = s
        ∧ (s.weir.pace = false → s' = s)
        ∧ (s.weir.pace = true → ∀ e ∈ s.slots, ∀ p ∈ e.2.treePorts, e.2 = s.slot e.1 → e.2.bound = true →
          (∃ x ∈ s.tasks, x.1 / 256 = die ∧ x.2.ctx = e.2.ctx.toNat) → (s.port p).live = true → (s.port p).version = 2 →
          ∃ f ∈ (s'.port p).flits, f.cls = 3 ∧ f.dst = (s.port p).peerAddr ∧ f.context = e.2.ctx.toNat
            ∧ f.payload = .pace e.2.group (min (s.die die).index 63) s.weir.paceTicks.toNat))
    ∧ (∀ slot, slot < 4096 → exec (.paceNoticeExpiry slot) s
        = .next { s with slots := s.slots.put slot { s.slot slot with pace := false } })
    ∧ ∀ (port : Nat) (h : FlitHead) (group : W32) (level n : Nat) (c : CheckSlot) (s1 : State), InOrder s port h true →
      s1 = receive port h 3 true 1 true id s → slotOf s1 group h.context = some (n, c) → c = s1.slot n → c.state ≠ .broken →
      c.treePorts.contains port = true → ∃ s', exec (.paceNotice port h group level duration) s = .next s'
        ∧ (s'.port port).paceRx = min (2 ^ 48 - 1) ((s.port port).paceRx + 1)
        ∧ (s'.slot n) = { c with pace := decide (duration ≠ 0) }
        ∧ (duration ≠ 0 → ∀ w ∈ c.held, ∀ t, s.task w.1 = some t → t.hostSeq = w.2 → t.status = .arriveHeld →
          s'.task w.1 = some { t with status := .arriveDesched })
        ∧ (duration = 0 → s'.tasks = s.tasks)
        ∧ { s' with links := s.links, slots := s.slots, tasks := s.tasks, tl := s.tl } = s

/-! ### Asynchronous work comes to its end -/

/-- R90, R104, R170, R172, R87, R158, R307, R308: a reply decides its row; that of an abandoned tag frees the tag; a
tag that times out is a detected error, and a BAR4 read that it answers is poisoned; a deadline acts where one is set;
an instruction with nothing left to wait for leaves its group, and a task that has halted ends with its last; what waited for a
bundle is sent once it resumes. Readings of the model: log entries 7, 9, 18 and 54. -/
def Obligations.AsynchronousWorkEnds : Prop :=
  (∀ (s : State) (tag : Nat) (t : Tag), findTag s tag = some t →
    (t.abandoned = true → ∀ i ∈ [Instr.abandonedReply tag, .tagTimeout tag],
      exec i s = .next (lateReads { s with tags := s.tags.filter fun x => decide (x.tag ≠ tag) }))
    ∧ (t.abandoned = false → exec (.abandonedReply tag) s = .next s
      ∧ ∃ s', exec (.tagTimeout tag) s = .next s'
        ∧ (tag < s.nextTag → (∀ o ∈ s.ops, ∀ p ∈ o.openPos, p.issued = false → p.tag ≠ tag) → findTag s' tag = none)
        ∧ min (2 ^ 48 - 1) (s.log.classes.get 0 0 + 1) ≤ s'.log.classes.get 0 0
        ∧ ∀ off n, t.use = .bar4 off n → s'.hg.readData = s.hg.readData ++ [(List.replicate n 0, true)])
    ∧ ∀ id u src o p, t.abandoned = false → t.use = .engine id u src → findOp s id = some o →
      o.openPos.find? (fun p => decide (p.tag = tag)) = some p →
      (p.mapWaits s = false → p.bad = none → bufferBad s 3 p.unit = false → checkPieces s (rowSource p) p.src = .ok () →
        exec (.engineReadReply tag .good) s = .next (lateReads (decideRow o p p.bytes p.nonfin (dropTag tag s))))
      ∧ (∀ e, p.mapWaits s = false → (p.bad = some e ∨ p.bad = none ∧ bufferBad s 3 p.unit = false
          ∧ checkPieces s (rowSource p) p.src = .error (.detected e)) →
        exec (.engineReadReply tag .good) s = .next (lateReads (rowInError o p e (dropTag tag s))))
      ∧ (p.mapWaits s = true → exec (.engineReadReply tag .good) s = .next s)
      ∧ exec (.engineReadReply tag .detected) s
        = .next (lateReads (rowInError o p (rowErr s p) (dropTag tag s))))
  ∧ (∀ (s : State) (id : Nat) (o : AsyncOp), findOp s id = some o → s.active = true →
    (o.name = "GATHER" → (o.deadline ≠ 0 → exec (.gatherDeadline id) s = .next (expireGather o s))
      ∧ (o.deadline = 0 → exec (.gatherDeadline id) s = .next s))
    ∧ (∀ q, o.name = "PFSCHED" → o.posOpen.find? (fun x => decide (x.pos = q.pos)) = some q →
      (o.needs.contains q.pos = true → pfDeadline q.entry ≠ 0 →
        exec (.prefetchDeadline id q.pos) s = .next (expirePosition o q s))
      ∧ (o.needs.contains q.pos = false ∨ pfDeadline q.entry = 0 → exec (.prefetchDeadline id q.pos) s = .next s))
    ∧ (∀ t, o.name = "PFSCHED" → s.task o.who = some t → o.cut = false → o.nextPos < o.pfTotal →
      (o.pfFirst + o.pfBuffers ≤ o.nextPos → ((s.grants.findIdx? fun g => decide (g.pf = some id)) = none
          ∨ ∃ k, (s.grants.findIdx? fun g => decide (g.pf = some id)) = some k
            ∧ (s.grants[k]?).any (nextGrant s k) = false) → exec (.prefetchPositionStart id) s = .next s)
      ∧ ∀ s0, (o.nextPos < o.pfFirst + o.pfBuffers ∧ s0 = s
          ∨ o.pfFirst + o.pfBuffers ≤ o.nextPos ∧ ∃ k, (s.grants.findIdx? fun g => decide (g.pf = some id)) = some k
            ∧ (s.grants[k]?).any (nextGrant s k) = true ∧ s0 = { s with grants := s.grants.eraseIdx k }) →
        (∀ s1, startPosition o t s0 = .ok s1 → exec (.prefetchPositionStart id) s = .next s1)
        ∧ ∀ b, startPosition o t s0 = .error b → exec (.prefetchPositionStart id) s
          = .next (failParcel o.ctx o.hostSeq (match b with | .stale .. => some o.who | _ => none) 0 (o.who.core / 64) b s0))
    ∧ (canFinish s o = false → exec (.asyncInstructionFinish id) s = .next s)
    ∧ (∀ t, canFinish s o = true → o.name ≠ "PFSCHED" → o.name ≠ "MASK" → o.name ≠ "SAMPLE" → (o.name = "GATHER" → o.fallback ≠ 4) →
      o.report = 0 → o.spoiled = false → (o.tile = none ∨ s.errs.contains ⟨6, o.who.core, 0⟩ = false) →
      s.task o.who = some t →
      (t.status ≠ .haltPending → ∃ s' t', exec (.asyncInstructionFinish id) s = .next s'
        ∧ findOp s' id = none ∧ s'.task o.who = some t' ∧ t'.groups.get 0 o.group = t.groups.get 0 o.group - 1
        ∧ (∀ k, k ≠ o.group → t'.groups.get 0 k = t.groups.get 0 k) ∧ { t' with groups := t.groups } = t
        ∧ (∀ x : Who, Who.key x ≠ Who.key o.who → s'.task x = s.task x) ∧ SameBytes s s'
        ∧ s'.loose = s.loose ++ (if o.cells = [] then [] else [o])
        ∧ { s' with tasks := s.tasks, ops := s.ops, cores := s.cores, loose := s.loose, sm := s.sm, dies := s.dies,
                    freeCount := s.freeCount } = s)
      ∧ (t.status = .haltPending → (∀ e ∈ t.groups, e.1 ≠ o.group → e.2 = 0) → t.groups.get 0 o.group = 1 →
        ∃ s', exec (.asyncInstructionFinish id) s = .next s' ∧ findOp s' id = none ∧ s'.task o.who = none)))
  ∧ (∀ (s : State) (dim b : Nat) (minus : Bool), b = 2 * dim + (if minus then 1 else 0) → s.active = true →
    s.links.stopped.contains b = true → bundleQuiet s b = true →
    (∀ e ∈ s.links.queued, e.1 = b → s.links.pickPort b e.2 ≠ none) → ∃ s', exec (.bundleResume dim minus) s = .next s'
      ∧ s'.links.stopped.contains b = false ∧ (∀ e ∈ s'.links.queued, e.1 ≠ b) ∧ { s' with links := s.links } = s)
  ∧ (∀ (s : State) (w : Who) (t : Task) (g : Guard) (ra rb : Fin 64), Ready s w t →
    (t.acts g = true → liveSamplers s (w.core / 64) = [] → EndsParcel (exec (.skey w g ra rb) s) s w t (.status 13 0))
    ∧ (t.acts g = true → liveSamplers s (w.core / 64) ≠ [] → (s.ctx t.ctx).sealed.state = .none →
      (s.ctx t.ctx).sealed.inReplay = false → ∃ s', exec (.skey w g ra rb) s = .next s'
        ∧ s'.task w = some { t with pc := t.pc + 8, status := .ready }
        ∧ (∀ x : Who, Who.key x ≠ Who.key w → s'.task x = s.task x)
        ∧ s'.ctx t.ctx = { s.ctx t.ctx with shuffleKey := t.sreg ra, samplingKey := t.sreg rb }
        ∧ (∀ j, j ≠ t.ctx → s'.ctx j = s.ctx j)
        ∧ { s' with tasks := s.tasks, ctxs := s.ctxs } = issued w s)
    ∧ (t.acts g = false → RunsTask (exec (.skey w g ra rb) s) s w (GoesTo t (t.pc + 8))))
  ∧ ∀ (s s1 : State) (port n : Nat) (h : FlitHead) (data : List Byte) (status : BitVec 4), InOrder s port h false →
    h.dst = s.links.modAddr → n = Payload.flits (.reply status data) → Brings s port h 1 n →
    s1 = receive port h 1 false n true id s →
    (linkTag s1 h.tag = none → exec (.linkReply port h status data) s = .next s1)
    ∧ ∀ t, linkTag s1 h.tag = some t →
      (t.abandoned = true → exec (.linkReply port h status data) s = .next (dropTag t.tag s1))
      ∧ (∀ w rd n off x, t.abandoned = false → t.use = .remoteLoad w rd n off → s1.task w = some x → data ≠ [] →
        status = 0 → ∃ s' x', exec (.linkReply port h status data) s = .next s' ∧ s'.task w = some x'
          ∧ x'.status = .ready
          ∧ x'.sreg (Fin.ofNat 64 rd) = BitVec.ofNat 64 (leNat (takePad 0 n (data.drop off)))
          ∧ (∀ r, r ≠ Fin.ofNat 64 rd → x'.sreg r = x.sreg r)
          ∧ { s' with tasks := s.tasks, tags := s.tags } = { s1 with tasks := s.tasks, tags := s.tags })
      ∧ (∀ off n, t.abandoned = false → t.use = .bar4 off n → status = 0 → exec (.linkReply port h status data) s
        = .next { dropTag t.tag s1 with hg := { s1.hg with
          readData := s1.hg.readData ++ [(takePad 0 n (data.drop off), false)] } })
      ∧ (∀ w, t.abandoned = false → t.use = .remoteStore w → status = 4 → ∀ x, s1.task w = some x →
        exec (.linkReply port h status data) s = .next
          (failParcel t.ctx t.hostSeq (some w) (x.pc - 8) (w.core / 64) (.status 13 0) (dropTag t.tag s1)))

/-- R110 to R116: a core is saved once its tasks stand still and its asynchronous instructions are done: its tasks
leave it and one record of them is kept; it waits otherwise. A saved ordinal comes back on a free core. Readings of
the model: log entries 7 and 43. -/
def Obligations.CoresAreSavedAndRestored : Prop :=
  (∀ (s : State) (core : Nat) (why : SaveWhy), s.active = true → s.fence.waiting = [] →
    (s.coreTasks core = [] → exec (.taskSave core why) s = .next s)
    ∧ (s.coreTasks core ≠ [] → (s.core core).saving = false → canSave s core why = false →
      exec (.taskSave core why) s = .next s)
    ∧ ∀ e r s0, s.coreTasks core = e :: r → ((s.core core).saving = true ∨ canSave s core why = true) →
      s0 = { s with cores := s.cores.put core { s.core core with saving := true } } →
      ((∃ o ∈ (drainCore core s0).ops, o.who.core = core) → exec (.taskSave core why) s = .next (drainCore core s0))
      ∧ ∀ p h s1, (∀ o ∈ s.ops, o.who.core ≠ core) →
        s.parcel e.2.ctx e.2.hostSeq = some p → p.header = some h →
        writeCore core why e.2.ctx p h (e :: r) s0 = .ok s1 → ∃ s' o, exec (.taskSave core why) s = .next s'
          ∧ s'.coreTasks core = [] ∧ s'.saved = s.saved ++ [o] ∧ o.core = core ∧ o.ctx = e.2.ctx
          ∧ o.hostSeq = p.hostSeq ∧ o.tasks.map (·.1) = (e :: r).map (fun x => x.1.slot)
          ∧ (∀ x : Who, x.core + x.slot / 4 ≠ core → (s'.task x).map Task.untiled = (s.task x).map Task.untiled))
  ∧ ∀ (s s1 : State) (ctx ordinal core : Nat) (hostSeq : W32) (o : SavedOrdinal) (p : Parcel) (h : RunHeader),
    s.active = true →
    s.saved.find? (fun x => decide (x.ctx = ctx) && decide (x.hostSeq = hostSeq) && decide (x.ordinal = ordinal)) = some o →
    s.parcel ctx hostSeq = some p → p.header = some h →
    (coreFree s core = false → exec (.taskRestore ctx hostSeq ordinal core) s = .next s)
    ∧ (o.atOnce = false → (∀ x ∈ o.tasks, x.2.2 = false) → exec (.taskRestore ctx hostSeq ordinal core) s = .next s)
    ∧ (coreFree s core = true → (o.atOnce = true ∨ ∃ x ∈ o.tasks, x.2.2 = true) → restoreOrdinal o p h core s = .ok s1 →
      exec (.taskRestore ctx hostSeq ordinal core) s = .next s1
      ∧ (∀ x ∈ s1.saved, ¬ (x.ctx = ctx ∧ x.hostSeq = hostSeq ∧ x.ordinal = ordinal))
      ∧ ∀ x ∈ o.tasks, (s1.task ⟨core, x.1⟩).isSome = true)

/-! ### The host interface (03_headgate_host.md) -/

/-- R76: a write to CT_RING_CONSUMED of a context that is open is accepted where its value equals the value C held or follows it
and equals the device sequence L of the last record written or precedes it; any other is ignored, and consumed_refused stands
until the next accepted write. While the context is closed, any value is accepted. -/
def Obligations.RingConsumedWritesAreJudged : Prop :=
  ∀ (s : State) (c : Nat) (x : Ctx) (held last value : W32), HostReady s → 1 ≤ c → c < 1024 → x = s.ctx c →
    held = x.regs.consumed → last = x.regs.lastWritten →
    (x.isOpen = true → (value - held).toNat ≤ (last - held).toNat → exec (.ringConsumedWrite c value) s
      = .next { s with ctxs := s.ctxs.put c { x with
          regs := { x.regs with consumed := value, consumedRefused := false } } })
    ∧ (x.isOpen = true → (last - held).toNat < (value - held).toNat → exec (.ringConsumedWrite c value) s
      = .next { s with ctxs := s.ctxs.put c { x with regs := { x.regs with consumedRefused := true } } })
    ∧ (x.phase = .closed → exec (.ringConsumedWrite c value) s
      = .next { s with ctxs := s.ctxs.put c { x with
          regs := { x.regs with consumed := value, consumedRefused := false } } })

/-- R61 to R84, R56: the intake, the contexts and their registers, completion records and BAR4. A write to a closed
context is dropped; one at the wrong place, one that overruns the slice and one that brings too long a length halt the intake; a complete parcel is accepted or answered by its verdict;
a record takes the next device sequence at its ring slot and fires its vector where asked. Readings of the model: log
entries 2, 12, 13, 33, 37 and 52. -/
def Obligations.HostInterfaceActs : Prop :=
  ∀ (s : State) (c : Nat) (x : Ctx), c ≠ 0 → x = s.ctx c →
    (HostReady s → ∀ (offset : Nat) (data : List Byte),
      (x.isOpen = false → exec (.intakeWrite c offset data) s
        = .next { s with hg := { s.hg with drops := min (2 ^ 48 - 1) (s.hg.drops + 1) } })
      ∧ (x.isOpen = true → x.halt = .none → ∀ why, (why = Halt.misplaced ∧ offset ≠ x.regs.tail.toNat % 4194304
            ∨ why = Halt.overrun ∧ offset = x.regs.tail.toNat % 4194304 ∧ 4194304 < x.intake.length + data.length
            ∨ why = Halt.length ∧ offset = x.regs.tail.toNat % 4194304 ∧ x.intake.length + data.length ≤ 4194304
              ∧ 32 ≤ x.intake.length + data.length ∧ 16383 < parcelLength (x.intake ++ data)) →
        ∃ s', exec (.intakeWrite c offset data) s = .next s' ∧ (s'.ctx c).halt = why
          ∧ (s'.ctx c).intake = x.intake ∧ (s'.ctx c).parcels = x.parcels ∧ (s'.ctx c).regs.tail = x.regs.tail
          ∧ (s'.ctx c).regs.discarded = min 65535 (x.regs.discarded + 1) ∧ (s'.ctx c).regs.halts = min 65535 (x.regs.halts + 1)
          ∧ s'.hg.msix = s.hg.msix ++ (if x.regs.irqOnError then [c] else []))
      ∧ (x.isOpen = true → x.halt ≠ .none → exec (.intakeWrite c offset data) s = .next { s with
        ctxs := s.ctxs.put c { x with regs := { x.regs with discarded := min 65535 (x.regs.discarded + 1) } } })
      ∧ (x.isOpen = true → x.halt = .none → offset = x.regs.tail.toNat % 4194304 → x.intake.length + data.length < 32 →
        ∃ s', exec (.intakeWrite c offset data) s = .next s' ∧ (s'.ctx c).intake = x.intake ++ data
          ∧ (s'.ctx c).regs.tail = x.regs.tail + BitVec.ofNat 32 data.length ∧ (s'.ctx c).parcels = x.parcels
          ∧ (s'.ctx c).records = x.records)
      ∧ (x.isOpen = true → x.halt = .none → offset = x.regs.tail.toNat % 4194304 → x.intake = [] → 32 ≤ data.length →
        parcelSize data = data.length → parcelLength data ≤ 16383 → x.sealed.state = .none → s.log.failed = false →
        ∀ h v, h = headerOf data → v = judge s c x.regs.lastAccepted h →
        ∃ s', exec (.intakeWrite c offset data) s = .next s' ∧ (s'.ctx c).halt = .none
          ∧ (s'.ctx c).regs.tail = x.regs.tail + BitVec.ofNat 32 data.length
          ∧ (v = .accepted → takesPlace h = true → queueDepth x < 256 → ∃ p, (s'.ctx c).parcels = x.parcels ++ [p]
            ∧ p.hostSeq = h.seq ∧ p.kind = h.kind ∧ p.payload = h.payload ∧ p.progress = .waiting
            ∧ (s'.ctx c).regs.lastAccepted = h.seq ∧ (s'.ctx c).intake = [] ∧ (s'.ctx c).records = x.records)
          ∧ ∀ k ∈ ([(.levelMismatch, 0xE), (.malformed, 2), (.duplicate, 1), (.gap, 2)] : List (Judged × Nat)), v = k.1 →
            (s'.ctx c).parcels = x.parcels ∧ (s'.ctx c).regs.lastAccepted = x.regs.lastAccepted
            ∧ ∃ r, (s'.ctx c).records = x.records ++ [r] ∧ r.status = k.2 ∧ r.hostSeq = h.seq ∧ r.kind = h.kind))
    ∧ (s.active = true → x.isOpen = true → exec (.queueSpaceAcceptance c) s = .next (processIntake c s)
      ∧ (frontComplete x.intake = false → processIntake c s = s)
      ∧ (frontComplete x.intake = true → parcelSize x.intake = x.intake.length → x.sealed.state = .none →
        s.log.failed = false → ∀ h, h = headerOf x.intake → judge s c x.regs.lastAccepted h = .accepted → takesPlace h = true →
        (256 ≤ queueDepth x → processIntake c s = s)
        ∧ (queueDepth x < 256 → ∃ p, ((processIntake c s).ctx c).parcels = x.parcels ++ [p] ∧ p.hostSeq = h.seq
          ∧ p.kind = h.kind ∧ p.payload = h.payload ∧ p.progress = .waiting
          ∧ ((processIntake c s).ctx c).regs.lastAccepted = h.seq ∧ ((processIntake c s).ctx c).intake = [])))
    ∧ (hostUp s = true → s.hg.held = [] → x.phase ≠ .resetting → exec (.intakeRewind c) s = .next { s with ctxs := s.ctxs.put c { x with
        intake := [], arrivals := [], halt := .none, regs := { x.regs with tail := x.regs.head } } })
    ∧ (hostUp s = true → s.hg.held = [] → exec (.faultRecordClear c) s
      = .next { s with ctxs := s.ctxs.put c { x with fault := { x.fault with valid := false } } })
    ∧ (hostUp s = true → s.hg.held = [] → ∀ (level : BitVec 2) (irq : Bool), x.phase = .closed →
      (level = 1 ∨ level = 2 → 6 ≤ x.regs.log2Entries.toNat → x.regs.log2Entries.toNat ≤ 20 →
        x.regs.ringBase.toNat % (32 * 2 ^ x.regs.log2Entries.toNat) = 0 →
        x.regs.recordVersion = 1 ∨ x.regs.recordVersion = 2 → rootOk x.regs.ptRoot.toNat = true →
        ∃ s', exec (.contextOpen c level irq) s = .next s' ∧ (s'.ctx c).phase = .opened ∧ (s'.ctx c).regs.level = level
          ∧ (s'.ctx c).regs.irqOnError = irq ∧ (s'.ctx c).regs.openRefused = false ∧ (s'.ctx c).parcels = []
          ∧ (s'.ctx c).regs.lastAccepted = x.regs.lastAccepted ∧ (s'.ctx c).regs.lastWritten = 0
          ∧ (∀ j, j ≠ c → s'.ctx j = s.ctx j) ∧ { s' with ctxs := s.ctxs } = s)
      ∧ (level = 0 ∨ level = 3 ∨ x.regs.log2Entries.toNat < 6 ∨ 20 < x.regs.log2Entries.toNat →
        ∃ s', exec (.contextOpen c level irq) s = .next s' ∧ (s'.ctx c).phase = .closed
          ∧ (s'.ctx c).regs.openRefused = true ∧ { s' with ctxs := s.ctxs } = s))
    ∧ (hostUp s = true → s.hg.held = [] → x.isOpen = true → ∃ s', exec (.contextReset c) s = .next s' ∧ (s'.ctx c).phase = .resetting
      ∧ (s'.ctx c).regs.enable = false ∧ (s'.ctx c).parcels = [] ∧ (s'.ctx c).intake = [] ∧ (s'.ctx c).records = []
      ∧ ∀ w t, s'.task w = some t → t.ctx ≠ c)
    ∧ (x.isOpen = false → s.hg.held = [] → exec (.contextReset c) s = .next s)
    ∧ (x.phase = .resetting → exec (.contextResetComplete c) s
        = .next { s with ctxs := s.ctxs.put c { x with phase := .closed } })
    ∧ (hostUp s = true → s.hg.held = [] → c < 1024 → exec (.ctxSnapshot c) s = .next { s with hg := { s.hg with
        snapCtx := BitVec.ofNat 10 c
        snapAccepted := BitVec.ofNat 64 (x.regs.lastAccepted.toNat + x.regs.head.toNat * 2 ^ 32)
        snapExecuted := BitVec.ofNat 64 (x.regs.executed.toNat + x.regs.tail.toNat * 2 ^ 32)
        snapCompleted := BitVec.ofNat 64 (x.regs.lastWritten.toNat + x.regs.answered.toNat * 2 ^ 32) } })
    ∧ (hostUp s = true → ∀ r rs dev a, x.isOpen = true → x.records = r :: rs → dev = x.regs.lastWritten + 1 →
      (ringSpace x.regs = false → exec (.completionRecordWrite c) s = .next s)
      ∧ (ringSpace x.regs = true → x.regs.ringAts = false → x.sealed.state = .none → s.memoriesOk = true →
        a = x.regs.ringBase.toNat + 32 * (dev.toNat % 2 ^ x.regs.log2Entries.toNat) →
        ∃ s' d, exec (.completionRecordWrite c) s = .next s'
          ∧ WritesTier s s' .host a (recordBytes c x.regs.recordVersion.toNat r dev d)
          ∧ (s'.ctx c).records = rs ∧ (s'.ctx c).regs.lastWritten = dev ∧ (s'.ctx c).regs.answered = r.hostSeq
          ∧ (s'.ctx c).parcels = (if r.ofParcel then x.parcels.filter fun p => decide (p.hostSeq ≠ r.hostSeq) else x.parcels)
          ∧ s'.hg.msix = s.hg.msix ++ (if r.irq || (x.regs.irqOnError && failing r.status) then [c] else [])))
    ∧ (∀ h p, s.parcel c h = some p → p.progress = .started → p.claimed = none →
      (∀ a ∈ x.aborts, a.hostSeq ≠ h) →
      (workDone s c p = false ∨ x.sealed.dirty = true → exec (.parcelFinish c h) s = .next s)
      ∧ (workDone s c p = true → x.sealed.dirty = false → p.failure = none →
        ∃ s', exec (.parcelFinish c h) s = .next s' ∧ s'.tasks = s.tasks ∧ SameBytes s s'
          ∧ (p.silent = false → p.quiet = false ∨ p.status ≠ 0 → (s'.ctx c).records = x.records ++ [p.record]
            ∧ s'.parcel c h = some { p with progress := .recorded })
          ∧ (p.silent = true ∨ (p.quiet = true ∧ p.status = 0) → (s'.ctx c).records = x.records
            ∧ s'.parcel c h = none)))
    ∧ (HostReady s → ∀ (off n : Nat) (data : List Byte) (k va : Nat), k = s.hg.bar4Ctx.toNat → va = s.hg.bar4Base.toNat + off →
      (2 ^ s.hg.cfg.bar4Log2 < off + n → ∀ bad, exec (.bar4Read off n bad) s = .next s)
      ∧ (2 ^ s.hg.cfg.bar4Log2 < off + data.length → exec (.bar4Write off data) s = .next s)
      ∧ (off + n ≤ 2 ^ s.hg.cfg.bar4Log2 → k = 0 ∨ sections s k useRead va n = [(none, va, n)] →
        (∀ ps, bar4Pieces s 0 off n = .ok ps → checkPieces s va ps = .ok () →
          (∃ s', exec (.bar4Read off n false) s = .next s' ∧ { s' with mt := s.mt, freeCount := s.freeCount } = { s with
            hg := { s.hg with readData := s.hg.readData ++ [(piecesBytes s.mem ps, false)] } })
          ∧ (ps ≠ [] → ∃ s', exec (.bar4Read off n true) s = .next s'
            ∧ s'.hg.readData = s.hg.readData ++ [(piecesBytes s.mem ps, true)]))
        ∧ (∀ access cause a, bar4Pieces s 0 off n = .error (.violation access cause a) → cause ≠ 3 → ∀ bad,
          ∃ s', exec (.bar4Read off n bad) s = .next s' ∧ { s' with mt := s.mt, freeCount := s.freeCount } = { s with
            hg := { s.hg with
              readData := s.hg.readData ++ [(List.replicate n 0xFF, false)], drops := min (2 ^ 48 - 1) (s.hg.drops + 1) } }))
      ∧ (off + data.length ≤ 2 ^ s.hg.cfg.bar4Log2 →
        (∀ access cause a, bar4Pieces s 1 off data.length = .error (.violation access cause a) → cause ≠ 3 →
          ∃ s', exec (.bar4Write off data) s = .next s' ∧ { s' with mt := s.mt, freeCount := s.freeCount }
            = { s with hg := { s.hg with drops := min (2 ^ 48 - 1) (s.hg.drops + 1) } })
        ∧ ∀ a, bar4Pieces s 1 off data.length = .ok [(.host, a, data.length)] → s.memoriesOk = true →
          (∀ h ∈ s.dg.held, h.tier ≠ .host) →
          ∃ s' m, exec (.bar4Write off data) s = .next s' ∧ WritesHost s { s with mt := m } s' k a data
            ∧ { m with walks := s.mt.walks } = s.mt))

/-- R69 to R72, R85 to R88, R89 to R92, R111, R285, R347, R433 to R436, R445, R446, R456: how parcels start. The next parcel of a
context under the order of R69 starts with its checks: a failed check ends it and leaves the rest as it was; a RUN
starts its tasks with the values of Table 4.3; a TALLY_DUMP writes one record after another, and other commands act between them;
an ABORT ends the work of the parcels that it has claimed. Readings of the model: log entries 7, 18, 31, 33, 34 and 37. -/
def Obligations.ParcelsStart : Prop :=
  (∀ (s s0 : State) (c w : Nat) (p : Parcel), s.active = true → nextParcel s c = some p → w = p.unit →
    s0 = s.modParcel c p.hostSeq (fun q => { q with progress := .started }) →
    (p.kind = kRun → coresFree s w = true →
      (∀ b, readRunHeader s0 c w = .error b → StopsAtStart (exec (.run c) s) s s0 c p b)
      ∧ ∀ h, readRunHeader s0 c w = .ok h → runTasks w ≤ 4 → (∀ k ∈ runCores w, coreGone s k = false) →
        ∃ s', exec (.run c) s = .next s'
          ∧ (∀ o k, o < runCount w → k < runTasks w → ∃ t, s'.task ⟨runFirst w + o, k⟩ = some t ∧ t.ctx = c
            ∧ t.hostSeq = p.hostSeq ∧ t.pc = BitVec.ofNat 64 (runEntry w) ∧ t.entered = false ∧ t.status = .ready
            ∧ t.sreg 0 = BitVec.ofNat 64 (runArgs w)
            ∧ t.sreg 1 = BitVec.ofNat 64 (o * runTasks w + k + runCount w * runTasks w * 2 ^ 12 + c * 2 ^ 32)
            ∧ (∀ r, 2 ≤ r.val → t.sreg r = 0) ∧ t.vregs = [] ∧ t.tiles = [] ∧ t.descs = [])
          ∧ (∃ q, s'.parcel c p.hostSeq = some q ∧ q.header = some h ∧ q.running = runCount w * runTasks w
            ∧ q.unplaced = [] ∧ q.progress = .started) ∧ SameBytes s s')
    ∧ (p.kind = kCopy →
      (∀ b, startCopy c p s0 = .error b → StopsAtStart (exec (.copy c) s) s s0 c p b)
      ∧ ∀ t a1 a2 n, range s0 c useRead (bitsN w 63 0) (bitsN w 167 128) = .ok [(t, a1, n)] →
        checkPieces s0 (bitsN w 63 0) [(t, a1, n)] = .ok () → range s0 c useWrite (bitsN w 127 64) (bitsN w 167 128) = .ok [(.host, a2, n)] → s.memoriesOk = true →
        ∃ s', exec (.copy c) s = .next s' ∧ WritesHost s s0 s' c a2 (Memory.bytes (s.mem.tier t) a1 n))
    ∧ (p.kind = kFence → exec (.fence c) s = .next (concludeParcel c p s0))
    ∧ (p.kind = kTallyDump → ∀ r n, n = p.entriesDone →
      r = devWrite s0 (parcelWriter c p.hostSeq) useWrite (bitsN w 63 0 + 64 * n) (tallyRecord s0 n) →
      (∀ s1, r = .ok s1 → exec (.tallyDump c) s = .next (s1.modParcel c p.hostSeq fun q => { q with entriesDone := n + 1 }))
      ∧ ∀ b, r = .error b → StopsAtStart (exec (.tallyDump c) s) s s0 c p b)
    ∧ (∀ i ∈ [(Instr.hotset c, kHotset), (.migrate c, kMigrate)], p.kind = i.2 →
      (moveCheck s0 c p = .ok () → exec i.1 s = .next (noteRecord c p.moveRecord s0))
      ∧ ∀ b, moveCheck s0 c p = .error b → StopsAtStart (exec i.1 s) s s0 c p b)
    ∧ (p.kind = kSeal →
      (∀ b, sealCheck s0 c p = .error b → StopsAtStart (exec (.sealStep c) s) s s0 c p b)
      ∧ ∀ set s1, sealCheck s0 c p = .ok set → commitSeal c p set s0 = .ok s1 → exec (.sealStep c) s = .next s1
        ∧ (s1.ctx c).sealed.frames = set ∧ (s1.ctx c).sealed.copied = 0 ∧ (s1.ctx c).sealed.used = 0
        ∧ (s1.ctx c).sealed.generation = (s.ctx c).sealed.generation + 1 ∧ s1.dg.steps = min (2 ^ 48 - 1) (s.dg.steps + 1))
    ∧ (∀ i ∈ [(Instr.replayRestoreReexecute c, 0), (.replayRestoreOnly c, 1), (.replayCheckOnly c, 2)],
      p.kind = kReplay → p.replayMode = i.2 → replayParcel s c = none →
      (∀ s1, runReplay c p s0 = .ok s1 → exec i.1 s = .next s1)
      ∧ ∀ b, runReplay c p s0 = .error b → StopsAtStart (exec i.1 s) s s0 c p b))
  ∧ ∀ (s : State) (c : Nat), s.active = true →
    (∀ q, ((nextParcel s c).any fun p => decide (p.kind = kTallyDump)) = false → (s.ctx c).parcels.find? dumping = some q →
      ∀ r n, n = q.entriesDone →
      r = devWrite s (parcelWriter c q.hostSeq) useWrite (bitsN q.unit 63 0 + 64 * n) (tallyRecord s n) →
      (∀ s1, r = .ok s1 → exec (.tallyDump c) s = .next (s1.modParcel c q.hostSeq fun x => { x with entriesDone := n + 1 }))
      ∧ ∀ b, r = .error b → exec (.tallyDump c) s = .next (parcelFault c q b s))
    ∧ (∀ (ordinal core : Nat) (q : Parcel), s.parcel c q.hostSeq = some q → q.kind = kRun → q.failure = none →
      q.claimed = none → q.unplaced.contains ordinal = true → coreFree s core = true → runTasks q.unit ≤ 4 →
      ∃ s', exec (.ordinalPlacement c q.hostSeq ordinal core) s = .next s'
        ∧ (∀ k, k < runTasks q.unit → ∃ t, s'.task ⟨core, k⟩ = some t ∧ t.ctx = c ∧ t.hostSeq = q.hostSeq
          ∧ t.ordinal = ordinal ∧ t.pc = BitVec.ofNat 64 (runEntry q.unit))
        ∧ s'.parcel c q.hostSeq = some { q with unplaced := q.unplaced.filter fun o => decide (o ≠ ordinal) })
    ∧ (∀ i ∈ [(Instr.querySequenceState c, 1), (.queryContextCounters c, 2), (.queryModuleIdentity c, 3)],
      ∀ q, (s.ctx c).parcels.find? (fun q => decide (q.kind = kQuery) && !q.sample.isEmpty && q.failure.isNone
        && q.claimed.isNone && decide (bitsN q.unit 7 0 = i.2)) = some q →
      ∀ r, r = devWrite s (parcelWriter c q.hostSeq) useWrite (bitsN q.unit 127 64) q.sample →
      (∀ s1, r = .ok s1 → exec i.1 s = .next (s1.modParcel c q.hostSeq fun x => { x with sample := [] }))
      ∧ ∀ b, r = .error b → exec i.1 s = .next (parcelFault c q b s))
    ∧ (∀ a, (s.ctx c).aborts.find? (fun a => !a.begun) = some a → ∃ s', exec (.abort c) s = .next s'
      ∧ ∀ w t, s'.task w = some t → t.ctx = c → ∀ e ∈ a.claimed, e.1 ≠ t.hostSeq)
    ∧ ∀ a r, (s.ctx c).aborts = a :: r → a.begun = true → ∃ s', exec (.abortFinish c) s = .next s'
      ∧ (s'.ctx c).aborts = r ∧ s'.tasks = s.tasks
      ∧ (s'.ctx c).phase = (if r = [] ∧ (s.ctx c).phase = .aborting then .opened else (s.ctx c).phase)

/-- R286 to R288, R437, R442 to R444, R448: move entries, first-touch copies, automatic replay and the module's step.
A skipped entry moves nothing; a drained move leaves the list; once a frame's copy is done none of its writes is held;
a dirty step is quiesced and replayed, its ledger fed one parcel at a time, silently where its record has been written, and its
end is recorded. Readings of the model: log entries 7, 34 and 38. -/
def Obligations.MovesCopiesAndReplays : Prop :=
  ∀ (s : State) (c : Nat), s.active = true →
    (∀ i ∈ [(Instr.install c, 0), (.evict c, 1), (.move c, 2)],
      (entryParcel s c i.2 = none → exec i.1 s = .next s)
      ∧ ∀ p m e, entryParcel s c i.2 = some p → m = p.entry p.entriesDone →
        (rowBusy s c p.moveRecord m.row = true → exec i.1 s = .next s)
        ∧ (rowBusy s c p.moveRecord m.row = false → embRead s c 0 p.moveRecord = .ok e →
          (∀ code, planMove s c e m = .ok (.error code) → p.moveResult = 0 →
            exec i.1 s = .next (s.modParcel c p.hostSeq fun q => { q with entriesDone := q.entriesDone + 1 }))
          ∧ ∀ src dst h s1, planMove s c e m = .ok (.ok (src, dst, h)) → markMove c p e m src dst h s = .ok s1 →
            exec i.1 s = .next (s1.modParcel c p.hostSeq fun q => { q with entriesDone := q.entriesDone + 1 })
            ∧ ∃ v, s1.merge.moves = s.merge.moves ++ [v] ∧ v.row = m.row ∧ v.source = src ∧ v.target = dst
              ∧ v.init = m.init ∧ v.phase = .copying))
    ∧ (∀ id m, findMove s id = some m →
      (∀ s1, m.phase = .copying → commitMove m s = .ok s1 → exec (.moveCommit id) s = .next s1
        ∧ ∀ x ∈ s1.merge.moves, x.id = id → x.phase = .draining ∧ x.writes = [] ∧ x.updates = [])
      ∧ (m.phase ≠ .copying → exec (.moveCommit id) s = .next s)
      ∧ (m.phase = .copying → exec (.moveDrainComplete id) s = .next s)
      ∧ (m.phase ≠ .copying → boundTo s m.ctx (m.source.getD 0) = true → exec (.moveDrainComplete id) s = .next s)
      ∧ (m.phase ≠ .copying → boundTo s m.ctx (m.source.getD 0) = false → (m.aborted = true ∨ m.result = 0) →
        exec (.moveDrainComplete id) s = .next { s with merge := { s.merge with
          moves := s.merge.moves.filter (fun x => decide (x.id ≠ id))
          migrated := min (2 ^ 48 - 1) (s.merge.migrated + (if m.phase = .draining then 1 else 0)) } }))
    ∧ (∀ frame bad t n, t = (if bitN frame 47 then Tier.far else .near) → n = frame % 2 ^ 47 →
      ((s.die (servingEngine s t n)).resetting = true → exec (.firstTouchCopyDone frame bad) s = .next s)
      ∧ ((s.die (servingEngine s t n)).resetting = false → ∃ s', exec (.firstTouchCopyDone frame bad) s = .next s'
        ∧ ∀ h ∈ s'.dg.held, ¬ (h.tier = t ∧ h.frame = n)))
    ∧ ((s.ctx c).sealed.dirty = false → exec (.automaticReplayRestore c) s = .next s)
    ∧ ((s.ctx c).sealed.dirty = true → ∃ s', exec (.automaticReplayRestore c) s = .next s'
      ∧ (∀ w t, s'.task w = some t → t.ctx ≠ c) ∧ (s'.ctx c).sealed.dirty = false
      ∧ ((replayParcel s c).all (fun p => decide (p.progress ≠ .started)) = true →
        (canReplay s c = false → s'.dg.fatal = min (2 ^ 48 - 1) (s.dg.fatal + 1))
        ∧ (canReplay s c = true → s'.dg.replays = min (2 ^ 48 - 1) (s.dg.replays + 1)
          ∨ s'.dg.fatal = min (2 ^ 48 - 1) (s.dg.fatal + 1))))
    ∧ ((s.ctx c).sealed.inReplay = true → withdrawing s c = true → ∀ i ∈ [Instr.automaticReplayReexecute c,
        .automaticReplayResume c], exec i s = .next s)
    ∧ ((s.ctx c).sealed.inReplay = true → feeding s c = false → withdrawing s c = false →
      (∀ l r, (s.ctx c).sealed.toReplay = l :: r → s.parcel c l.hostSeq = none →
        ∃ s' p, exec (.automaticReplayReexecute c) s = .next s' ∧ (s'.ctx c).sealed.toReplay = r
          ∧ p ∈ (s'.ctx c).parcels ∧ p.hostSeq = l.hostSeq ∧ p.kind = l.kind ∧ p.payload = l.payload
          ∧ p.replayed = true ∧ p.silent = l.recorded ∧ p.quiet = !l.recorded ∧ p.progress = .waiting ∧ { s' with ctxs := s.ctxs } = s)
      ∧ (∀ l r q, (s.ctx c).sealed.toReplay = l :: r → s.parcel c l.hostSeq = some q → q.claimed = none →
        q.silent = false → ∃ s', exec (.automaticReplayReexecute c) s = .next s' ∧ (s'.ctx c).sealed.toReplay = r
          ∧ s'.parcel c l.hostSeq = some { refeed q with silent := false } ∧ { s' with ctxs := s.ctxs } = s)
      ∧ ((s.ctx c).sealed.toReplay = [] → exec (.automaticReplayReexecute c) s = .next s
        ∧ ∃ s', exec (.automaticReplayResume c) s = .next s' ∧ (s'.ctx c).sealed.inReplay = false
          ∧ ((s.ctx c).sealed.state = .replaying → (s'.ctx c).sealed.state = .sealed)
          ∧ s'.log.classes.get 0 12 = min (2 ^ 48 - 1) (s.log.classes.get 0 12 + 1) ∧ SameBytes s s'))
    ∧ (dueUnits s = [] → ∀ n, n = min (2 ^ 48 - 1) (s.dg.steps + 1) → exec .moduleStep s = .next { s with
        dg := { s.dg with steps := n }
        fence := { s.fence with charges := s.fence.charges.filter fun e => decide (n - e.2.2 < 1024) } })

/-! ### Memory tiers, registers, fences and the spill log -/

/-- R302, R303, R311 to R317, Tables 11.7, 11.9 to 11.11, 3.3: invalidation, ingest, trim, the background work of the
flash layer, and writes of registers that have no behaviour of their own. A trimmed range reads as zeros; an ingested
one as its source; background work counts where Table 11.7 says and leaves every sector as it was; BAR4 is resized from 64 MiB to
1 TiB. Readings of the model: log entries 7, 13, 18, 35, 48 and 52. -/
def Obligations.MemoryTiersAndRegistersAct : Prop :=
  ∀ (s : State), s.active = true →
    (s.hg.linkUp = true → ∀ c n, (s.mt.invalBusy = true → exec (.translationInvalidate c n) s = .next s)
      ∧ (s.mt.invalBusy = false → exec (.translationInvalidate c n) s = .next { s with mt := { s.mt with
        invalCtx := BitVec.ofNat 10 c, invalSize := BitVec.ofNat 6 n, invalBusy := true } }))
    ∧ (invalOpen s = true → exec .invalidationComplete s = .next s)
    ∧ (invalOpen s = false → exec .invalidationComplete s = .next { s with mt := { s.mt with invalBusy := false } })
    ∧ (s.hg.linkUp = true → ∀ a n s0, s.hg.atsWaiting = [] → s0 = { s with hg := { s.hg with atsWaiting := [(a, n)] } } →
      (atsOpen s0 (a, n) = true → exec (.atsInvalidationRequest a n) s = .next s0)
      ∧ (atsOpen s0 (a, n) = false → exec (.atsInvalidationRequest a n) s
        = .next { s with hg := { s.hg with atsDone := s.hg.atsDone + 1 } }))
    ∧ (s.hg.linkUp = true → ∀ slot, slot < 16 → ∀ x, x = s.ingest slot → ∀ i ∈ [(Instr.ingest slot, false), (.trim slot, true)],
      (x.state = 1 ∨ x.state = 3 → exec i.1 s = .next s)
      ∧ (x.state = 0 ∨ x.state = 2 → ∃ s', exec i.1 s = .next s' ∧ (s'.ingest slot).cmd = { x.regs with op := i.2 }
        ∧ (s'.ingest slot).sectors = 0 ∧ (s'.ingest slot).order = s.mt.ingestGo ∧ { s' with mt := s.mt } = s
        ∧ (x.regs.fla % 4096 ≠ 0 ∨ x.regs.len = 0 ∨ x.regs.len % 4096 ≠ 0 →
          (s'.ingest slot).state = 3 ∧ (s'.ingest slot).code = 6)
        ∧ (x.regs.fla % 4096 = 0 → x.regs.len ≠ 0 → x.regs.len % 4096 = 0 →
          (s.mt.capSectors < x.regs.fla / 4096 + x.regs.len / 4096 →
            (s'.ingest slot).state = 3 ∧ (s'.ingest slot).code = 2)
          ∧ (x.regs.fla / 4096 + x.regs.len / 4096 ≤ s.mt.capSectors → (i.2 = true ∨ reserveReadOnly s = false) →
            (s'.ingest slot).state = 1))))
    ∧ (∀ slot, slot < 16 → ∀ x, x = s.ingest slot → x.state = 1 → ingestWaits s slot = false → s.mt.fenceFlash = 0 →
      x.cmd.fla % 4096 = 0 → x.cmd.len % 4096 = 0 → s.memoriesOk = true →
      (x.cmd.op = true → ∀ detected, ∃ s', exec (.ingestComplete slot detected) s = .next s' ∧ (s'.ingest slot).state = 2
        ∧ (s'.ingest slot).sectors = x.cmd.len / 4096
        ∧ WritesTier s s' .flash x.cmd.fla (List.replicate x.cmd.len 0) ∧ OnlyFlash s s')
      ∧ ∀ t b, x.cmd.op = false → x.cmd.context ≠ 0 →
        range s x.cmd.context.toNat (Use.of 0 nearFarHost) x.cmd.src.toNat x.cmd.len = .ok [(t, b, x.cmd.len)] →
        checkPieces s x.cmd.src.toNat [(t, b, x.cmd.len)] = .ok () →
        (∃ s', exec (.ingestComplete slot false) s = .next s' ∧ (s'.ingest slot).state = 2
          ∧ WritesTier s s' .flash x.cmd.fla (Memory.bytes (s.mem.tier t) b x.cmd.len) ∧ OnlyFlash s s')
        ∧ ∃ s', exec (.ingestComplete slot true) s = .next s' ∧ (s'.ingest slot).state = 3 ∧ (s'.ingest slot).code = 4)
    ∧ (∀ slot, slot < 16 → (s.ingest slot).state ≠ 1 ∨ ingestWaits s slot = true → ∀ bad,
      exec (.ingestComplete slot bad) s = .next s)
    ∧ (∀ n, ∃ s', exec (.wearLevelling n) s = .next s' ∧ s'.mt.wear = min 1023 n
      ∧ { s' with mt := s.mt, freeCount := s.freeCount } = s)
    ∧ (∀ n, ∃ s', exec (.powerOnScan n) s = .next s' ∧ s'.mt.refresh = min (2 ^ 48 - 1) (s.mt.refresh + n)
      ∧ { s' with mt := s.mt, freeCount := s.freeCount } = s)
    ∧ (∀ ch b, blockLive s ch b = true →
      (∃ s', exec (.readDisturbRelocation ch b) s = .next s' ∧ s'.mt.reloc = min (2 ^ 48 - 1) (s.mt.reloc + 1)
        ∧ { s' with mt := s.mt, freeCount := s.freeCount } = s)
      ∧ (∃ s', exec (.retentionRefresh ch b) s = .next s' ∧ s'.mt.refresh = min (2 ^ 48 - 1) (s.mt.refresh + 1)
        ∧ { s' with mt := s.mt, freeCount := s.freeCount } = s)
      ∧ ∃ s', exec (.badBlockRetirement ch b) s = .next s' ∧ s'.mt.retired = s.mt.retired ++ [(ch, b)]
        ∧ s'.mt.grown = s.mt.grown + 1 ∧ SameBytes s s'
        ∧ (600 ≤ (s'.mt.retired.filter fun k => decide (k.1 = ch)).length → s'.mt.fenceFlash.getLsbD ch = true))
    ∧ (s.mt.rebuilding = true → exec .mapRebuildComplete s
        = .next { s with mt := { s.mt with mapFence := 0, rebuilding := false } })
    ∧ (∀ n off, readBar2 n = List.replicate n 0 ∧ readBar0 s 0x3FFFF8 8 = some 0
      ∧ (n = 8 ∧ off % 8 ≠ 0 ∨ n = 4 ∧ off % 4 ≠ 0 ∨ n ≠ 8 ∧ n ≠ 4 → readBar0 s off n = none))
    ∧ (s.hg.linkUp = true → s.hg.held = [] → ∀ (v : Word) (off n : Nat),
      (n = 8 ∧ off % 8 ≠ 0 ∨ n = 4 ∧ off % 4 ≠ 0 ∨ n ≠ 8 ∧ n ≠ 4 → exec (.registerWrite ⟨.bar0, off, n⟩ v) s
        = .next { s with hg := { s.hg with cfg := { s.hg.cfg with unsupported := true } } })
      ∧ (s.hg.detect = false → (26 ≤ v.toNat → v.toNat ≤ 40 → exec (.registerWrite ⟨.config .bar4Size, off, n⟩ v) s
          = .next { s with hg := { s.hg with cfg := { s.hg.cfg with bar4Log2 := v.toNat } } })
        ∧ (v.toNat < 26 ∨ 40 < v.toNat → exec (.registerWrite ⟨.config .bar4Size, off, n⟩ v) s = .next s))
      ∧ exec (.registerWrite ⟨.bar0, 0x48, 8⟩ v) s = .next { s with keeper := { s.keeper with pwrRequest := v.truncate 2 } }
      ∧ exec (.registerWrite ⟨.bar0, 0x100020, 8⟩ v) s = .next { s with hg := { s.hg with bar4Ctx := v.truncate 10 } }
      ∧ exec (.registerWrite ⟨.bar0, 0x100028, 8⟩ v) s = .next { s with hg := { s.hg with bar4Base := v } }
      ∧ exec (.registerWrite ⟨.bar0, 0x100028, 4⟩ v) s = .next { s with hg := { s.hg with
          bar4Base := BitVec.ofNat 64 (s.hg.bar4Base.toNat / 2 ^ 32 * 2 ^ 32 + v.toNat % 2 ^ 32) } }
      ∧ exec (.registerWrite ⟨.bar0, 0x10002C, 4⟩ v) s = .next { s with hg := { s.hg with
          bar4Base := BitVec.ofNat 64 (s.hg.bar4Base.toNat % 2 ^ 32 + v.toNat % 2 ^ 32 * 2 ^ 32) } }
      ∧ (∀ c, 0 < c → c < 1024 → (s.ctx c).phase = .closed → exec (.registerWrite ⟨.bar0, 0x200040 + 256 * c, 8⟩ v) s
        = .next { s with ctxs := s.ctxs.put c { s.ctx c with regs := { (s.ctx c).regs with ptRoot := v } } })
      ∧ (∀ c, 0 < c → c < 1024 → (s.ctx c).phase ≠ .closed → exec (.registerWrite ⟨.bar0, 0x200040 + 256 * c, 8⟩ v) s = .next s)
      ∧ exec (.registerWrite ⟨.bar0, 0x400008, 8⟩ v) s
        = .next { s with weir := { s.weir with boost := v.getLsbD 1, pace := v.getLsbD 2 } }
      ∧ (∀ k, k < 4096 → (s.slot k).bound = false → exec (.registerWrite ⟨.bar0, 0x540010 + 32 * k, 8⟩ v) s
        = .next { s with slots := s.slots.put k { s.slot k with expected := v.truncate 12 } })
      ∧ exec (.registerWrite ⟨.bar0, 0x600020, 8⟩ v) s = .next { s with log := { s.log with tail := v.truncate 32 } }
      ∧ (s.links.routing = true → exec (.registerWrite ⟨.bar0, 0x720008, 8⟩ v) s = .next s)
      ∧ (s.mt.invalBusy = false → exec (.registerWrite ⟨.bar0, 0x800088, 8⟩ v) s
        = .next { s with mt := { s.mt with invalBase := v } }))

/-- R429 to R432, R449 to R453, R21: fences, in-field tests and the draining of the spill log. A request fences its
unit, lists it and waits for a core with tasks; one of a fenced unit, or while another is under way, is refused; a
failed test fences its unit; a drained record takes the next slot of the ring, and vector 0 and an alert follow where
asked for. Readings of the model: log entries 7 and 30. -/
def Obligations.FencesTestsAndTheLogAct : Prop :=
  ∀ (s : State), s.active = true →
    (s.hg.linkUp = true → ∀ kind index,
      (unitFenced s kind index = true ∨ unitExists kind index = false ∨ s.fence.waiting ≠ [] ∨ s.fence.bistBusy = true →
        exec (.fenceRequest kind index) s = .next { s with fence := { s.fence with
          fenceKind := BitVec.ofNat 8 kind, fenceIndex := BitVec.ofNat 32 index, fenceRefused := true } })
      ∧ (unitFenced s kind index = false → unitExists kind index = true → s.fence.waiting = [] → s.fence.bistBusy = false →
        (kind = 1 → s.coreTasks index ≠ [] → exec (.fenceRequest kind index) s = .next { s with fence := { s.fence with
          fenceKind := BitVec.ofNat 8 kind, fenceIndex := BitVec.ofNat 32 index, fenceRefused := false
          waiting := [(kind, index, 4)] } })
        ∧ ((kind = 1 → s.coreTasks index = []) → ∃ s', exec (.fenceRequest kind index) s = .next s'
          ∧ unitFenced s' kind index = true ∧ s'.fence.fenceRefused = false
          ∧ min (2 ^ 48 - 1) (s.log.classes.get 0 1 + 1) ≤ s'.log.classes.get 0 1
          ∧ (kind ≠ 9 → kind ≠ 11 → listed s' kind index = true))))
    ∧ (s.hg.linkUp = true → ∀ kind index,
      s.fence.bistBusy = true ∨ bistKind kind = false ∨ unitExists kind index = false →
      exec (.bistRequest kind index) s = .next { s with fence := { s.fence with
        bistKind := BitVec.ofNat 8 kind, bistIndex := BitVec.ofNat 32 index, bistResult := 3 } })
    ∧ (s.hg.linkUp = true → ∀ index, index < 32 → s.fence.bistBusy = false →
      exec (.bistRequest 2 index) s = .next { s with fence := { s.fence with
        bistKind := 2, bistIndex := BitVec.ofNat 32 index, testKind := 2, testIndex := index, bistBusy := true
        bistResult := 0 } })
    ∧ (∀ passed lanes, (s.fence.bistBusy = false → exec (.bistComplete ⟨passed, lanes⟩) s = .next s)
      ∧ (s.fence.testKind = 1 → s.coreTasks s.fence.testIndex ≠ [] → exec (.bistComplete ⟨passed, lanes⟩) s = .next s))
    ∧ (∀ lanes, s.fence.bistBusy = true → s.fence.testKind = 2 → unitFenced s 2 s.fence.testIndex = false →
      s.fence.testIndex < 32 →
      exec (.bistComplete ⟨true, lanes⟩) s = .next { s with fence := { s.fence with bistBusy := false, bistResult := 1 } }
      ∧ ∃ s', exec (.bistComplete ⟨false, lanes⟩) s = .next s' ∧ s'.fence.bistBusy = false ∧ s'.fence.bistResult = 2
        ∧ unitFenced s' 2 s.fence.testIndex = true ∧ listed s' 2 s.fence.testIndex = true)
    ∧ (∀ lanes k, s.fence.bistBusy = true → s.fence.testKind = 8 → k = s.fence.testIndex → k < 112 →
      s.fence.ucie.get 0 k = 0 → (∃ l ∈ lanes, l < 32) → (∀ l ∈ lanes, l < 32) →
      ∃ s', exec (.bistComplete ⟨false, lanes⟩) s = .next s' ∧ s'.fence.bistBusy = false ∧ s'.fence.bistResult = 2
        ∧ s'.fence.ucie.get 0 k = 2 ∧ listed s' 8 k = true)
    ∧ (∀ edge unit lanes n, edge < 14 → unit < 8 → s.fence.ucie.get 0 (8 * edge + unit) = 0 →
      n = (if (lanes.any fun l => decide (l < 32)) then
          (if (lanes.any fun l => decide (32 ≤ l ∧ l < 64)) then 3 else 2)
        else if (lanes.any fun l => decide (32 ≤ l ∧ l < 64)) then 1 else 0) →
      ∃ s', exec (.ucieLaneFailure edge unit lanes) s = .next s' ∧ s'.fence.ucie.get 0 (8 * edge + unit) = n
        ∧ (∀ k, k ≠ 8 * edge + unit → s'.fence.ucie.get 0 k = s.fence.ucie.get 0 k)
        ∧ (n ≠ 0 → listed s' 8 (8 * edge + unit) = true))
    ∧ (∀ d r, s.log.staging = [(d, [r])] → dueUnits s = [] → s.memoriesOk = true → ∃ s', exec .spillLogDrain s = .next s'
      ∧ s'.log.head = s.log.head + 1 ∧ s'.log.staging = [] ∧ WritesTier s s' .far (slotAddr s s.log.head) r.bytes
      ∧ s'.log.ringLost = min (2 ^ 48 - 1) (s.log.ringLost + if 65536 ≤ (s.log.head - s.log.tail).toNat then 1 else 0)
      ∧ s'.hg.msix = s.hg.msix ++ (if s.log.irq && decide (2 ≤ r.severity) then [0] else [])
      ∧ s'.keeper.alerts = s.keeper.alerts + (if r.severity = 3 then 1 else 0) ∧ s'.keeper.fenceList = s.keeper.fenceList)
    ∧ (s.hg.linkUp = true → exec .clearFirst s = .next { s with log := { s.log with first := none } })

/-! ### The whole machine -/

/-- A step runs the command at the front of the queue on the queue's rest. Where no command waits, stored data may go bad, issue
rounds go by, the reset of a range of tallies goes on, a schedule announces what has waited, an ATS invalidation that has waited
is completed, lanes meet symbol errors and a message of the module to itself is delivered; otherwise the module idles (the queue
and its idling are the model's own: log entries 1, 13, 19, 20, 50 and 53). -/
def Obligations.StepRunsTheFrontCommand : Prop :=
  (∀ (c : Instr) (s : State) (r : List Instr), step { s with pending := c :: r } = exec c { s with pending := r })
  ∧ ∀ s : State, s.pending = [] → step s = .next (deliverOwn (linkNoise (settleAts (announceHeld (nextReset (passRounds
    (strike s)))))))

/-- The state at reset: the module is in Off, its memories are in canonical form and list nothing, no context is open, no task,
instruction or command waits, every port is down, every tally not owned, and the registers that this statement names stand at the
reset values of their tables. Readings of the model: log entries 3, 4, 5 and 52. -/
def Obligations.ResetHoldsItsValues : Prop :=
  State.reset.pending = [] ∧ State.reset.errs = [] ∧ State.reset.ops = [] ∧ State.reset.loose = [] ∧ State.reset.tags = []
  ∧ State.reset.inflight = [] ∧ State.reset.grants = [] ∧ State.reset.saved = [] ∧ State.reset.touched = []
  ∧ State.reset.mem = ⟨[], [], [], []⟩ ∧ State.reset.hg.held = [] ∧ State.reset.hg.msix = [] ∧ State.reset.hg.linkUp = false
  ∧ State.reset.hg.cfg.bar4Log2 = 28 ∧ State.reset.hg.bar4Ctx = 0 ∧ State.reset.hg.bar4Base = 0 ∧ State.reset.hg.drops = 0
  ∧ State.reset.keeper.scopes = 0 ∧ State.reset.keeper.nonceValid = false ∧ State.reset.keeper.jtag = .bypass
  ∧ State.reset.weir.gain = 32768 ∧ State.reset.weir.boost = true ∧ State.reset.weir.pace = true
  ∧ State.reset.weir.paceTicks = 10000 ∧ State.reset.weir.fixedRate = false ∧ State.reset.log.tail = 0
  ∧ State.reset.log.first = none ∧ State.reset.log.last = none ∧ State.reset.tl.setBusy = false
  ∧ State.reset.tl.resetBusy = false ∧ State.reset.mt.mapReady = false ∧ State.reset.mt.invalBusy = false
  ∧ State.reset.fence.charges = [] ∧ State.reset.fence.pllBad = [] ∧ State.reset.power.phase = .off ∧ State.reset.memoriesOk = true
  ∧ (∀ c, (State.reset.ctx c).isOpen = false ∧ (State.reset.ctx c).regs.holdTicks = 200
    ∧ (State.reset.ctx c).regs.leaseTicks = 100000 ∧ (State.reset.ctx c).regs.executed = 0)
  ∧ (∀ p, (State.reset.port p).state = .down ∧ (State.reset.port p).enable = false)
  ∧ (∀ n, State.reset.tally n = Tally.reset ∧ (State.reset.slot n).bound = false)
  ∧ (∀ w, State.reset.task w = none) ∧ (∀ c, (State.reset.core c).fenced = false)
  ∧ State.reset.weir.capHost = 4000 ∧ State.reset.weir.capSideband = 4000 ∧ State.reset.weir.boostMax = 15
  ∧ State.reset.weir.phases = [12, 9, 9, 12, 12, 10, 8, 8] ∧ State.reset.weir.threshold = 32
  ∧ State.reset.sm.snDefault = 20 ∧ State.reset.mt.invalSize = 16 ∧ State.reset.mt.capSectors = 13671875000
  ∧ State.reset.keeper.address = 0x58 ∧ State.reset.keeper.fenceList = [] ∧ State.reset.log.head = 0
  ∧ State.reset.dg.steps = 0 ∧ (∀ e ∈ State.reset.tallies, e.2.count ≠ 0 → e.2.queue = [])
  ∧ State.reset.fuses.lifecycle.toNat ≤ 4

/-- Every step keeps the canonical form of every memory: the four tiers and every core's cistern (what an unlisted byte reads as is
the model's choice, log entry 2). -/
def Obligations.EveryStepKeepsMemoriesCanonical : Prop :=
  ∀ s s' : State, s.memoriesOk = true → step s = .next s' → s'.memoriesOk = true

/-- R320: every step keeps a tally's count at zero while its queue holds a waiter. -/
def Obligations.EveryStepKeepsCountOrQueueEmpty : Prop :=
  ∀ s s' : State, (∀ e ∈ s.tallies, e.2.count ≠ 0 → e.2.queue = []) → step s = .next s' →
    ∀ e ∈ s'.tallies, e.2.count ≠ 0 → e.2.queue = []

/-- R450, R409, R403, R406, R411: no command takes an entry off the fence list, makes an identity key outside Test, changes the
owner's debug digest once it is written, moves the lifecycle back or lowers the minimum security version. Readings of the model:
log entry 15. -/
def Obligations.NoStepTakesBackAFenceOrAFuse : Prop :=
  ∀ s s' : State, s.fuses.lifecycle.toNat ≤ 4 → step s = .next s' →
    (∃ l, s'.keeper.fenceList = s.keeper.fenceList ++ l)
    ∧ (s'.fuses.identityKey = true → s.fuses.identityKey = true ∨ s.fuses.lifecycle = 1)
    ∧ (s.fuses.ownerDigest ≠ none → s'.fuses.ownerDigest = s.fuses.ownerDigest)
    ∧ s.fuses.lifecycle.toNat ≤ s'.fuses.lifecycle.toNat ∧ s'.fuses.lifecycle.toNat ≤ 4
    ∧ s.fuses.svnMin.ule s'.fuses.svnMin = true
end

