-- ==== Sys2Proof/Laws/Memory.lean ====
section
/-! SUPPORT. Byte memories: every operation keeps the canonical form, a write is read back, and the rest is untouched. -/

namespace Sys2Proof.Machine

open Sys2Proof

theorem cellsWf_mono {lo hi : Nat} {m : List Host.Cell} (h : cellsWf hi m = true) (hl : lo ≤ hi) :
    cellsWf lo m = true := by
  cases m with
  | nil => rfl
  | cons e r =>
    obtain ⟨k, b⟩ := e
    simp only [cellsWf, Bool.and_eq_true, decide_eq_true_eq] at h ⊢
    exact ⟨⟨Nat.le_trans hl h.1.1, h.1.2⟩, h.2⟩

/-- Every address of the list is below a bound. -/
def cellsUnder (hi : Nat) (m : List Host.Cell) : Prop := ∀ e ∈ m, e.1 < hi

theorem cellsWf_append {lo mid : Nat} {m r : List Host.Cell} (hm : cellsWf lo m = true) (hu : cellsUnder mid m)
    (hr : cellsWf mid r = true) (hl : lo ≤ mid) : cellsWf lo (m ++ r) = true := by
  induction m generalizing lo with
  | nil => exact cellsWf_mono hr hl
  | cons e t ih =>
    obtain ⟨k, b⟩ := e
    have hk : k < mid := hu (k, b) (by simp)
    simp only [cellsWf, List.cons_append, Bool.and_eq_true] at hm ⊢
    exact ⟨hm.1, ih hm.2 (fun e he => hu e (List.mem_cons_of_mem _ he)) hk⟩

theorem cellsBelow_wf {lo a : Nat} {m : List Host.Cell} (h : cellsWf lo m = true) : cellsWf lo (cellsBelow m a) = true := by
  induction m generalizing lo with
  | nil => rfl
  | cons e t ih =>
    obtain ⟨k, b⟩ := e
    simp only [cellsBelow]
    split
    · simp only [cellsWf, Bool.and_eq_true] at h ⊢
      exact ⟨h.1, ih h.2⟩
    · rfl

theorem cellsBelow_under (a : Nat) (m : List Host.Cell) : cellsUnder a (cellsBelow m a) := by
  induction m with
  | nil => intro e he; simp [cellsBelow] at he
  | cons e t ih =>
    obtain ⟨k, b⟩ := e
    simp only [cellsBelow]
    split
    · rename_i hk
      intro e he
      rcases List.mem_cons.1 he with rfl | he
      · exact hk
      · exact ih e he
    · intro e he; simp at he

theorem cellsFrom_wf {lo a : Nat} {m : List Host.Cell} (h : cellsWf lo m = true) : cellsWf a (cellsFrom m a) = true := by
  induction m generalizing lo with
  | nil => rfl
  | cons e t ih =>
    obtain ⟨k, b⟩ := e
    simp only [cellsWf, Bool.and_eq_true, decide_eq_true_eq] at h
    simp only [cellsFrom]
    split
    · exact ih h.2
    · simp only [cellsWf, Bool.and_eq_true, decide_eq_true_eq]
      exact ⟨⟨by omega, h.1.2⟩, h.2⟩

theorem cellsShift_wf (a n lo : Nat) (cs : List Host.Cell) : cellsWf (a + lo) (cellsShift a n lo cs) = true := by
  induction cs generalizing lo with
  | nil => rfl
  | cons e t ih =>
    obtain ⟨k, b⟩ := e
    simp only [cellsShift]
    split
    · rfl
    · split
      · exact ih lo
      · rename_i h
        simp only [Bool.or_eq_true, decide_eq_true_eq, not_or, Nat.not_lt] at h
        simp only [cellsWf, Bool.and_eq_true, decide_eq_true_eq]
        exact ⟨⟨by omega, h.2⟩, ih (k + 1)⟩

theorem cellsShift_under (a n lo : Nat) (cs : List Host.Cell) : cellsUnder (a + n) (cellsShift a n lo cs) := by
  induction cs generalizing lo with
  | nil => intro e he; simp [cellsShift] at he
  | cons e t ih =>
    obtain ⟨k, b⟩ := e
    simp only [cellsShift]
    split
    · intro e he; simp at he
    · split
      · exact ih lo
      · intro e he
        rcases List.mem_cons.1 he with rfl | he
        · show a + k < a + n; omega
        · exact ih (k + 1) e he

/-- A blit keeps the canonical form, whatever cells it is given. -/
theorem blit_wf {m : List Host.Cell} (a n : Nat) (cs : List Host.Cell) (h : Memory.wf m = true) :
    Memory.wf (Memory.blit m a n cs) = true := by
  have h1 : cellsWf (a + 0) (cellsShift a n 0 cs ++ cellsFrom m (a + n)) = true :=
    cellsWf_append (cellsShift_wf a n 0 cs) (cellsShift_under a n 0 cs) (cellsFrom_wf h) (by omega)
  exact cellsWf_append (cellsBelow_wf h) (cellsBelow_under a m) h1 (Nat.zero_le _)

/-- A write keeps the canonical form. -/
theorem write_wf {m : List Host.Cell} (a : Nat) (bs : List Byte) (h : Memory.wf m = true) :
    Memory.wf (Memory.write m a bs) = true := blit_wf a bs.length (cellsOf 0 bs) h

/-- The empty memory is in canonical form. -/
theorem nil_wf : Memory.wf [] = true := rfl

theorem tier_wf {m : Mem} (h : m.wf = true) (t : Tier) : Memory.wf (m.tier t) = true := by
  simp only [Mem.wf, Bool.and_eq_true] at h
  cases t <;> simp [Mem.tier, h]

/-- Replacing one tier by a canonical memory keeps the form of all four. -/
theorem setTier_wf {m : Mem} {c : List Host.Cell} (h : m.wf = true) (hc : Memory.wf c = true) (t : Tier) :
    (m.setTier t c).wf = true := by
  simp only [Mem.wf, Bool.and_eq_true] at h
  cases t <;> simp [Mem.setTier, Mem.wf, h, hc]

/-! ### Reading back -/

theorem get_append_under {hi k : Nat} {m r : List Host.Cell} (hu : cellsUnder hi m) (hk : hi ≤ k) :
    Tab.get unlisted (m ++ r) k = Tab.get unlisted r k := by
  induction m with
  | nil => rfl
  | cons e t ih =>
    obtain ⟨j, b⟩ := e
    have hj : j < hi := hu (j, b) (by simp)
    simp only [List.cons_append, Tab.get]
    rw [if_neg (by omega)]
    exact ih (fun e he => hu e (List.mem_cons_of_mem _ he))

theorem get_below_lo {lo k : Nat} {m : List Host.Cell} (h : cellsWf lo m = true) (hk : k < lo) :
    Tab.get unlisted m k = unlisted := by
  induction m generalizing lo with
  | nil => rfl
  | cons e t ih =>
    obtain ⟨j, b⟩ := e
    simp only [cellsWf, Bool.and_eq_true, decide_eq_true_eq] at h
    simp only [Tab.get]
    rw [if_neg (by omega)]
    exact ih h.2 (by omega)

theorem get_append_over {lo k : Nat} (m : List Host.Cell) {r : List Host.Cell} (h : cellsWf lo r = true) (hk : k < lo) :
    Tab.get unlisted (m ++ r) k = Tab.get unlisted m k := by
  induction m with
  | nil => exact get_below_lo h hk
  | cons e t ih =>
    obtain ⟨j, b⟩ := e
    simp only [List.cons_append, Tab.get]
    split
    · rfl
    · exact ih

theorem get_cellsBelow {lo a k : Nat} {m : List Host.Cell} (h : cellsWf lo m = true) (hk : k < a) :
    Tab.get unlisted (cellsBelow m a) k = Tab.get unlisted m k := by
  induction m generalizing lo with
  | nil => rfl
  | cons e t ih =>
    obtain ⟨j, b⟩ := e
    simp only [cellsWf, Bool.and_eq_true, decide_eq_true_eq] at h
    simp only [cellsBelow]
    split
    · simp only [Tab.get]
      split
      · rfl
      · exact ih h.2
    · simp only [Tab.get]
      rw [if_neg (by omega)]
      exact (get_below_lo h.2 (by omega)).symm

theorem get_cellsFrom {lo a k : Nat} {m : List Host.Cell} (h : cellsWf lo m = true) (hk : a ≤ k) :
    Tab.get unlisted (cellsFrom m a) k = Tab.get unlisted m k := by
  induction m generalizing lo with
  | nil => rfl
  | cons e t ih =>
    obtain ⟨j, b⟩ := e
    simp only [cellsWf, Bool.and_eq_true, decide_eq_true_eq] at h
    simp only [cellsFrom]
    split
    · simp only [Tab.get]
      rw [if_neg (by omega)]
      exact ih h.2
    · rfl

/-- A blit leaves every byte outside its range as it was. -/
theorem byte_blit_outside {m : List Host.Cell} {a n k : Nat} (cs : List Host.Cell) (h : Memory.wf m = true)
    (hk : k < a ∨ a + n ≤ k) : Memory.byte (Memory.blit m a n cs) k = Memory.byte m k := by
  have hr : cellsWf (a + 0) (cellsShift a n 0 cs ++ cellsFrom m (a + n)) = true :=
    cellsWf_append (cellsShift_wf a n 0 cs) (cellsShift_under a n 0 cs) (cellsFrom_wf h) (by omega)
  unfold Memory.byte Memory.blit
  rcases hk with hk | hk
  · rw [get_append_over _ hr (by omega)]
    exact get_cellsBelow h hk
  · rw [get_append_under (cellsBelow_under a m) (by omega), get_append_under (cellsShift_under a n 0 cs) hk]
    exact get_cellsFrom h hk

theorem get_cellsShift {a n lo j : Nat} {cs : List Host.Cell} (h : cellsWf lo cs = true) (hj : j < n) :
    Tab.get unlisted (cellsShift a n lo cs) (a + j) = Tab.get unlisted cs j := by
  induction cs generalizing lo with
  | nil => rfl
  | cons e t ih =>
    obtain ⟨k, b⟩ := e
    simp only [cellsWf, Bool.and_eq_true, decide_eq_true_eq] at h
    simp only [cellsShift]
    split
    · simp only [Tab.get]
      rw [if_neg (by omega)]
      exact (get_below_lo h.2 (by omega)).symm
    · rw [if_neg (by simp only [Bool.or_eq_true, decide_eq_true_eq, not_or]; exact ⟨by omega, h.1.2⟩)]
      simp only [Tab.get]
      by_cases hkj : k = j
      · rw [if_pos (by omega), if_pos hkj]
      · rw [if_neg (by omega), if_neg hkj]
        exact ih h.2

/-- A blit of canonical cells is read back at every offset of its range. -/
theorem byte_blit_inside {m : List Host.Cell} {a n j : Nat} {cs : List Host.Cell} (h : Memory.wf m = true)
    (hc : Memory.wf cs = true) (hj : j < n) : Memory.byte (Memory.blit m a n cs) (a + j) = Memory.byte cs j := by
  unfold Memory.byte Memory.blit
  rw [get_append_under (cellsBelow_under a m) (by omega), get_append_over _ (cellsFrom_wf h) (by omega)]
  exact get_cellsShift hc hj

theorem cellsOf_wf (a : Nat) (bs : List Byte) : cellsWf a (cellsOf a bs) = true := by
  induction bs generalizing a with
  | nil => rfl
  | cons b t ih =>
    simp only [cellsOf]
    split
    · exact cellsWf_mono (ih (a + 1)) (by omega)
    · simp only [cellsWf, Bool.and_eq_true, decide_eq_true_eq]
      exact ⟨⟨Nat.le_refl a, by assumption⟩, ih (a + 1)⟩

theorem get_cellsOf (a : Nat) (bs : List Byte) (j : Nat) :
    Tab.get unlisted (cellsOf a bs) (a + j) = bs.getD j unlisted := by
  induction bs generalizing a j with
  | nil => rfl
  | cons b t ih =>
    simp only [cellsOf]
    cases j with
    | zero =>
      split
      · rename_i hb
        rw [get_below_lo (cellsOf_wf (a + 1) t) (by omega)]
        simp [hb]
      · simp [Tab.get]
    | succ j =>
      have e : a + (j + 1) = a + 1 + j := by omega
      split
      · rw [e, ih]; simp
      · simp only [Tab.get]
        rw [if_neg (by omega), e, ih]; simp

/-- A write is read back. -/
theorem byte_write_inside {m : List Host.Cell} {a j : Nat} {bs : List Byte} (h : Memory.wf m = true)
    (hj : j < bs.length) : Memory.byte (Memory.write m a bs) (a + j) = bs.getD j unlisted := by
  unfold Memory.write
  rw [byte_blit_inside h (cellsOf_wf 0 bs) hj]
  unfold Memory.byte
  have := get_cellsOf 0 bs j
  rwa [Nat.zero_add] at this

/-- A write leaves every byte outside its range as it was. -/
theorem byte_write_outside {m : List Host.Cell} {a k : Nat} {bs : List Byte} (h : Memory.wf m = true)
    (hk : k < a ∨ a + bs.length ≤ k) : Memory.byte (Memory.write m a bs) k = Memory.byte m k :=
  byte_blit_outside _ h hk

end Sys2Proof.Machine
end

