-- ==== Sys2Proof/Laws/State.lean ====
section
/-! SUPPORT. What each named update of the state leaves as it was and what it changes: one lemma for each field of each update,
and the laws of sparse tables. -/

namespace Sys2Proof.Machine

open Sys2Proof

/-! ### Sparse tables -/

@[simp] theorem Tab.get_put_same {α : Type} (d v : α) (t : Tab α) (k : Nat) : (t.put k v).get d k = v := by
  induction t with
  | nil => simp [Tab.put, Tab.get]
  | cons e r ih =>
    simp only [Tab.put]
    split
    · simp [Tab.get]
    · split
      · simp [Tab.get]
      · have : e.1 ≠ k := by omega
        simp [Tab.get, this, ih]

@[simp] theorem Tab.get_put_other {α : Type} (d v : α) (t : Tab α) {j k : Nat} (h : j ≠ k) :
    (t.put k v).get d j = t.get d j := by
  induction t with
  | nil => simp [Tab.put, Tab.get, Ne.symm h]
  | cons e r ih =>
    simp only [Tab.put]
    split
    · simp [Tab.get, Ne.symm h]
    · split
      · have : e.1 ≠ j := by omega
        simp [Tab.get, Ne.symm h, this]
      · simp [Tab.get, ih]

@[simp] theorem Tab.find_put_same {α : Type} (v : α) (t : Tab α) (k : Nat) : (t.put k v).find k = some v := by
  induction t with
  | nil => simp [Tab.put, Tab.find]
  | cons e r ih =>
    simp only [Tab.put]
    split
    · simp [Tab.find]
    · split
      · simp [Tab.find]
      · have : e.1 ≠ k := by omega
        simp [Tab.find, this, ih]

@[simp] theorem Tab.find_put_other {α : Type} (v : α) (t : Tab α) {j k : Nat} (h : j ≠ k) :
    (t.put k v).find j = t.find j := by
  induction t with
  | nil => simp [Tab.put, Tab.find, Ne.symm h]
  | cons e r ih =>
    simp only [Tab.put]
    split
    · simp [Tab.find, Ne.symm h]
    · split
      · have : e.1 ≠ j := by omega
        simp [Tab.find, Ne.symm h, this]
      · simp [Tab.find, ih]

theorem Tab.get_eq_find {α : Type} (d : α) (t : Tab α) (k : Nat) : t.get d k = (t.find k).getD d := by
  induction t with
  | nil => rfl
  | cons e r ih => simp only [Tab.get, Tab.find]; split <;> simp [ih]

@[simp] theorem Tab.find_del_same {α : Type} (t : Tab α) (k : Nat) : (t.del k).find k = none := by
  induction t with
  | nil => rfl
  | cons e r ih =>
    simp only [Tab.del, List.filter] at ih ⊢
    split
    · rename_i h
      have : e.1 ≠ k := by simpa using h
      simpa [Tab.find, this] using ih
    · simpa using ih

@[simp] theorem Tab.find_del_other {α : Type} (t : Tab α) {j k : Nat} (h : j ≠ k) : (t.del k).find j = t.find j := by
  induction t with
  | nil => rfl
  | cons e r ih =>
    simp only [Tab.del, List.filter] at ih ⊢
    split
    · simp only [Tab.find]
      split
      · rfl
      · exact ih
    · rename_i h2
      have h3 : e.1 = k := by simpa using h2
      simp only [Tab.find, h3, Ne.symm h, if_false]
      exact ih

theorem Tab.bump_get (t : Tab Nat) (k n : Nat) : (t.bump k n).get 0 k = satAdd top48 (t.get 0 k) n := by simp [Tab.bump]

/-! ### Units -/

@[simp] theorem State.ctx_setCtx_same (s : State) (c : Nat) (v : Ctx) : (s.setCtx c v).ctx c = v := by
  simp [State.ctx, State.setCtx]
@[simp] theorem State.ctx_setCtx_other (s : State) {c j : Nat} (h : j ≠ c) (v : Ctx) :
    (s.setCtx c v).ctx j = s.ctx j := by simp [State.ctx, State.setCtx, h]
@[simp] theorem State.ctx_modCtx_same (s : State) (c : Nat) (f : Ctx → Ctx) : (s.modCtx c f).ctx c = f (s.ctx c) := by
  simp [State.modCtx]
@[simp] theorem State.ctx_modCtx_other (s : State) {c j : Nat} (h : j ≠ c) (f : Ctx → Ctx) :
    (s.modCtx c f).ctx j = s.ctx j := by simp [State.modCtx, h]
@[simp] theorem State.task_setTask_same (s : State) (w : Who) (v : Task) : (s.setTask w v).task w = some v := by
  simp [State.task, State.setTask]
@[simp] theorem State.task_setTask_other (s : State) {w x : Who} (h : Who.key x ≠ Who.key w) (v : Task) :
    (s.setTask w v).task x = s.task x := by simp [State.task, State.setTask, h]
theorem State.modTask_of_task {s : State} {w : Who} {t : Task} (f : Task → Task) (h : s.task w = some t) :
    s.modTask w f = s.setTask w (f t) := by simp [State.modTask, h]
@[simp] theorem State.core_modCore_same (s : State) (c : Nat) (f : Core → Core) :
    (s.modCore c f).core c = f (s.core c) := by simp [State.core, State.modCore]
@[simp] theorem State.core_modCore_other (s : State) {c j : Nat} (h : j ≠ c) (f : Core → Core) :
    (s.modCore c f).core j = s.core j := by simp [State.core, State.modCore, h]
@[simp] theorem State.die_modDie_same (s : State) (d : Nat) (f : Die → Die) :
    (s.modDie d f).die d = f (s.die d) := by simp [State.die, State.modDie]
@[simp] theorem State.die_modDie_other (s : State) {d j : Nat} (h : j ≠ d) (f : Die → Die) :
    (s.modDie d f).die j = s.die j := by simp [State.die, State.modDie, h]
@[simp] theorem State.tally_modTally_same (s : State) (n : Nat) (f : Tally → Tally) :
    (s.modTally n f).tally n = f (s.tally n) := by simp [State.tally, State.modTally]
@[simp] theorem State.tally_modTally_other (s : State) {n j : Nat} (h : j ≠ n) (f : Tally → Tally) :
    (s.modTally n f).tally j = s.tally j := by simp [State.tally, State.modTally, h]
@[simp] theorem State.slot_modSlot_same (s : State) (n : Nat) (f : CheckSlot → CheckSlot) :
    (s.modSlot n f).slot n = f (s.slot n) := by simp [State.slot, State.modSlot]
@[simp] theorem State.slot_modSlot_other (s : State) {n j : Nat} (h : j ≠ n) (f : CheckSlot → CheckSlot) :
    (s.modSlot n f).slot j = s.slot j := by simp [State.slot, State.modSlot, h]
@[simp] theorem State.port_modPort_same (s : State) (p : Nat) (f : Port → Port) :
    (s.modPort p f).port p = f (s.port p) := by simp [State.port, State.modPort]
@[simp] theorem State.port_modPort_other (s : State) {p j : Nat} (h : j ≠ p) (f : Port → Port) :
    (s.modPort p f).port j = s.port j := by simp [State.port, State.modPort, h]

/-! ### Fields an update leaves alone -/

@[simp] theorem State.setCtx_pending (s : State) (c : Nat) (v : Ctx) : (s.setCtx c v).pending = s.pending := rfl
@[simp] theorem State.setCtx_freeCount (s : State) (c : Nat) (v : Ctx) : (s.setCtx c v).freeCount = s.freeCount := rfl
@[simp] theorem State.setCtx_power (s : State) (c : Nat) (v : Ctx) : (s.setCtx c v).power = s.power := rfl
@[simp] theorem State.setCtx_fuses (s : State) (c : Nat) (v : Ctx) : (s.setCtx c v).fuses = s.fuses := rfl
@[simp] theorem State.setCtx_keeper (s : State) (c : Nat) (v : Ctx) : (s.setCtx c v).keeper = s.keeper := rfl
@[simp] theorem State.setCtx_hg (s : State) (c : Nat) (v : Ctx) : (s.setCtx c v).hg = s.hg := rfl
@[simp] theorem State.setCtx_tasks (s : State) (c : Nat) (v : Ctx) : (s.setCtx c v).tasks = s.tasks := rfl
@[simp] theorem State.setCtx_cores (s : State) (c : Nat) (v : Ctx) : (s.setCtx c v).cores = s.cores := rfl
@[simp] theorem State.setCtx_saved (s : State) (c : Nat) (v : Ctx) : (s.setCtx c v).saved = s.saved := rfl
@[simp] theorem State.setCtx_ops (s : State) (c : Nat) (v : Ctx) : (s.setCtx c v).ops = s.ops := rfl
@[simp] theorem State.setCtx_nextOp (s : State) (c : Nat) (v : Ctx) : (s.setCtx c v).nextOp = s.nextOp := rfl
@[simp] theorem State.setCtx_tags (s : State) (c : Nat) (v : Ctx) : (s.setCtx c v).tags = s.tags := rfl
@[simp] theorem State.setCtx_nextTag (s : State) (c : Nat) (v : Ctx) : (s.setCtx c v).nextTag = s.nextTag := rfl
@[simp] theorem State.setCtx_mem (s : State) (c : Nat) (v : Ctx) : (s.setCtx c v).mem = s.mem := rfl
@[simp] theorem State.setCtx_tallies (s : State) (c : Nat) (v : Ctx) : (s.setCtx c v).tallies = s.tallies := rfl
@[simp] theorem State.setCtx_tl (s : State) (c : Nat) (v : Ctx) : (s.setCtx c v).tl = s.tl := rfl
@[simp] theorem State.setCtx_inflight (s : State) (c : Nat) (v : Ctx) : (s.setCtx c v).inflight = s.inflight := rfl
@[simp] theorem State.setCtx_grants (s : State) (c : Nat) (v : Ctx) : (s.setCtx c v).grants = s.grants := rfl
@[simp] theorem State.setCtx_slots (s : State) (c : Nat) (v : Ctx) : (s.setCtx c v).slots = s.slots := rfl
@[simp] theorem State.setCtx_links (s : State) (c : Nat) (v : Ctx) : (s.setCtx c v).links = s.links := rfl
@[simp] theorem State.setCtx_merge (s : State) (c : Nat) (v : Ctx) : (s.setCtx c v).merge = s.merge := rfl
@[simp] theorem State.setCtx_mt (s : State) (c : Nat) (v : Ctx) : (s.setCtx c v).mt = s.mt := rfl
@[simp] theorem State.setCtx_sm (s : State) (c : Nat) (v : Ctx) : (s.setCtx c v).sm = s.sm := rfl
@[simp] theorem State.setCtx_sl (s : State) (c : Nat) (v : Ctx) : (s.setCtx c v).sl = s.sl := rfl
@[simp] theorem State.setCtx_dies (s : State) (c : Nat) (v : Ctx) : (s.setCtx c v).dies = s.dies := rfl
@[simp] theorem State.setCtx_weir (s : State) (c : Nat) (v : Ctx) : (s.setCtx c v).weir = s.weir := rfl
@[simp] theorem State.setCtx_log (s : State) (c : Nat) (v : Ctx) : (s.setCtx c v).log = s.log := rfl
@[simp] theorem State.setCtx_fence (s : State) (c : Nat) (v : Ctx) : (s.setCtx c v).fence = s.fence := rfl
@[simp] theorem State.setCtx_dg (s : State) (c : Nat) (v : Ctx) : (s.setCtx c v).dg = s.dg := rfl
@[simp] theorem State.setCtx_loose (s : State) (c : Nat) (v : Ctx) : (s.setCtx c v).loose = s.loose := rfl
@[simp] theorem State.setCtx_errs (s : State) (c : Nat) (v : Ctx) : (s.setCtx c v).errs = s.errs := rfl
@[simp] theorem State.setCtx_touched (s : State) (c : Nat) (v : Ctx) : (s.setCtx c v).touched = s.touched := rfl

@[simp] theorem State.modCtx_pending (s : State) (c : Nat) (f : Ctx → Ctx) : (s.modCtx c f).pending = s.pending := rfl
@[simp] theorem State.modCtx_freeCount (s : State) (c : Nat) (f : Ctx → Ctx) : (s.modCtx c f).freeCount = s.freeCount := rfl
@[simp] theorem State.modCtx_power (s : State) (c : Nat) (f : Ctx → Ctx) : (s.modCtx c f).power = s.power := rfl
@[simp] theorem State.modCtx_fuses (s : State) (c : Nat) (f : Ctx → Ctx) : (s.modCtx c f).fuses = s.fuses := rfl
@[simp] theorem State.modCtx_keeper (s : State) (c : Nat) (f : Ctx → Ctx) : (s.modCtx c f).keeper = s.keeper := rfl
@[simp] theorem State.modCtx_hg (s : State) (c : Nat) (f : Ctx → Ctx) : (s.modCtx c f).hg = s.hg := rfl
@[simp] theorem State.modCtx_tasks (s : State) (c : Nat) (f : Ctx → Ctx) : (s.modCtx c f).tasks = s.tasks := rfl
@[simp] theorem State.modCtx_cores (s : State) (c : Nat) (f : Ctx → Ctx) : (s.modCtx c f).cores = s.cores := rfl
@[simp] theorem State.modCtx_saved (s : State) (c : Nat) (f : Ctx → Ctx) : (s.modCtx c f).saved = s.saved := rfl
@[simp] theorem State.modCtx_ops (s : State) (c : Nat) (f : Ctx → Ctx) : (s.modCtx c f).ops = s.ops := rfl
@[simp] theorem State.modCtx_nextOp (s : State) (c : Nat) (f : Ctx → Ctx) : (s.modCtx c f).nextOp = s.nextOp := rfl
@[simp] theorem State.modCtx_tags (s : State) (c : Nat) (f : Ctx → Ctx) : (s.modCtx c f).tags = s.tags := rfl
@[simp] theorem State.modCtx_nextTag (s : State) (c : Nat) (f : Ctx → Ctx) : (s.modCtx c f).nextTag = s.nextTag := rfl
@[simp] theorem State.modCtx_mem (s : State) (c : Nat) (f : Ctx → Ctx) : (s.modCtx c f).mem = s.mem := rfl
@[simp] theorem State.modCtx_tallies (s : State) (c : Nat) (f : Ctx → Ctx) : (s.modCtx c f).tallies = s.tallies := rfl
@[simp] theorem State.modCtx_tl (s : State) (c : Nat) (f : Ctx → Ctx) : (s.modCtx c f).tl = s.tl := rfl
@[simp] theorem State.modCtx_inflight (s : State) (c : Nat) (f : Ctx → Ctx) : (s.modCtx c f).inflight = s.inflight := rfl
@[simp] theorem State.modCtx_grants (s : State) (c : Nat) (f : Ctx → Ctx) : (s.modCtx c f).grants = s.grants := rfl
@[simp] theorem State.modCtx_slots (s : State) (c : Nat) (f : Ctx → Ctx) : (s.modCtx c f).slots = s.slots := rfl
@[simp] theorem State.modCtx_links (s : State) (c : Nat) (f : Ctx → Ctx) : (s.modCtx c f).links = s.links := rfl
@[simp] theorem State.modCtx_merge (s : State) (c : Nat) (f : Ctx → Ctx) : (s.modCtx c f).merge = s.merge := rfl
@[simp] theorem State.modCtx_mt (s : State) (c : Nat) (f : Ctx → Ctx) : (s.modCtx c f).mt = s.mt := rfl
@[simp] theorem State.modCtx_sm (s : State) (c : Nat) (f : Ctx → Ctx) : (s.modCtx c f).sm = s.sm := rfl
@[simp] theorem State.modCtx_sl (s : State) (c : Nat) (f : Ctx → Ctx) : (s.modCtx c f).sl = s.sl := rfl
@[simp] theorem State.modCtx_dies (s : State) (c : Nat) (f : Ctx → Ctx) : (s.modCtx c f).dies = s.dies := rfl
@[simp] theorem State.modCtx_weir (s : State) (c : Nat) (f : Ctx → Ctx) : (s.modCtx c f).weir = s.weir := rfl
@[simp] theorem State.modCtx_log (s : State) (c : Nat) (f : Ctx → Ctx) : (s.modCtx c f).log = s.log := rfl
@[simp] theorem State.modCtx_fence (s : State) (c : Nat) (f : Ctx → Ctx) : (s.modCtx c f).fence = s.fence := rfl
@[simp] theorem State.modCtx_dg (s : State) (c : Nat) (f : Ctx → Ctx) : (s.modCtx c f).dg = s.dg := rfl
@[simp] theorem State.modCtx_loose (s : State) (c : Nat) (f : Ctx → Ctx) : (s.modCtx c f).loose = s.loose := rfl
@[simp] theorem State.modCtx_errs (s : State) (c : Nat) (f : Ctx → Ctx) : (s.modCtx c f).errs = s.errs := rfl
@[simp] theorem State.modCtx_touched (s : State) (c : Nat) (f : Ctx → Ctx) : (s.modCtx c f).touched = s.touched := rfl

@[simp] theorem State.modRegs_pending (s : State) (c : Nat) (f : CtRegs → CtRegs) : (s.modRegs c f).pending = s.pending := rfl
@[simp] theorem State.modRegs_freeCount (s : State) (c : Nat) (f : CtRegs → CtRegs) : (s.modRegs c f).freeCount = s.freeCount := rfl
@[simp] theorem State.modRegs_power (s : State) (c : Nat) (f : CtRegs → CtRegs) : (s.modRegs c f).power = s.power := rfl
@[simp] theorem State.modRegs_fuses (s : State) (c : Nat) (f : CtRegs → CtRegs) : (s.modRegs c f).fuses = s.fuses := rfl
@[simp] theorem State.modRegs_keeper (s : State) (c : Nat) (f : CtRegs → CtRegs) : (s.modRegs c f).keeper = s.keeper := rfl
@[simp] theorem State.modRegs_hg (s : State) (c : Nat) (f : CtRegs → CtRegs) : (s.modRegs c f).hg = s.hg := rfl
@[simp] theorem State.modRegs_tasks (s : State) (c : Nat) (f : CtRegs → CtRegs) : (s.modRegs c f).tasks = s.tasks := rfl
@[simp] theorem State.modRegs_cores (s : State) (c : Nat) (f : CtRegs → CtRegs) : (s.modRegs c f).cores = s.cores := rfl
@[simp] theorem State.modRegs_saved (s : State) (c : Nat) (f : CtRegs → CtRegs) : (s.modRegs c f).saved = s.saved := rfl
@[simp] theorem State.modRegs_ops (s : State) (c : Nat) (f : CtRegs → CtRegs) : (s.modRegs c f).ops = s.ops := rfl
@[simp] theorem State.modRegs_nextOp (s : State) (c : Nat) (f : CtRegs → CtRegs) : (s.modRegs c f).nextOp = s.nextOp := rfl
@[simp] theorem State.modRegs_tags (s : State) (c : Nat) (f : CtRegs → CtRegs) : (s.modRegs c f).tags = s.tags := rfl
@[simp] theorem State.modRegs_nextTag (s : State) (c : Nat) (f : CtRegs → CtRegs) : (s.modRegs c f).nextTag = s.nextTag := rfl
@[simp] theorem State.modRegs_mem (s : State) (c : Nat) (f : CtRegs → CtRegs) : (s.modRegs c f).mem = s.mem := rfl
@[simp] theorem State.modRegs_tallies (s : State) (c : Nat) (f : CtRegs → CtRegs) : (s.modRegs c f).tallies = s.tallies := rfl
@[simp] theorem State.modRegs_tl (s : State) (c : Nat) (f : CtRegs → CtRegs) : (s.modRegs c f).tl = s.tl := rfl
@[simp] theorem State.modRegs_inflight (s : State) (c : Nat) (f : CtRegs → CtRegs) : (s.modRegs c f).inflight = s.inflight := rfl
@[simp] theorem State.modRegs_grants (s : State) (c : Nat) (f : CtRegs → CtRegs) : (s.modRegs c f).grants = s.grants := rfl
@[simp] theorem State.modRegs_slots (s : State) (c : Nat) (f : CtRegs → CtRegs) : (s.modRegs c f).slots = s.slots := rfl
@[simp] theorem State.modRegs_links (s : State) (c : Nat) (f : CtRegs → CtRegs) : (s.modRegs c f).links = s.links := rfl
@[simp] theorem State.modRegs_merge (s : State) (c : Nat) (f : CtRegs → CtRegs) : (s.modRegs c f).merge = s.merge := rfl
@[simp] theorem State.modRegs_mt (s : State) (c : Nat) (f : CtRegs → CtRegs) : (s.modRegs c f).mt = s.mt := rfl
@[simp] theorem State.modRegs_sm (s : State) (c : Nat) (f : CtRegs → CtRegs) : (s.modRegs c f).sm = s.sm := rfl
@[simp] theorem State.modRegs_sl (s : State) (c : Nat) (f : CtRegs → CtRegs) : (s.modRegs c f).sl = s.sl := rfl
@[simp] theorem State.modRegs_dies (s : State) (c : Nat) (f : CtRegs → CtRegs) : (s.modRegs c f).dies = s.dies := rfl
@[simp] theorem State.modRegs_weir (s : State) (c : Nat) (f : CtRegs → CtRegs) : (s.modRegs c f).weir = s.weir := rfl
@[simp] theorem State.modRegs_log (s : State) (c : Nat) (f : CtRegs → CtRegs) : (s.modRegs c f).log = s.log := rfl
@[simp] theorem State.modRegs_fence (s : State) (c : Nat) (f : CtRegs → CtRegs) : (s.modRegs c f).fence = s.fence := rfl
@[simp] theorem State.modRegs_dg (s : State) (c : Nat) (f : CtRegs → CtRegs) : (s.modRegs c f).dg = s.dg := rfl
@[simp] theorem State.modRegs_loose (s : State) (c : Nat) (f : CtRegs → CtRegs) : (s.modRegs c f).loose = s.loose := rfl
@[simp] theorem State.modRegs_errs (s : State) (c : Nat) (f : CtRegs → CtRegs) : (s.modRegs c f).errs = s.errs := rfl
@[simp] theorem State.modRegs_touched (s : State) (c : Nat) (f : CtRegs → CtRegs) : (s.modRegs c f).touched = s.touched := rfl

@[simp] theorem State.modSeal_pending (s : State) (c : Nat) (f : SealCtx → SealCtx) : (s.modSeal c f).pending = s.pending := rfl
@[simp] theorem State.modSeal_freeCount (s : State) (c : Nat) (f : SealCtx → SealCtx) : (s.modSeal c f).freeCount = s.freeCount := rfl
@[simp] theorem State.modSeal_power (s : State) (c : Nat) (f : SealCtx → SealCtx) : (s.modSeal c f).power = s.power := rfl
@[simp] theorem State.modSeal_fuses (s : State) (c : Nat) (f : SealCtx → SealCtx) : (s.modSeal c f).fuses = s.fuses := rfl
@[simp] theorem State.modSeal_keeper (s : State) (c : Nat) (f : SealCtx → SealCtx) : (s.modSeal c f).keeper = s.keeper := rfl
@[simp] theorem State.modSeal_hg (s : State) (c : Nat) (f : SealCtx → SealCtx) : (s.modSeal c f).hg = s.hg := rfl
@[simp] theorem State.modSeal_tasks (s : State) (c : Nat) (f : SealCtx → SealCtx) : (s.modSeal c f).tasks = s.tasks := rfl
@[simp] theorem State.modSeal_cores (s : State) (c : Nat) (f : SealCtx → SealCtx) : (s.modSeal c f).cores = s.cores := rfl
@[simp] theorem State.modSeal_saved (s : State) (c : Nat) (f : SealCtx → SealCtx) : (s.modSeal c f).saved = s.saved := rfl
@[simp] theorem State.modSeal_ops (s : State) (c : Nat) (f : SealCtx → SealCtx) : (s.modSeal c f).ops = s.ops := rfl
@[simp] theorem State.modSeal_nextOp (s : State) (c : Nat) (f : SealCtx → SealCtx) : (s.modSeal c f).nextOp = s.nextOp := rfl
@[simp] theorem State.modSeal_tags (s : State) (c : Nat) (f : SealCtx → SealCtx) : (s.modSeal c f).tags = s.tags := rfl
@[simp] theorem State.modSeal_nextTag (s : State) (c : Nat) (f : SealCtx → SealCtx) : (s.modSeal c f).nextTag = s.nextTag := rfl
@[simp] theorem State.modSeal_mem (s : State) (c : Nat) (f : SealCtx → SealCtx) : (s.modSeal c f).mem = s.mem := rfl
@[simp] theorem State.modSeal_tallies (s : State) (c : Nat) (f : SealCtx → SealCtx) : (s.modSeal c f).tallies = s.tallies := rfl
@[simp] theorem State.modSeal_tl (s : State) (c : Nat) (f : SealCtx → SealCtx) : (s.modSeal c f).tl = s.tl := rfl
@[simp] theorem State.modSeal_inflight (s : State) (c : Nat) (f : SealCtx → SealCtx) : (s.modSeal c f).inflight = s.inflight := rfl
@[simp] theorem State.modSeal_grants (s : State) (c : Nat) (f : SealCtx → SealCtx) : (s.modSeal c f).grants = s.grants := rfl
@[simp] theorem State.modSeal_slots (s : State) (c : Nat) (f : SealCtx → SealCtx) : (s.modSeal c f).slots = s.slots := rfl
@[simp] theorem State.modSeal_links (s : State) (c : Nat) (f : SealCtx → SealCtx) : (s.modSeal c f).links = s.links := rfl
@[simp] theorem State.modSeal_merge (s : State) (c : Nat) (f : SealCtx → SealCtx) : (s.modSeal c f).merge = s.merge := rfl
@[simp] theorem State.modSeal_mt (s : State) (c : Nat) (f : SealCtx → SealCtx) : (s.modSeal c f).mt = s.mt := rfl
@[simp] theorem State.modSeal_sm (s : State) (c : Nat) (f : SealCtx → SealCtx) : (s.modSeal c f).sm = s.sm := rfl
@[simp] theorem State.modSeal_sl (s : State) (c : Nat) (f : SealCtx → SealCtx) : (s.modSeal c f).sl = s.sl := rfl
@[simp] theorem State.modSeal_dies (s : State) (c : Nat) (f : SealCtx → SealCtx) : (s.modSeal c f).dies = s.dies := rfl
@[simp] theorem State.modSeal_weir (s : State) (c : Nat) (f : SealCtx → SealCtx) : (s.modSeal c f).weir = s.weir := rfl
@[simp] theorem State.modSeal_log (s : State) (c : Nat) (f : SealCtx → SealCtx) : (s.modSeal c f).log = s.log := rfl
@[simp] theorem State.modSeal_fence (s : State) (c : Nat) (f : SealCtx → SealCtx) : (s.modSeal c f).fence = s.fence := rfl
@[simp] theorem State.modSeal_dg (s : State) (c : Nat) (f : SealCtx → SealCtx) : (s.modSeal c f).dg = s.dg := rfl
@[simp] theorem State.modSeal_loose (s : State) (c : Nat) (f : SealCtx → SealCtx) : (s.modSeal c f).loose = s.loose := rfl
@[simp] theorem State.modSeal_errs (s : State) (c : Nat) (f : SealCtx → SealCtx) : (s.modSeal c f).errs = s.errs := rfl
@[simp] theorem State.modSeal_touched (s : State) (c : Nat) (f : SealCtx → SealCtx) : (s.modSeal c f).touched = s.touched := rfl

@[simp] theorem State.modParcel_pending (s : State) (c : Nat) (h : W32) (f : Parcel → Parcel) : (s.modParcel c h f).pending = s.pending := rfl
@[simp] theorem State.modParcel_freeCount (s : State) (c : Nat) (h : W32) (f : Parcel → Parcel) : (s.modParcel c h f).freeCount = s.freeCount := rfl
@[simp] theorem State.modParcel_power (s : State) (c : Nat) (h : W32) (f : Parcel → Parcel) : (s.modParcel c h f).power = s.power := rfl
@[simp] theorem State.modParcel_fuses (s : State) (c : Nat) (h : W32) (f : Parcel → Parcel) : (s.modParcel c h f).fuses = s.fuses := rfl
@[simp] theorem State.modParcel_keeper (s : State) (c : Nat) (h : W32) (f : Parcel → Parcel) : (s.modParcel c h f).keeper = s.keeper := rfl
@[simp] theorem State.modParcel_hg (s : State) (c : Nat) (h : W32) (f : Parcel → Parcel) : (s.modParcel c h f).hg = s.hg := rfl
@[simp] theorem State.modParcel_tasks (s : State) (c : Nat) (h : W32) (f : Parcel → Parcel) : (s.modParcel c h f).tasks = s.tasks := rfl
@[simp] theorem State.modParcel_cores (s : State) (c : Nat) (h : W32) (f : Parcel → Parcel) : (s.modParcel c h f).cores = s.cores := rfl
@[simp] theorem State.modParcel_saved (s : State) (c : Nat) (h : W32) (f : Parcel → Parcel) : (s.modParcel c h f).saved = s.saved := rfl
@[simp] theorem State.modParcel_ops (s : State) (c : Nat) (h : W32) (f : Parcel → Parcel) : (s.modParcel c h f).ops = s.ops := rfl
@[simp] theorem State.modParcel_nextOp (s : State) (c : Nat) (h : W32) (f : Parcel → Parcel) : (s.modParcel c h f).nextOp = s.nextOp := rfl
@[simp] theorem State.modParcel_tags (s : State) (c : Nat) (h : W32) (f : Parcel → Parcel) : (s.modParcel c h f).tags = s.tags := rfl
@[simp] theorem State.modParcel_nextTag (s : State) (c : Nat) (h : W32) (f : Parcel → Parcel) : (s.modParcel c h f).nextTag = s.nextTag := rfl
@[simp] theorem State.modParcel_mem (s : State) (c : Nat) (h : W32) (f : Parcel → Parcel) : (s.modParcel c h f).mem = s.mem := rfl
@[simp] theorem State.modParcel_tallies (s : State) (c : Nat) (h : W32) (f : Parcel → Parcel) : (s.modParcel c h f).tallies = s.tallies := rfl
@[simp] theorem State.modParcel_tl (s : State) (c : Nat) (h : W32) (f : Parcel → Parcel) : (s.modParcel c h f).tl = s.tl := rfl
@[simp] theorem State.modParcel_inflight (s : State) (c : Nat) (h : W32) (f : Parcel → Parcel) : (s.modParcel c h f).inflight = s.inflight := rfl
@[simp] theorem State.modParcel_grants (s : State) (c : Nat) (h : W32) (f : Parcel → Parcel) : (s.modParcel c h f).grants = s.grants := rfl
@[simp] theorem State.modParcel_slots (s : State) (c : Nat) (h : W32) (f : Parcel → Parcel) : (s.modParcel c h f).slots = s.slots := rfl
@[simp] theorem State.modParcel_links (s : State) (c : Nat) (h : W32) (f : Parcel → Parcel) : (s.modParcel c h f).links = s.links := rfl
@[simp] theorem State.modParcel_merge (s : State) (c : Nat) (h : W32) (f : Parcel → Parcel) : (s.modParcel c h f).merge = s.merge := rfl
@[simp] theorem State.modParcel_mt (s : State) (c : Nat) (h : W32) (f : Parcel → Parcel) : (s.modParcel c h f).mt = s.mt := rfl
@[simp] theorem State.modParcel_sm (s : State) (c : Nat) (h : W32) (f : Parcel → Parcel) : (s.modParcel c h f).sm = s.sm := rfl
@[simp] theorem State.modParcel_sl (s : State) (c : Nat) (h : W32) (f : Parcel → Parcel) : (s.modParcel c h f).sl = s.sl := rfl
@[simp] theorem State.modParcel_dies (s : State) (c : Nat) (h : W32) (f : Parcel → Parcel) : (s.modParcel c h f).dies = s.dies := rfl
@[simp] theorem State.modParcel_weir (s : State) (c : Nat) (h : W32) (f : Parcel → Parcel) : (s.modParcel c h f).weir = s.weir := rfl
@[simp] theorem State.modParcel_log (s : State) (c : Nat) (h : W32) (f : Parcel → Parcel) : (s.modParcel c h f).log = s.log := rfl
@[simp] theorem State.modParcel_fence (s : State) (c : Nat) (h : W32) (f : Parcel → Parcel) : (s.modParcel c h f).fence = s.fence := rfl
@[simp] theorem State.modParcel_dg (s : State) (c : Nat) (h : W32) (f : Parcel → Parcel) : (s.modParcel c h f).dg = s.dg := rfl
@[simp] theorem State.modParcel_loose (s : State) (c : Nat) (h : W32) (f : Parcel → Parcel) : (s.modParcel c h f).loose = s.loose := rfl
@[simp] theorem State.modParcel_errs (s : State) (c : Nat) (h : W32) (f : Parcel → Parcel) : (s.modParcel c h f).errs = s.errs := rfl
@[simp] theorem State.modParcel_touched (s : State) (c : Nat) (h : W32) (f : Parcel → Parcel) : (s.modParcel c h f).touched = s.touched := rfl

@[simp] theorem State.setTask_pending (s : State) (w : Who) (v : Task) : (s.setTask w v).pending = s.pending := rfl
@[simp] theorem State.setTask_freeCount (s : State) (w : Who) (v : Task) : (s.setTask w v).freeCount = s.freeCount := rfl
@[simp] theorem State.setTask_power (s : State) (w : Who) (v : Task) : (s.setTask w v).power = s.power := rfl
@[simp] theorem State.setTask_fuses (s : State) (w : Who) (v : Task) : (s.setTask w v).fuses = s.fuses := rfl
@[simp] theorem State.setTask_keeper (s : State) (w : Who) (v : Task) : (s.setTask w v).keeper = s.keeper := rfl
@[simp] theorem State.setTask_hg (s : State) (w : Who) (v : Task) : (s.setTask w v).hg = s.hg := rfl
@[simp] theorem State.setTask_ctxs (s : State) (w : Who) (v : Task) : (s.setTask w v).ctxs = s.ctxs := rfl
@[simp] theorem State.setTask_cores (s : State) (w : Who) (v : Task) : (s.setTask w v).cores = s.cores := rfl
@[simp] theorem State.setTask_saved (s : State) (w : Who) (v : Task) : (s.setTask w v).saved = s.saved := rfl
@[simp] theorem State.setTask_ops (s : State) (w : Who) (v : Task) : (s.setTask w v).ops = s.ops := rfl
@[simp] theorem State.setTask_nextOp (s : State) (w : Who) (v : Task) : (s.setTask w v).nextOp = s.nextOp := rfl
@[simp] theorem State.setTask_tags (s : State) (w : Who) (v : Task) : (s.setTask w v).tags = s.tags := rfl
@[simp] theorem State.setTask_nextTag (s : State) (w : Who) (v : Task) : (s.setTask w v).nextTag = s.nextTag := rfl
@[simp] theorem State.setTask_mem (s : State) (w : Who) (v : Task) : (s.setTask w v).mem = s.mem := rfl
@[simp] theorem State.setTask_tallies (s : State) (w : Who) (v : Task) : (s.setTask w v).tallies = s.tallies := rfl
@[simp] theorem State.setTask_tl (s : State) (w : Who) (v : Task) : (s.setTask w v).tl = s.tl := rfl
@[simp] theorem State.setTask_inflight (s : State) (w : Who) (v : Task) : (s.setTask w v).inflight = s.inflight := rfl
@[simp] theorem State.setTask_grants (s : State) (w : Who) (v : Task) : (s.setTask w v).grants = s.grants := rfl
@[simp] theorem State.setTask_slots (s : State) (w : Who) (v : Task) : (s.setTask w v).slots = s.slots := rfl
@[simp] theorem State.setTask_links (s : State) (w : Who) (v : Task) : (s.setTask w v).links = s.links := rfl
@[simp] theorem State.setTask_merge (s : State) (w : Who) (v : Task) : (s.setTask w v).merge = s.merge := rfl
@[simp] theorem State.setTask_mt (s : State) (w : Who) (v : Task) : (s.setTask w v).mt = s.mt := rfl
@[simp] theorem State.setTask_sm (s : State) (w : Who) (v : Task) : (s.setTask w v).sm = s.sm := rfl
@[simp] theorem State.setTask_sl (s : State) (w : Who) (v : Task) : (s.setTask w v).sl = s.sl := rfl
@[simp] theorem State.setTask_dies (s : State) (w : Who) (v : Task) : (s.setTask w v).dies = s.dies := rfl
@[simp] theorem State.setTask_weir (s : State) (w : Who) (v : Task) : (s.setTask w v).weir = s.weir := rfl
@[simp] theorem State.setTask_log (s : State) (w : Who) (v : Task) : (s.setTask w v).log = s.log := rfl
@[simp] theorem State.setTask_fence (s : State) (w : Who) (v : Task) : (s.setTask w v).fence = s.fence := rfl
@[simp] theorem State.setTask_dg (s : State) (w : Who) (v : Task) : (s.setTask w v).dg = s.dg := rfl
@[simp] theorem State.setTask_loose (s : State) (w : Who) (v : Task) : (s.setTask w v).loose = s.loose := rfl
@[simp] theorem State.setTask_errs (s : State) (w : Who) (v : Task) : (s.setTask w v).errs = s.errs := rfl
@[simp] theorem State.setTask_touched (s : State) (w : Who) (v : Task) : (s.setTask w v).touched = s.touched := rfl

@[simp] theorem State.dropTask_pending (s : State) (w : Who) : (s.dropTask w).pending = s.pending := rfl
@[simp] theorem State.dropTask_freeCount (s : State) (w : Who) : (s.dropTask w).freeCount = s.freeCount := rfl
@[simp] theorem State.dropTask_power (s : State) (w : Who) : (s.dropTask w).power = s.power := rfl
@[simp] theorem State.dropTask_fuses (s : State) (w : Who) : (s.dropTask w).fuses = s.fuses := rfl
@[simp] theorem State.dropTask_keeper (s : State) (w : Who) : (s.dropTask w).keeper = s.keeper := rfl
@[simp] theorem State.dropTask_hg (s : State) (w : Who) : (s.dropTask w).hg = s.hg := rfl
@[simp] theorem State.dropTask_ctxs (s : State) (w : Who) : (s.dropTask w).ctxs = s.ctxs := rfl
@[simp] theorem State.dropTask_cores (s : State) (w : Who) : (s.dropTask w).cores = s.cores := rfl
@[simp] theorem State.dropTask_saved (s : State) (w : Who) : (s.dropTask w).saved = s.saved := rfl
@[simp] theorem State.dropTask_ops (s : State) (w : Who) : (s.dropTask w).ops = s.ops := rfl
@[simp] theorem State.dropTask_nextOp (s : State) (w : Who) : (s.dropTask w).nextOp = s.nextOp := rfl
@[simp] theorem State.dropTask_tags (s : State) (w : Who) : (s.dropTask w).tags = s.tags := rfl
@[simp] theorem State.dropTask_nextTag (s : State) (w : Who) : (s.dropTask w).nextTag = s.nextTag := rfl
@[simp] theorem State.dropTask_mem (s : State) (w : Who) : (s.dropTask w).mem = s.mem := rfl
@[simp] theorem State.dropTask_tallies (s : State) (w : Who) : (s.dropTask w).tallies = s.tallies := rfl
@[simp] theorem State.dropTask_tl (s : State) (w : Who) : (s.dropTask w).tl = s.tl := rfl
@[simp] theorem State.dropTask_inflight (s : State) (w : Who) : (s.dropTask w).inflight = s.inflight := rfl
@[simp] theorem State.dropTask_grants (s : State) (w : Who) : (s.dropTask w).grants = s.grants := rfl
@[simp] theorem State.dropTask_slots (s : State) (w : Who) : (s.dropTask w).slots = s.slots := rfl
@[simp] theorem State.dropTask_links (s : State) (w : Who) : (s.dropTask w).links = s.links := rfl
@[simp] theorem State.dropTask_merge (s : State) (w : Who) : (s.dropTask w).merge = s.merge := rfl
@[simp] theorem State.dropTask_mt (s : State) (w : Who) : (s.dropTask w).mt = s.mt := rfl
@[simp] theorem State.dropTask_sm (s : State) (w : Who) : (s.dropTask w).sm = s.sm := rfl
@[simp] theorem State.dropTask_sl (s : State) (w : Who) : (s.dropTask w).sl = s.sl := rfl
@[simp] theorem State.dropTask_dies (s : State) (w : Who) : (s.dropTask w).dies = s.dies := rfl
@[simp] theorem State.dropTask_weir (s : State) (w : Who) : (s.dropTask w).weir = s.weir := rfl
@[simp] theorem State.dropTask_log (s : State) (w : Who) : (s.dropTask w).log = s.log := rfl
@[simp] theorem State.dropTask_fence (s : State) (w : Who) : (s.dropTask w).fence = s.fence := rfl
@[simp] theorem State.dropTask_dg (s : State) (w : Who) : (s.dropTask w).dg = s.dg := rfl
@[simp] theorem State.dropTask_errs (s : State) (w : Who) : (s.dropTask w).errs = s.errs := rfl
@[simp] theorem State.dropTask_touched (s : State) (w : Who) : (s.dropTask w).touched = s.touched := rfl

@[simp] theorem State.modTask_pending (s : State) (w : Who) (f : Task → Task) : (s.modTask w f).pending = s.pending := by
  unfold State.modTask; split <;> rfl
@[simp] theorem State.modTask_freeCount (s : State) (w : Who) (f : Task → Task) : (s.modTask w f).freeCount = s.freeCount := by
  unfold State.modTask; split <;> rfl
@[simp] theorem State.modTask_power (s : State) (w : Who) (f : Task → Task) : (s.modTask w f).power = s.power := by
  unfold State.modTask; split <;> rfl
@[simp] theorem State.modTask_fuses (s : State) (w : Who) (f : Task → Task) : (s.modTask w f).fuses = s.fuses := by
  unfold State.modTask; split <;> rfl
@[simp] theorem State.modTask_keeper (s : State) (w : Who) (f : Task → Task) : (s.modTask w f).keeper = s.keeper := by
  unfold State.modTask; split <;> rfl
@[simp] theorem State.modTask_hg (s : State) (w : Who) (f : Task → Task) : (s.modTask w f).hg = s.hg := by
  unfold State.modTask; split <;> rfl
@[simp] theorem State.modTask_ctxs (s : State) (w : Who) (f : Task → Task) : (s.modTask w f).ctxs = s.ctxs := by
  unfold State.modTask; split <;> rfl
@[simp] theorem State.modTask_cores (s : State) (w : Who) (f : Task → Task) : (s.modTask w f).cores = s.cores := by
  unfold State.modTask; split <;> rfl
@[simp] theorem State.modTask_saved (s : State) (w : Who) (f : Task → Task) : (s.modTask w f).saved = s.saved := by
  unfold State.modTask; split <;> rfl
@[simp] theorem State.modTask_ops (s : State) (w : Who) (f : Task → Task) : (s.modTask w f).ops = s.ops := by
  unfold State.modTask; split <;> rfl
@[simp] theorem State.modTask_nextOp (s : State) (w : Who) (f : Task → Task) : (s.modTask w f).nextOp = s.nextOp := by
  unfold State.modTask; split <;> rfl
@[simp] theorem State.modTask_tags (s : State) (w : Who) (f : Task → Task) : (s.modTask w f).tags = s.tags := by
  unfold State.modTask; split <;> rfl
@[simp] theorem State.modTask_nextTag (s : State) (w : Who) (f : Task → Task) : (s.modTask w f).nextTag = s.nextTag := by
  unfold State.modTask; split <;> rfl
@[simp] theorem State.modTask_mem (s : State) (w : Who) (f : Task → Task) : (s.modTask w f).mem = s.mem := by
  unfold State.modTask; split <;> rfl
@[simp] theorem State.modTask_tallies (s : State) (w : Who) (f : Task → Task) : (s.modTask w f).tallies = s.tallies := by
  unfold State.modTask; split <;> rfl
@[simp] theorem State.modTask_tl (s : State) (w : Who) (f : Task → Task) : (s.modTask w f).tl = s.tl := by
  unfold State.modTask; split <;> rfl
@[simp] theorem State.modTask_inflight (s : State) (w : Who) (f : Task → Task) : (s.modTask w f).inflight = s.inflight := by
  unfold State.modTask; split <;> rfl
@[simp] theorem State.modTask_grants (s : State) (w : Who) (f : Task → Task) : (s.modTask w f).grants = s.grants := by
  unfold State.modTask; split <;> rfl
@[simp] theorem State.modTask_slots (s : State) (w : Who) (f : Task → Task) : (s.modTask w f).slots = s.slots := by
  unfold State.modTask; split <;> rfl
@[simp] theorem State.modTask_links (s : State) (w : Who) (f : Task → Task) : (s.modTask w f).links = s.links := by
  unfold State.modTask; split <;> rfl
@[simp] theorem State.modTask_merge (s : State) (w : Who) (f : Task → Task) : (s.modTask w f).merge = s.merge := by
  unfold State.modTask; split <;> rfl
@[simp] theorem State.modTask_mt (s : State) (w : Who) (f : Task → Task) : (s.modTask w f).mt = s.mt := by
  unfold State.modTask; split <;> rfl
@[simp] theorem State.modTask_sm (s : State) (w : Who) (f : Task → Task) : (s.modTask w f).sm = s.sm := by
  unfold State.modTask; split <;> rfl
@[simp] theorem State.modTask_sl (s : State) (w : Who) (f : Task → Task) : (s.modTask w f).sl = s.sl := by
  unfold State.modTask; split <;> rfl
@[simp] theorem State.modTask_dies (s : State) (w : Who) (f : Task → Task) : (s.modTask w f).dies = s.dies := by
  unfold State.modTask; split <;> rfl
@[simp] theorem State.modTask_weir (s : State) (w : Who) (f : Task → Task) : (s.modTask w f).weir = s.weir := by
  unfold State.modTask; split <;> rfl
@[simp] theorem State.modTask_log (s : State) (w : Who) (f : Task → Task) : (s.modTask w f).log = s.log := by
  unfold State.modTask; split <;> rfl
@[simp] theorem State.modTask_fence (s : State) (w : Who) (f : Task → Task) : (s.modTask w f).fence = s.fence := by
  unfold State.modTask; split <;> rfl
@[simp] theorem State.modTask_dg (s : State) (w : Who) (f : Task → Task) : (s.modTask w f).dg = s.dg := by
  unfold State.modTask; split <;> rfl
@[simp] theorem State.modTask_loose (s : State) (w : Who) (f : Task → Task) : (s.modTask w f).loose = s.loose := by
  unfold State.modTask; split <;> rfl
@[simp] theorem State.modTask_errs (s : State) (w : Who) (f : Task → Task) : (s.modTask w f).errs = s.errs := by
  unfold State.modTask; split <;> rfl
@[simp] theorem State.modTask_touched (s : State) (w : Who) (f : Task → Task) : (s.modTask w f).touched = s.touched := by
  unfold State.modTask; split <;> rfl

@[simp] theorem State.modCore_pending (s : State) (c : Nat) (f : Core → Core) : (s.modCore c f).pending = s.pending := rfl
@[simp] theorem State.modCore_freeCount (s : State) (c : Nat) (f : Core → Core) : (s.modCore c f).freeCount = s.freeCount := rfl
@[simp] theorem State.modCore_power (s : State) (c : Nat) (f : Core → Core) : (s.modCore c f).power = s.power := rfl
@[simp] theorem State.modCore_fuses (s : State) (c : Nat) (f : Core → Core) : (s.modCore c f).fuses = s.fuses := rfl
@[simp] theorem State.modCore_keeper (s : State) (c : Nat) (f : Core → Core) : (s.modCore c f).keeper = s.keeper := rfl
@[simp] theorem State.modCore_hg (s : State) (c : Nat) (f : Core → Core) : (s.modCore c f).hg = s.hg := rfl
@[simp] theorem State.modCore_ctxs (s : State) (c : Nat) (f : Core → Core) : (s.modCore c f).ctxs = s.ctxs := rfl
@[simp] theorem State.modCore_tasks (s : State) (c : Nat) (f : Core → Core) : (s.modCore c f).tasks = s.tasks := rfl
@[simp] theorem State.modCore_saved (s : State) (c : Nat) (f : Core → Core) : (s.modCore c f).saved = s.saved := rfl
@[simp] theorem State.modCore_ops (s : State) (c : Nat) (f : Core → Core) : (s.modCore c f).ops = s.ops := rfl
@[simp] theorem State.modCore_nextOp (s : State) (c : Nat) (f : Core → Core) : (s.modCore c f).nextOp = s.nextOp := rfl
@[simp] theorem State.modCore_tags (s : State) (c : Nat) (f : Core → Core) : (s.modCore c f).tags = s.tags := rfl
@[simp] theorem State.modCore_nextTag (s : State) (c : Nat) (f : Core → Core) : (s.modCore c f).nextTag = s.nextTag := rfl
@[simp] theorem State.modCore_mem (s : State) (c : Nat) (f : Core → Core) : (s.modCore c f).mem = s.mem := rfl
@[simp] theorem State.modCore_tallies (s : State) (c : Nat) (f : Core → Core) : (s.modCore c f).tallies = s.tallies := rfl
@[simp] theorem State.modCore_tl (s : State) (c : Nat) (f : Core → Core) : (s.modCore c f).tl = s.tl := rfl
@[simp] theorem State.modCore_inflight (s : State) (c : Nat) (f : Core → Core) : (s.modCore c f).inflight = s.inflight := rfl
@[simp] theorem State.modCore_grants (s : State) (c : Nat) (f : Core → Core) : (s.modCore c f).grants = s.grants := rfl
@[simp] theorem State.modCore_slots (s : State) (c : Nat) (f : Core → Core) : (s.modCore c f).slots = s.slots := rfl
@[simp] theorem State.modCore_links (s : State) (c : Nat) (f : Core → Core) : (s.modCore c f).links = s.links := rfl
@[simp] theorem State.modCore_merge (s : State) (c : Nat) (f : Core → Core) : (s.modCore c f).merge = s.merge := rfl
@[simp] theorem State.modCore_mt (s : State) (c : Nat) (f : Core → Core) : (s.modCore c f).mt = s.mt := rfl
@[simp] theorem State.modCore_sm (s : State) (c : Nat) (f : Core → Core) : (s.modCore c f).sm = s.sm := rfl
@[simp] theorem State.modCore_sl (s : State) (c : Nat) (f : Core → Core) : (s.modCore c f).sl = s.sl := rfl
@[simp] theorem State.modCore_dies (s : State) (c : Nat) (f : Core → Core) : (s.modCore c f).dies = s.dies := rfl
@[simp] theorem State.modCore_weir (s : State) (c : Nat) (f : Core → Core) : (s.modCore c f).weir = s.weir := rfl
@[simp] theorem State.modCore_log (s : State) (c : Nat) (f : Core → Core) : (s.modCore c f).log = s.log := rfl
@[simp] theorem State.modCore_fence (s : State) (c : Nat) (f : Core → Core) : (s.modCore c f).fence = s.fence := rfl
@[simp] theorem State.modCore_dg (s : State) (c : Nat) (f : Core → Core) : (s.modCore c f).dg = s.dg := rfl
@[simp] theorem State.modCore_loose (s : State) (c : Nat) (f : Core → Core) : (s.modCore c f).loose = s.loose := rfl
@[simp] theorem State.modCore_errs (s : State) (c : Nat) (f : Core → Core) : (s.modCore c f).errs = s.errs := rfl
@[simp] theorem State.modCore_touched (s : State) (c : Nat) (f : Core → Core) : (s.modCore c f).touched = s.touched := rfl

@[simp] theorem State.modDie_pending (s : State) (d : Nat) (f : Die → Die) : (s.modDie d f).pending = s.pending := rfl
@[simp] theorem State.modDie_freeCount (s : State) (d : Nat) (f : Die → Die) : (s.modDie d f).freeCount = s.freeCount := rfl
@[simp] theorem State.modDie_power (s : State) (d : Nat) (f : Die → Die) : (s.modDie d f).power = s.power := rfl
@[simp] theorem State.modDie_fuses (s : State) (d : Nat) (f : Die → Die) : (s.modDie d f).fuses = s.fuses := rfl
@[simp] theorem State.modDie_keeper (s : State) (d : Nat) (f : Die → Die) : (s.modDie d f).keeper = s.keeper := rfl
@[simp] theorem State.modDie_hg (s : State) (d : Nat) (f : Die → Die) : (s.modDie d f).hg = s.hg := rfl
@[simp] theorem State.modDie_ctxs (s : State) (d : Nat) (f : Die → Die) : (s.modDie d f).ctxs = s.ctxs := rfl
@[simp] theorem State.modDie_tasks (s : State) (d : Nat) (f : Die → Die) : (s.modDie d f).tasks = s.tasks := rfl
@[simp] theorem State.modDie_cores (s : State) (d : Nat) (f : Die → Die) : (s.modDie d f).cores = s.cores := rfl
@[simp] theorem State.modDie_saved (s : State) (d : Nat) (f : Die → Die) : (s.modDie d f).saved = s.saved := rfl
@[simp] theorem State.modDie_ops (s : State) (d : Nat) (f : Die → Die) : (s.modDie d f).ops = s.ops := rfl
@[simp] theorem State.modDie_nextOp (s : State) (d : Nat) (f : Die → Die) : (s.modDie d f).nextOp = s.nextOp := rfl
@[simp] theorem State.modDie_tags (s : State) (d : Nat) (f : Die → Die) : (s.modDie d f).tags = s.tags := rfl
@[simp] theorem State.modDie_nextTag (s : State) (d : Nat) (f : Die → Die) : (s.modDie d f).nextTag = s.nextTag := rfl
@[simp] theorem State.modDie_mem (s : State) (d : Nat) (f : Die → Die) : (s.modDie d f).mem = s.mem := rfl
@[simp] theorem State.modDie_tallies (s : State) (d : Nat) (f : Die → Die) : (s.modDie d f).tallies = s.tallies := rfl
@[simp] theorem State.modDie_tl (s : State) (d : Nat) (f : Die → Die) : (s.modDie d f).tl = s.tl := rfl
@[simp] theorem State.modDie_inflight (s : State) (d : Nat) (f : Die → Die) : (s.modDie d f).inflight = s.inflight := rfl
@[simp] theorem State.modDie_grants (s : State) (d : Nat) (f : Die → Die) : (s.modDie d f).grants = s.grants := rfl
@[simp] theorem State.modDie_slots (s : State) (d : Nat) (f : Die → Die) : (s.modDie d f).slots = s.slots := rfl
@[simp] theorem State.modDie_links (s : State) (d : Nat) (f : Die → Die) : (s.modDie d f).links = s.links := rfl
@[simp] theorem State.modDie_merge (s : State) (d : Nat) (f : Die → Die) : (s.modDie d f).merge = s.merge := rfl
@[simp] theorem State.modDie_mt (s : State) (d : Nat) (f : Die → Die) : (s.modDie d f).mt = s.mt := rfl
@[simp] theorem State.modDie_sm (s : State) (d : Nat) (f : Die → Die) : (s.modDie d f).sm = s.sm := rfl
@[simp] theorem State.modDie_sl (s : State) (d : Nat) (f : Die → Die) : (s.modDie d f).sl = s.sl := rfl
@[simp] theorem State.modDie_weir (s : State) (d : Nat) (f : Die → Die) : (s.modDie d f).weir = s.weir := rfl
@[simp] theorem State.modDie_log (s : State) (d : Nat) (f : Die → Die) : (s.modDie d f).log = s.log := rfl
@[simp] theorem State.modDie_fence (s : State) (d : Nat) (f : Die → Die) : (s.modDie d f).fence = s.fence := rfl
@[simp] theorem State.modDie_dg (s : State) (d : Nat) (f : Die → Die) : (s.modDie d f).dg = s.dg := rfl
@[simp] theorem State.modDie_loose (s : State) (d : Nat) (f : Die → Die) : (s.modDie d f).loose = s.loose := rfl
@[simp] theorem State.modDie_errs (s : State) (d : Nat) (f : Die → Die) : (s.modDie d f).errs = s.errs := rfl
@[simp] theorem State.modDie_touched (s : State) (d : Nat) (f : Die → Die) : (s.modDie d f).touched = s.touched := rfl

@[simp] theorem State.modTally_pending (s : State) (n : Nat) (f : Tally → Tally) : (s.modTally n f).pending = s.pending := rfl
@[simp] theorem State.modTally_freeCount (s : State) (n : Nat) (f : Tally → Tally) : (s.modTally n f).freeCount = s.freeCount := rfl
@[simp] theorem State.modTally_power (s : State) (n : Nat) (f : Tally → Tally) : (s.modTally n f).power = s.power := rfl
@[simp] theorem State.modTally_fuses (s : State) (n : Nat) (f : Tally → Tally) : (s.modTally n f).fuses = s.fuses := rfl
@[simp] theorem State.modTally_keeper (s : State) (n : Nat) (f : Tally → Tally) : (s.modTally n f).keeper = s.keeper := rfl
@[simp] theorem State.modTally_hg (s : State) (n : Nat) (f : Tally → Tally) : (s.modTally n f).hg = s.hg := rfl
@[simp] theorem State.modTally_ctxs (s : State) (n : Nat) (f : Tally → Tally) : (s.modTally n f).ctxs = s.ctxs := rfl
@[simp] theorem State.modTally_tasks (s : State) (n : Nat) (f : Tally → Tally) : (s.modTally n f).tasks = s.tasks := rfl
@[simp] theorem State.modTally_cores (s : State) (n : Nat) (f : Tally → Tally) : (s.modTally n f).cores = s.cores := rfl
@[simp] theorem State.modTally_saved (s : State) (n : Nat) (f : Tally → Tally) : (s.modTally n f).saved = s.saved := rfl
@[simp] theorem State.modTally_ops (s : State) (n : Nat) (f : Tally → Tally) : (s.modTally n f).ops = s.ops := rfl
@[simp] theorem State.modTally_nextOp (s : State) (n : Nat) (f : Tally → Tally) : (s.modTally n f).nextOp = s.nextOp := rfl
@[simp] theorem State.modTally_tags (s : State) (n : Nat) (f : Tally → Tally) : (s.modTally n f).tags = s.tags := rfl
@[simp] theorem State.modTally_nextTag (s : State) (n : Nat) (f : Tally → Tally) : (s.modTally n f).nextTag = s.nextTag := rfl
@[simp] theorem State.modTally_mem (s : State) (n : Nat) (f : Tally → Tally) : (s.modTally n f).mem = s.mem := rfl
@[simp] theorem State.modTally_tl (s : State) (n : Nat) (f : Tally → Tally) : (s.modTally n f).tl = s.tl := rfl
@[simp] theorem State.modTally_inflight (s : State) (n : Nat) (f : Tally → Tally) : (s.modTally n f).inflight = s.inflight := rfl
@[simp] theorem State.modTally_grants (s : State) (n : Nat) (f : Tally → Tally) : (s.modTally n f).grants = s.grants := rfl
@[simp] theorem State.modTally_slots (s : State) (n : Nat) (f : Tally → Tally) : (s.modTally n f).slots = s.slots := rfl
@[simp] theorem State.modTally_links (s : State) (n : Nat) (f : Tally → Tally) : (s.modTally n f).links = s.links := rfl
@[simp] theorem State.modTally_merge (s : State) (n : Nat) (f : Tally → Tally) : (s.modTally n f).merge = s.merge := rfl
@[simp] theorem State.modTally_mt (s : State) (n : Nat) (f : Tally → Tally) : (s.modTally n f).mt = s.mt := rfl
@[simp] theorem State.modTally_sm (s : State) (n : Nat) (f : Tally → Tally) : (s.modTally n f).sm = s.sm := rfl
@[simp] theorem State.modTally_sl (s : State) (n : Nat) (f : Tally → Tally) : (s.modTally n f).sl = s.sl := rfl
@[simp] theorem State.modTally_dies (s : State) (n : Nat) (f : Tally → Tally) : (s.modTally n f).dies = s.dies := rfl
@[simp] theorem State.modTally_weir (s : State) (n : Nat) (f : Tally → Tally) : (s.modTally n f).weir = s.weir := rfl
@[simp] theorem State.modTally_log (s : State) (n : Nat) (f : Tally → Tally) : (s.modTally n f).log = s.log := rfl
@[simp] theorem State.modTally_fence (s : State) (n : Nat) (f : Tally → Tally) : (s.modTally n f).fence = s.fence := rfl
@[simp] theorem State.modTally_dg (s : State) (n : Nat) (f : Tally → Tally) : (s.modTally n f).dg = s.dg := rfl
@[simp] theorem State.modTally_loose (s : State) (n : Nat) (f : Tally → Tally) : (s.modTally n f).loose = s.loose := rfl
@[simp] theorem State.modTally_errs (s : State) (n : Nat) (f : Tally → Tally) : (s.modTally n f).errs = s.errs := rfl
@[simp] theorem State.modTally_touched (s : State) (n : Nat) (f : Tally → Tally) : (s.modTally n f).touched = s.touched := rfl

@[simp] theorem State.modSlot_pending (s : State) (n : Nat) (f : CheckSlot → CheckSlot) : (s.modSlot n f).pending = s.pending := rfl
@[simp] theorem State.modSlot_freeCount (s : State) (n : Nat) (f : CheckSlot → CheckSlot) : (s.modSlot n f).freeCount = s.freeCount := rfl
@[simp] theorem State.modSlot_power (s : State) (n : Nat) (f : CheckSlot → CheckSlot) : (s.modSlot n f).power = s.power := rfl
@[simp] theorem State.modSlot_fuses (s : State) (n : Nat) (f : CheckSlot → CheckSlot) : (s.modSlot n f).fuses = s.fuses := rfl
@[simp] theorem State.modSlot_keeper (s : State) (n : Nat) (f : CheckSlot → CheckSlot) : (s.modSlot n f).keeper = s.keeper := rfl
@[simp] theorem State.modSlot_hg (s : State) (n : Nat) (f : CheckSlot → CheckSlot) : (s.modSlot n f).hg = s.hg := rfl
@[simp] theorem State.modSlot_ctxs (s : State) (n : Nat) (f : CheckSlot → CheckSlot) : (s.modSlot n f).ctxs = s.ctxs := rfl
@[simp] theorem State.modSlot_tasks (s : State) (n : Nat) (f : CheckSlot → CheckSlot) : (s.modSlot n f).tasks = s.tasks := rfl
@[simp] theorem State.modSlot_cores (s : State) (n : Nat) (f : CheckSlot → CheckSlot) : (s.modSlot n f).cores = s.cores := rfl
@[simp] theorem State.modSlot_saved (s : State) (n : Nat) (f : CheckSlot → CheckSlot) : (s.modSlot n f).saved = s.saved := rfl
@[simp] theorem State.modSlot_ops (s : State) (n : Nat) (f : CheckSlot → CheckSlot) : (s.modSlot n f).ops = s.ops := rfl
@[simp] theorem State.modSlot_nextOp (s : State) (n : Nat) (f : CheckSlot → CheckSlot) : (s.modSlot n f).nextOp = s.nextOp := rfl
@[simp] theorem State.modSlot_tags (s : State) (n : Nat) (f : CheckSlot → CheckSlot) : (s.modSlot n f).tags = s.tags := rfl
@[simp] theorem State.modSlot_nextTag (s : State) (n : Nat) (f : CheckSlot → CheckSlot) : (s.modSlot n f).nextTag = s.nextTag := rfl
@[simp] theorem State.modSlot_mem (s : State) (n : Nat) (f : CheckSlot → CheckSlot) : (s.modSlot n f).mem = s.mem := rfl
@[simp] theorem State.modSlot_tallies (s : State) (n : Nat) (f : CheckSlot → CheckSlot) : (s.modSlot n f).tallies = s.tallies := rfl
@[simp] theorem State.modSlot_tl (s : State) (n : Nat) (f : CheckSlot → CheckSlot) : (s.modSlot n f).tl = s.tl := rfl
@[simp] theorem State.modSlot_inflight (s : State) (n : Nat) (f : CheckSlot → CheckSlot) : (s.modSlot n f).inflight = s.inflight := rfl
@[simp] theorem State.modSlot_grants (s : State) (n : Nat) (f : CheckSlot → CheckSlot) : (s.modSlot n f).grants = s.grants := rfl
@[simp] theorem State.modSlot_links (s : State) (n : Nat) (f : CheckSlot → CheckSlot) : (s.modSlot n f).links = s.links := rfl
@[simp] theorem State.modSlot_merge (s : State) (n : Nat) (f : CheckSlot → CheckSlot) : (s.modSlot n f).merge = s.merge := rfl
@[simp] theorem State.modSlot_mt (s : State) (n : Nat) (f : CheckSlot → CheckSlot) : (s.modSlot n f).mt = s.mt := rfl
@[simp] theorem State.modSlot_sm (s : State) (n : Nat) (f : CheckSlot → CheckSlot) : (s.modSlot n f).sm = s.sm := rfl
@[simp] theorem State.modSlot_sl (s : State) (n : Nat) (f : CheckSlot → CheckSlot) : (s.modSlot n f).sl = s.sl := rfl
@[simp] theorem State.modSlot_dies (s : State) (n : Nat) (f : CheckSlot → CheckSlot) : (s.modSlot n f).dies = s.dies := rfl
@[simp] theorem State.modSlot_weir (s : State) (n : Nat) (f : CheckSlot → CheckSlot) : (s.modSlot n f).weir = s.weir := rfl
@[simp] theorem State.modSlot_log (s : State) (n : Nat) (f : CheckSlot → CheckSlot) : (s.modSlot n f).log = s.log := rfl
@[simp] theorem State.modSlot_fence (s : State) (n : Nat) (f : CheckSlot → CheckSlot) : (s.modSlot n f).fence = s.fence := rfl
@[simp] theorem State.modSlot_dg (s : State) (n : Nat) (f : CheckSlot → CheckSlot) : (s.modSlot n f).dg = s.dg := rfl
@[simp] theorem State.modSlot_loose (s : State) (n : Nat) (f : CheckSlot → CheckSlot) : (s.modSlot n f).loose = s.loose := rfl
@[simp] theorem State.modSlot_errs (s : State) (n : Nat) (f : CheckSlot → CheckSlot) : (s.modSlot n f).errs = s.errs := rfl
@[simp] theorem State.modSlot_touched (s : State) (n : Nat) (f : CheckSlot → CheckSlot) : (s.modSlot n f).touched = s.touched := rfl

@[simp] theorem State.modPort_pending (s : State) (p : Nat) (f : Port → Port) : (s.modPort p f).pending = s.pending := rfl
@[simp] theorem State.modPort_freeCount (s : State) (p : Nat) (f : Port → Port) : (s.modPort p f).freeCount = s.freeCount := rfl
@[simp] theorem State.modPort_power (s : State) (p : Nat) (f : Port → Port) : (s.modPort p f).power = s.power := rfl
@[simp] theorem State.modPort_fuses (s : State) (p : Nat) (f : Port → Port) : (s.modPort p f).fuses = s.fuses := rfl
@[simp] theorem State.modPort_keeper (s : State) (p : Nat) (f : Port → Port) : (s.modPort p f).keeper = s.keeper := rfl
@[simp] theorem State.modPort_hg (s : State) (p : Nat) (f : Port → Port) : (s.modPort p f).hg = s.hg := rfl
@[simp] theorem State.modPort_ctxs (s : State) (p : Nat) (f : Port → Port) : (s.modPort p f).ctxs = s.ctxs := rfl
@[simp] theorem State.modPort_tasks (s : State) (p : Nat) (f : Port → Port) : (s.modPort p f).tasks = s.tasks := rfl
@[simp] theorem State.modPort_cores (s : State) (p : Nat) (f : Port → Port) : (s.modPort p f).cores = s.cores := rfl
@[simp] theorem State.modPort_saved (s : State) (p : Nat) (f : Port → Port) : (s.modPort p f).saved = s.saved := rfl
@[simp] theorem State.modPort_ops (s : State) (p : Nat) (f : Port → Port) : (s.modPort p f).ops = s.ops := rfl
@[simp] theorem State.modPort_nextOp (s : State) (p : Nat) (f : Port → Port) : (s.modPort p f).nextOp = s.nextOp := rfl
@[simp] theorem State.modPort_tags (s : State) (p : Nat) (f : Port → Port) : (s.modPort p f).tags = s.tags := rfl
@[simp] theorem State.modPort_nextTag (s : State) (p : Nat) (f : Port → Port) : (s.modPort p f).nextTag = s.nextTag := rfl
@[simp] theorem State.modPort_mem (s : State) (p : Nat) (f : Port → Port) : (s.modPort p f).mem = s.mem := rfl
@[simp] theorem State.modPort_tallies (s : State) (p : Nat) (f : Port → Port) : (s.modPort p f).tallies = s.tallies := rfl
@[simp] theorem State.modPort_tl (s : State) (p : Nat) (f : Port → Port) : (s.modPort p f).tl = s.tl := rfl
@[simp] theorem State.modPort_inflight (s : State) (p : Nat) (f : Port → Port) : (s.modPort p f).inflight = s.inflight := rfl
@[simp] theorem State.modPort_grants (s : State) (p : Nat) (f : Port → Port) : (s.modPort p f).grants = s.grants := rfl
@[simp] theorem State.modPort_slots (s : State) (p : Nat) (f : Port → Port) : (s.modPort p f).slots = s.slots := rfl
@[simp] theorem State.modPort_merge (s : State) (p : Nat) (f : Port → Port) : (s.modPort p f).merge = s.merge := rfl
@[simp] theorem State.modPort_mt (s : State) (p : Nat) (f : Port → Port) : (s.modPort p f).mt = s.mt := rfl
@[simp] theorem State.modPort_sm (s : State) (p : Nat) (f : Port → Port) : (s.modPort p f).sm = s.sm := rfl
@[simp] theorem State.modPort_sl (s : State) (p : Nat) (f : Port → Port) : (s.modPort p f).sl = s.sl := rfl
@[simp] theorem State.modPort_dies (s : State) (p : Nat) (f : Port → Port) : (s.modPort p f).dies = s.dies := rfl
@[simp] theorem State.modPort_weir (s : State) (p : Nat) (f : Port → Port) : (s.modPort p f).weir = s.weir := rfl
@[simp] theorem State.modPort_log (s : State) (p : Nat) (f : Port → Port) : (s.modPort p f).log = s.log := rfl
@[simp] theorem State.modPort_fence (s : State) (p : Nat) (f : Port → Port) : (s.modPort p f).fence = s.fence := rfl
@[simp] theorem State.modPort_dg (s : State) (p : Nat) (f : Port → Port) : (s.modPort p f).dg = s.dg := rfl
@[simp] theorem State.modPort_loose (s : State) (p : Nat) (f : Port → Port) : (s.modPort p f).loose = s.loose := rfl
@[simp] theorem State.modPort_errs (s : State) (p : Nat) (f : Port → Port) : (s.modPort p f).errs = s.errs := rfl
@[simp] theorem State.modPort_touched (s : State) (p : Nat) (f : Port → Port) : (s.modPort p f).touched = s.touched := rfl

@[simp] theorem State.modMt_pending (s : State) (f : MemTier → MemTier) : (s.modMt f).pending = s.pending := rfl
@[simp] theorem State.modMt_freeCount (s : State) (f : MemTier → MemTier) : (s.modMt f).freeCount = s.freeCount := rfl
@[simp] theorem State.modMt_power (s : State) (f : MemTier → MemTier) : (s.modMt f).power = s.power := rfl
@[simp] theorem State.modMt_fuses (s : State) (f : MemTier → MemTier) : (s.modMt f).fuses = s.fuses := rfl
@[simp] theorem State.modMt_keeper (s : State) (f : MemTier → MemTier) : (s.modMt f).keeper = s.keeper := rfl
@[simp] theorem State.modMt_hg (s : State) (f : MemTier → MemTier) : (s.modMt f).hg = s.hg := rfl
@[simp] theorem State.modMt_ctxs (s : State) (f : MemTier → MemTier) : (s.modMt f).ctxs = s.ctxs := rfl
@[simp] theorem State.modMt_tasks (s : State) (f : MemTier → MemTier) : (s.modMt f).tasks = s.tasks := rfl
@[simp] theorem State.modMt_cores (s : State) (f : MemTier → MemTier) : (s.modMt f).cores = s.cores := rfl
@[simp] theorem State.modMt_saved (s : State) (f : MemTier → MemTier) : (s.modMt f).saved = s.saved := rfl
@[simp] theorem State.modMt_ops (s : State) (f : MemTier → MemTier) : (s.modMt f).ops = s.ops := rfl
@[simp] theorem State.modMt_nextOp (s : State) (f : MemTier → MemTier) : (s.modMt f).nextOp = s.nextOp := rfl
@[simp] theorem State.modMt_tags (s : State) (f : MemTier → MemTier) : (s.modMt f).tags = s.tags := rfl
@[simp] theorem State.modMt_nextTag (s : State) (f : MemTier → MemTier) : (s.modMt f).nextTag = s.nextTag := rfl
@[simp] theorem State.modMt_mem (s : State) (f : MemTier → MemTier) : (s.modMt f).mem = s.mem := rfl
@[simp] theorem State.modMt_tallies (s : State) (f : MemTier → MemTier) : (s.modMt f).tallies = s.tallies := rfl
@[simp] theorem State.modMt_tl (s : State) (f : MemTier → MemTier) : (s.modMt f).tl = s.tl := rfl
@[simp] theorem State.modMt_inflight (s : State) (f : MemTier → MemTier) : (s.modMt f).inflight = s.inflight := rfl
@[simp] theorem State.modMt_grants (s : State) (f : MemTier → MemTier) : (s.modMt f).grants = s.grants := rfl
@[simp] theorem State.modMt_slots (s : State) (f : MemTier → MemTier) : (s.modMt f).slots = s.slots := rfl
@[simp] theorem State.modMt_links (s : State) (f : MemTier → MemTier) : (s.modMt f).links = s.links := rfl
@[simp] theorem State.modMt_merge (s : State) (f : MemTier → MemTier) : (s.modMt f).merge = s.merge := rfl
@[simp] theorem State.modMt_sm (s : State) (f : MemTier → MemTier) : (s.modMt f).sm = s.sm := rfl
@[simp] theorem State.modMt_sl (s : State) (f : MemTier → MemTier) : (s.modMt f).sl = s.sl := rfl
@[simp] theorem State.modMt_dies (s : State) (f : MemTier → MemTier) : (s.modMt f).dies = s.dies := rfl
@[simp] theorem State.modMt_weir (s : State) (f : MemTier → MemTier) : (s.modMt f).weir = s.weir := rfl
@[simp] theorem State.modMt_log (s : State) (f : MemTier → MemTier) : (s.modMt f).log = s.log := rfl
@[simp] theorem State.modMt_fence (s : State) (f : MemTier → MemTier) : (s.modMt f).fence = s.fence := rfl
@[simp] theorem State.modMt_dg (s : State) (f : MemTier → MemTier) : (s.modMt f).dg = s.dg := rfl
@[simp] theorem State.modMt_loose (s : State) (f : MemTier → MemTier) : (s.modMt f).loose = s.loose := rfl
@[simp] theorem State.modMt_errs (s : State) (f : MemTier → MemTier) : (s.modMt f).errs = s.errs := rfl
@[simp] theorem State.modMt_touched (s : State) (f : MemTier → MemTier) : (s.modMt f).touched = s.touched := rfl

@[simp] theorem State.modIngest_pending (s : State) (k : Nat) (f : Ingest → Ingest) : (s.modIngest k f).pending = s.pending := rfl
@[simp] theorem State.modIngest_freeCount (s : State) (k : Nat) (f : Ingest → Ingest) : (s.modIngest k f).freeCount = s.freeCount := rfl
@[simp] theorem State.modIngest_power (s : State) (k : Nat) (f : Ingest → Ingest) : (s.modIngest k f).power = s.power := rfl
@[simp] theorem State.modIngest_fuses (s : State) (k : Nat) (f : Ingest → Ingest) : (s.modIngest k f).fuses = s.fuses := rfl
@[simp] theorem State.modIngest_keeper (s : State) (k : Nat) (f : Ingest → Ingest) : (s.modIngest k f).keeper = s.keeper := rfl
@[simp] theorem State.modIngest_hg (s : State) (k : Nat) (f : Ingest → Ingest) : (s.modIngest k f).hg = s.hg := rfl
@[simp] theorem State.modIngest_ctxs (s : State) (k : Nat) (f : Ingest → Ingest) : (s.modIngest k f).ctxs = s.ctxs := rfl
@[simp] theorem State.modIngest_tasks (s : State) (k : Nat) (f : Ingest → Ingest) : (s.modIngest k f).tasks = s.tasks := rfl
@[simp] theorem State.modIngest_cores (s : State) (k : Nat) (f : Ingest → Ingest) : (s.modIngest k f).cores = s.cores := rfl
@[simp] theorem State.modIngest_saved (s : State) (k : Nat) (f : Ingest → Ingest) : (s.modIngest k f).saved = s.saved := rfl
@[simp] theorem State.modIngest_ops (s : State) (k : Nat) (f : Ingest → Ingest) : (s.modIngest k f).ops = s.ops := rfl
@[simp] theorem State.modIngest_nextOp (s : State) (k : Nat) (f : Ingest → Ingest) : (s.modIngest k f).nextOp = s.nextOp := rfl
@[simp] theorem State.modIngest_tags (s : State) (k : Nat) (f : Ingest → Ingest) : (s.modIngest k f).tags = s.tags := rfl
@[simp] theorem State.modIngest_nextTag (s : State) (k : Nat) (f : Ingest → Ingest) : (s.modIngest k f).nextTag = s.nextTag := rfl
@[simp] theorem State.modIngest_mem (s : State) (k : Nat) (f : Ingest → Ingest) : (s.modIngest k f).mem = s.mem := rfl
@[simp] theorem State.modIngest_tallies (s : State) (k : Nat) (f : Ingest → Ingest) : (s.modIngest k f).tallies = s.tallies := rfl
@[simp] theorem State.modIngest_tl (s : State) (k : Nat) (f : Ingest → Ingest) : (s.modIngest k f).tl = s.tl := rfl
@[simp] theorem State.modIngest_inflight (s : State) (k : Nat) (f : Ingest → Ingest) : (s.modIngest k f).inflight = s.inflight := rfl
@[simp] theorem State.modIngest_grants (s : State) (k : Nat) (f : Ingest → Ingest) : (s.modIngest k f).grants = s.grants := rfl
@[simp] theorem State.modIngest_slots (s : State) (k : Nat) (f : Ingest → Ingest) : (s.modIngest k f).slots = s.slots := rfl
@[simp] theorem State.modIngest_links (s : State) (k : Nat) (f : Ingest → Ingest) : (s.modIngest k f).links = s.links := rfl
@[simp] theorem State.modIngest_merge (s : State) (k : Nat) (f : Ingest → Ingest) : (s.modIngest k f).merge = s.merge := rfl
@[simp] theorem State.modIngest_sm (s : State) (k : Nat) (f : Ingest → Ingest) : (s.modIngest k f).sm = s.sm := rfl
@[simp] theorem State.modIngest_sl (s : State) (k : Nat) (f : Ingest → Ingest) : (s.modIngest k f).sl = s.sl := rfl
@[simp] theorem State.modIngest_dies (s : State) (k : Nat) (f : Ingest → Ingest) : (s.modIngest k f).dies = s.dies := rfl
@[simp] theorem State.modIngest_weir (s : State) (k : Nat) (f : Ingest → Ingest) : (s.modIngest k f).weir = s.weir := rfl
@[simp] theorem State.modIngest_log (s : State) (k : Nat) (f : Ingest → Ingest) : (s.modIngest k f).log = s.log := rfl
@[simp] theorem State.modIngest_fence (s : State) (k : Nat) (f : Ingest → Ingest) : (s.modIngest k f).fence = s.fence := rfl
@[simp] theorem State.modIngest_dg (s : State) (k : Nat) (f : Ingest → Ingest) : (s.modIngest k f).dg = s.dg := rfl
@[simp] theorem State.modIngest_loose (s : State) (k : Nat) (f : Ingest → Ingest) : (s.modIngest k f).loose = s.loose := rfl
@[simp] theorem State.modIngest_errs (s : State) (k : Nat) (f : Ingest → Ingest) : (s.modIngest k f).errs = s.errs := rfl
@[simp] theorem State.modIngest_touched (s : State) (k : Nat) (f : Ingest → Ingest) : (s.modIngest k f).touched = s.touched := rfl

@[simp] theorem State.modPower_pending (s : State) (f : Power → Power) : (s.modPower f).pending = s.pending := rfl
@[simp] theorem State.modPower_freeCount (s : State) (f : Power → Power) : (s.modPower f).freeCount = s.freeCount := rfl
@[simp] theorem State.modPower_fuses (s : State) (f : Power → Power) : (s.modPower f).fuses = s.fuses := rfl
@[simp] theorem State.modPower_keeper (s : State) (f : Power → Power) : (s.modPower f).keeper = s.keeper := rfl
@[simp] theorem State.modPower_hg (s : State) (f : Power → Power) : (s.modPower f).hg = s.hg := rfl
@[simp] theorem State.modPower_ctxs (s : State) (f : Power → Power) : (s.modPower f).ctxs = s.ctxs := rfl
@[simp] theorem State.modPower_tasks (s : State) (f : Power → Power) : (s.modPower f).tasks = s.tasks := rfl
@[simp] theorem State.modPower_cores (s : State) (f : Power → Power) : (s.modPower f).cores = s.cores := rfl
@[simp] theorem State.modPower_saved (s : State) (f : Power → Power) : (s.modPower f).saved = s.saved := rfl
@[simp] theorem State.modPower_ops (s : State) (f : Power → Power) : (s.modPower f).ops = s.ops := rfl
@[simp] theorem State.modPower_nextOp (s : State) (f : Power → Power) : (s.modPower f).nextOp = s.nextOp := rfl
@[simp] theorem State.modPower_tags (s : State) (f : Power → Power) : (s.modPower f).tags = s.tags := rfl
@[simp] theorem State.modPower_nextTag (s : State) (f : Power → Power) : (s.modPower f).nextTag = s.nextTag := rfl
@[simp] theorem State.modPower_mem (s : State) (f : Power → Power) : (s.modPower f).mem = s.mem := rfl
@[simp] theorem State.modPower_tallies (s : State) (f : Power → Power) : (s.modPower f).tallies = s.tallies := rfl
@[simp] theorem State.modPower_tl (s : State) (f : Power → Power) : (s.modPower f).tl = s.tl := rfl
@[simp] theorem State.modPower_inflight (s : State) (f : Power → Power) : (s.modPower f).inflight = s.inflight := rfl
@[simp] theorem State.modPower_grants (s : State) (f : Power → Power) : (s.modPower f).grants = s.grants := rfl
@[simp] theorem State.modPower_slots (s : State) (f : Power → Power) : (s.modPower f).slots = s.slots := rfl
@[simp] theorem State.modPower_links (s : State) (f : Power → Power) : (s.modPower f).links = s.links := rfl
@[simp] theorem State.modPower_merge (s : State) (f : Power → Power) : (s.modPower f).merge = s.merge := rfl
@[simp] theorem State.modPower_mt (s : State) (f : Power → Power) : (s.modPower f).mt = s.mt := rfl
@[simp] theorem State.modPower_sm (s : State) (f : Power → Power) : (s.modPower f).sm = s.sm := rfl
@[simp] theorem State.modPower_sl (s : State) (f : Power → Power) : (s.modPower f).sl = s.sl := rfl
@[simp] theorem State.modPower_dies (s : State) (f : Power → Power) : (s.modPower f).dies = s.dies := rfl
@[simp] theorem State.modPower_weir (s : State) (f : Power → Power) : (s.modPower f).weir = s.weir := rfl
@[simp] theorem State.modPower_log (s : State) (f : Power → Power) : (s.modPower f).log = s.log := rfl
@[simp] theorem State.modPower_fence (s : State) (f : Power → Power) : (s.modPower f).fence = s.fence := rfl
@[simp] theorem State.modPower_dg (s : State) (f : Power → Power) : (s.modPower f).dg = s.dg := rfl
@[simp] theorem State.modPower_loose (s : State) (f : Power → Power) : (s.modPower f).loose = s.loose := rfl
@[simp] theorem State.modPower_errs (s : State) (f : Power → Power) : (s.modPower f).errs = s.errs := rfl
@[simp] theorem State.modPower_touched (s : State) (f : Power → Power) : (s.modPower f).touched = s.touched := rfl

@[simp] theorem State.modKeeper_pending (s : State) (f : Keeper → Keeper) : (s.modKeeper f).pending = s.pending := rfl
@[simp] theorem State.modKeeper_freeCount (s : State) (f : Keeper → Keeper) : (s.modKeeper f).freeCount = s.freeCount := rfl
@[simp] theorem State.modKeeper_power (s : State) (f : Keeper → Keeper) : (s.modKeeper f).power = s.power := rfl
@[simp] theorem State.modKeeper_fuses (s : State) (f : Keeper → Keeper) : (s.modKeeper f).fuses = s.fuses := rfl
@[simp] theorem State.modKeeper_hg (s : State) (f : Keeper → Keeper) : (s.modKeeper f).hg = s.hg := rfl
@[simp] theorem State.modKeeper_ctxs (s : State) (f : Keeper → Keeper) : (s.modKeeper f).ctxs = s.ctxs := rfl
@[simp] theorem State.modKeeper_tasks (s : State) (f : Keeper → Keeper) : (s.modKeeper f).tasks = s.tasks := rfl
@[simp] theorem State.modKeeper_cores (s : State) (f : Keeper → Keeper) : (s.modKeeper f).cores = s.cores := rfl
@[simp] theorem State.modKeeper_saved (s : State) (f : Keeper → Keeper) : (s.modKeeper f).saved = s.saved := rfl
@[simp] theorem State.modKeeper_ops (s : State) (f : Keeper → Keeper) : (s.modKeeper f).ops = s.ops := rfl
@[simp] theorem State.modKeeper_nextOp (s : State) (f : Keeper → Keeper) : (s.modKeeper f).nextOp = s.nextOp := rfl
@[simp] theorem State.modKeeper_tags (s : State) (f : Keeper → Keeper) : (s.modKeeper f).tags = s.tags := rfl
@[simp] theorem State.modKeeper_nextTag (s : State) (f : Keeper → Keeper) : (s.modKeeper f).nextTag = s.nextTag := rfl
@[simp] theorem State.modKeeper_mem (s : State) (f : Keeper → Keeper) : (s.modKeeper f).mem = s.mem := rfl
@[simp] theorem State.modKeeper_tallies (s : State) (f : Keeper → Keeper) : (s.modKeeper f).tallies = s.tallies := rfl
@[simp] theorem State.modKeeper_tl (s : State) (f : Keeper → Keeper) : (s.modKeeper f).tl = s.tl := rfl
@[simp] theorem State.modKeeper_inflight (s : State) (f : Keeper → Keeper) : (s.modKeeper f).inflight = s.inflight := rfl
@[simp] theorem State.modKeeper_grants (s : State) (f : Keeper → Keeper) : (s.modKeeper f).grants = s.grants := rfl
@[simp] theorem State.modKeeper_slots (s : State) (f : Keeper → Keeper) : (s.modKeeper f).slots = s.slots := rfl
@[simp] theorem State.modKeeper_links (s : State) (f : Keeper → Keeper) : (s.modKeeper f).links = s.links := rfl
@[simp] theorem State.modKeeper_merge (s : State) (f : Keeper → Keeper) : (s.modKeeper f).merge = s.merge := rfl
@[simp] theorem State.modKeeper_mt (s : State) (f : Keeper → Keeper) : (s.modKeeper f).mt = s.mt := rfl
@[simp] theorem State.modKeeper_sm (s : State) (f : Keeper → Keeper) : (s.modKeeper f).sm = s.sm := rfl
@[simp] theorem State.modKeeper_sl (s : State) (f : Keeper → Keeper) : (s.modKeeper f).sl = s.sl := rfl
@[simp] theorem State.modKeeper_dies (s : State) (f : Keeper → Keeper) : (s.modKeeper f).dies = s.dies := rfl
@[simp] theorem State.modKeeper_weir (s : State) (f : Keeper → Keeper) : (s.modKeeper f).weir = s.weir := rfl
@[simp] theorem State.modKeeper_log (s : State) (f : Keeper → Keeper) : (s.modKeeper f).log = s.log := rfl
@[simp] theorem State.modKeeper_fence (s : State) (f : Keeper → Keeper) : (s.modKeeper f).fence = s.fence := rfl
@[simp] theorem State.modKeeper_dg (s : State) (f : Keeper → Keeper) : (s.modKeeper f).dg = s.dg := rfl
@[simp] theorem State.modKeeper_loose (s : State) (f : Keeper → Keeper) : (s.modKeeper f).loose = s.loose := rfl
@[simp] theorem State.modKeeper_errs (s : State) (f : Keeper → Keeper) : (s.modKeeper f).errs = s.errs := rfl
@[simp] theorem State.modKeeper_touched (s : State) (f : Keeper → Keeper) : (s.modKeeper f).touched = s.touched := rfl

@[simp] theorem State.modWeir_pending (s : State) (f : Weir → Weir) : (s.modWeir f).pending = s.pending := rfl
@[simp] theorem State.modWeir_freeCount (s : State) (f : Weir → Weir) : (s.modWeir f).freeCount = s.freeCount := rfl
@[simp] theorem State.modWeir_power (s : State) (f : Weir → Weir) : (s.modWeir f).power = s.power := rfl
@[simp] theorem State.modWeir_fuses (s : State) (f : Weir → Weir) : (s.modWeir f).fuses = s.fuses := rfl
@[simp] theorem State.modWeir_keeper (s : State) (f : Weir → Weir) : (s.modWeir f).keeper = s.keeper := rfl
@[simp] theorem State.modWeir_hg (s : State) (f : Weir → Weir) : (s.modWeir f).hg = s.hg := rfl
@[simp] theorem State.modWeir_ctxs (s : State) (f : Weir → Weir) : (s.modWeir f).ctxs = s.ctxs := rfl
@[simp] theorem State.modWeir_tasks (s : State) (f : Weir → Weir) : (s.modWeir f).tasks = s.tasks := rfl
@[simp] theorem State.modWeir_cores (s : State) (f : Weir → Weir) : (s.modWeir f).cores = s.cores := rfl
@[simp] theorem State.modWeir_saved (s : State) (f : Weir → Weir) : (s.modWeir f).saved = s.saved := rfl
@[simp] theorem State.modWeir_ops (s : State) (f : Weir → Weir) : (s.modWeir f).ops = s.ops := rfl
@[simp] theorem State.modWeir_nextOp (s : State) (f : Weir → Weir) : (s.modWeir f).nextOp = s.nextOp := rfl
@[simp] theorem State.modWeir_tags (s : State) (f : Weir → Weir) : (s.modWeir f).tags = s.tags := rfl
@[simp] theorem State.modWeir_nextTag (s : State) (f : Weir → Weir) : (s.modWeir f).nextTag = s.nextTag := rfl
@[simp] theorem State.modWeir_mem (s : State) (f : Weir → Weir) : (s.modWeir f).mem = s.mem := rfl
@[simp] theorem State.modWeir_tallies (s : State) (f : Weir → Weir) : (s.modWeir f).tallies = s.tallies := rfl
@[simp] theorem State.modWeir_tl (s : State) (f : Weir → Weir) : (s.modWeir f).tl = s.tl := rfl
@[simp] theorem State.modWeir_inflight (s : State) (f : Weir → Weir) : (s.modWeir f).inflight = s.inflight := rfl
@[simp] theorem State.modWeir_grants (s : State) (f : Weir → Weir) : (s.modWeir f).grants = s.grants := rfl
@[simp] theorem State.modWeir_slots (s : State) (f : Weir → Weir) : (s.modWeir f).slots = s.slots := rfl
@[simp] theorem State.modWeir_links (s : State) (f : Weir → Weir) : (s.modWeir f).links = s.links := rfl
@[simp] theorem State.modWeir_merge (s : State) (f : Weir → Weir) : (s.modWeir f).merge = s.merge := rfl
@[simp] theorem State.modWeir_mt (s : State) (f : Weir → Weir) : (s.modWeir f).mt = s.mt := rfl
@[simp] theorem State.modWeir_sm (s : State) (f : Weir → Weir) : (s.modWeir f).sm = s.sm := rfl
@[simp] theorem State.modWeir_sl (s : State) (f : Weir → Weir) : (s.modWeir f).sl = s.sl := rfl
@[simp] theorem State.modWeir_dies (s : State) (f : Weir → Weir) : (s.modWeir f).dies = s.dies := rfl
@[simp] theorem State.modWeir_log (s : State) (f : Weir → Weir) : (s.modWeir f).log = s.log := rfl
@[simp] theorem State.modWeir_fence (s : State) (f : Weir → Weir) : (s.modWeir f).fence = s.fence := rfl
@[simp] theorem State.modWeir_dg (s : State) (f : Weir → Weir) : (s.modWeir f).dg = s.dg := rfl
@[simp] theorem State.modWeir_loose (s : State) (f : Weir → Weir) : (s.modWeir f).loose = s.loose := rfl
@[simp] theorem State.modWeir_errs (s : State) (f : Weir → Weir) : (s.modWeir f).errs = s.errs := rfl
@[simp] theorem State.modWeir_touched (s : State) (f : Weir → Weir) : (s.modWeir f).touched = s.touched := rfl

end Sys2Proof.Machine
end

