-- ==== Sys2Proof/Laws/Operands.lean ====
section
/-! SUPPORT. How an instruction issues, said once for each shape of Machine/Operands.lean, and what the register
accessors read after a write. -/

namespace Sys2Proof.Machine

open Sys2Proof

/-! ### Registers of a task -/

@[simp] theorem Task.sreg_setS_same (t : Task) (n : Fin 64) (v : Word) : (t.setS n v).sreg n = v := by
  simp [Task.sreg, Task.setS]

@[simp] theorem Task.sreg_setS_other (t : Task) {m n : Fin 64} (h : m ≠ n) (v : Word) :
    (t.setS n v).sreg m = t.sreg m := by
  have : m.val ≠ n.val := fun e => h (Fin.ext e)
  simp [Task.sreg, Task.setS, this]

@[simp] theorem Task.desc_setDesc_same (t : Task) (n : Fin 16) (v : Rec) : (t.setDesc n v).desc n = v := by
  simp [Task.desc, Task.setDesc]

@[simp] theorem Task.desc_setDesc_other (t : Task) {m n : Fin 16} (h : m ≠ n) (v : Rec) :
    (t.setDesc n v).desc m = t.desc m := by
  have : m.val ≠ n.val := fun e => h (Fin.ext e)
  simp [Task.desc, Task.setDesc, this]

@[simp] theorem Task.sreg_advance (t : Task) (n : Fin 64) : t.advance.sreg n = t.sreg n := rfl
@[simp] theorem Task.lane_advance (t : Task) (n : Fin 32) (l : Nat) : t.advance.lane n l = t.lane n l := rfl
@[simp] theorem Task.pred_advance (t : Task) (p : Fin 8) : t.advance.pred p = t.pred p := rfl
@[simp] theorem Task.desc_advance (t : Task) (d : Fin 16) : t.advance.desc d = t.desc d := rfl
@[simp] theorem Task.elem_advance (t : Task) (a r c : Nat) : t.advance.elem a r c = t.elem a r c := rfl

theorem Task.lanes_le (t : Task) : t.lanes ≤ 64 := by unfold Task.lanes; split <;> decide

theorem Task.lanes_pos (t : Task) : 0 < t.lanes := by unfold Task.lanes; split <;> decide

theorem Task.lanes_of_width {t u : Task} (h : t.width = u.width) : t.lanes = u.lanes := by unfold Task.lanes; rw [h]

/-- One lane's place after lanes 0 to n - 1 of register r were written where `on` admits them. -/
theorem putLanes_get (v : Tab W32) (r : Nat) (on : Nat → Bool) (f : Nat → W32) (n k : Nat) :
    (putLanes v r on f n).get 0 k =
      if 64 * r ≤ k ∧ k < 64 * r + n ∧ on (k - 64 * r) = true then f (k - 64 * r) else v.get 0 k := by
  induction n with
  | zero =>
    have h : ¬ (64 * r ≤ k ∧ k < 64 * r + 0 ∧ on (k - 64 * r) = true) := by omega
    rw [if_neg h]; rfl
  | succ n ih =>
    unfold putLanes
    by_cases hk : k = 64 * r + n
    · subst hk
      have e : 64 * r + n - 64 * r = n := by omega
      by_cases hon : on n = true
      · rw [if_pos hon, Tab.get_put_same, e, if_pos ⟨by omega, by omega, hon⟩]
      · rw [if_neg hon, ih, e, if_neg (by omega), if_neg (fun h => hon h.2.2)]
    · have hiff : (64 * r ≤ k ∧ k < 64 * r + (n + 1) ∧ on (k - 64 * r) = true) ↔
          (64 * r ≤ k ∧ k < 64 * r + n ∧ on (k - 64 * r) = true) := by
        constructor
        · rintro ⟨a, b, c⟩; exact ⟨a, by omega, c⟩
        · rintro ⟨a, b, c⟩; exact ⟨a, by omega, c⟩
      simp only [hiff]
      by_cases hon : on n = true
      · rw [if_pos hon, Tab.get_put_other 0 _ _ hk, ih]
      · rw [if_neg hon, ih]

@[simp] theorem Task.lanes_setVec (t : Task) (g : Guard) (n : Fin 32) (f : Nat → W32) :
    (t.setVec g n f).lanes = t.lanes := rfl

theorem Task.vregs_setVec (t : Task) (g : Guard) (n : Fin 32) (f : Nat → W32) :
    (t.setVec g n f).vregs = putLanes t.vregs n.val (t.guardBit g) f t.lanes := rfl

theorem Task.lane_setVec_same (t : Task) (g : Guard) (n : Fin 32) (f : Nat → W32) (l : Nat) :
    (t.setVec g n f).lane n l = if t.guardBit g l then f l else t.lane n l := by
  have hL := t.lanes_le
  by_cases hl : l < t.lanes
  · have e : 64 * n.val + l - 64 * n.val = l := by omega
    simp only [Task.lane, Task.lanes_setVec, Task.vregs_setVec, putLanes_get, hl, e, if_true]
    by_cases hg : t.guardBit g l = true
    · simp [hg, hl]
    · simp [hg]
  · have : t.guardBit g l = false := by simp [Task.guardBit, hl]
    simp [Task.lane, hl, this]

theorem Task.lane_setVec_other (t : Task) (g : Guard) {m n : Fin 32} (h : m ≠ n) (f : Nat → W32) (l : Nat) :
    (t.setVec g n f).lane m l = t.lane m l := by
  have hL := t.lanes_le
  have hv : m.val ≠ n.val := fun e => h (Fin.ext e)
  by_cases hl : l < t.lanes
  · have hn : ¬ (64 * n.val ≤ 64 * m.val + l ∧ 64 * m.val + l < 64 * n.val + t.lanes
        ∧ t.guardBit g (64 * m.val + l - 64 * n.val) = true) := by omega
    simp only [Task.lane, Task.lanes_setVec, Task.vregs_setVec, putLanes_get, hl, hn, if_true, if_false]
  · simp [Task.lane, hl]

/-! ### Issue -/

@[simp] theorem issued_tasks (w : Who) (s : State) : (issued w s).tasks = s.tasks := rfl
@[simp] theorem issued_mem (w : Who) (s : State) : (issued w s).mem = s.mem := rfl
@[simp] theorem issued_ctxs (w : Who) (s : State) : (issued w s).ctxs = s.ctxs := rfl
@[simp] theorem issued_power (w : Who) (s : State) : (issued w s).power = s.power := rfl
@[simp] theorem issued_keeper (w : Who) (s : State) : (issued w s).keeper = s.keeper := rfl
@[simp] theorem issued_fuses (w : Who) (s : State) : (issued w s).fuses = s.fuses := rfl
@[simp] theorem issued_ops (w : Who) (s : State) : (issued w s).ops = s.ops := rfl
@[simp] theorem issued_loose (w : Who) (s : State) : (issued w s).loose = s.loose := rfl
@[simp] theorem issued_errs (w : Who) (s : State) : (issued w s).errs = s.errs := rfl
@[simp] theorem issued_touched (w : Who) (s : State) : (issued w s).touched = s.touched := rfl
@[simp] theorem issued_dg (w : Who) (s : State) : (issued w s).dg = s.dg := rfl
@[simp] theorem issued_merge (w : Who) (s : State) : (issued w s).merge = s.merge := rfl
@[simp] theorem issued_mt (w : Who) (s : State) : (issued w s).mt = s.mt := rfl
@[simp] theorem issued_sl (w : Who) (s : State) : (issued w s).sl = s.sl := rfl
@[simp] theorem issued_tags (w : Who) (s : State) : (issued w s).tags = s.tags := rfl
@[simp] theorem issued_nextTag (w : Who) (s : State) : (issued w s).nextTag = s.nextTag := rfl
@[simp] theorem issued_tl (w : Who) (s : State) : (issued w s).tl = s.tl := rfl
@[simp] theorem issued_tallies (w : Who) (s : State) : (issued w s).tallies = s.tallies := rfl
@[simp] theorem issued_inflight (w : Who) (s : State) : (issued w s).inflight = s.inflight := rfl
@[simp] theorem issued_grants (w : Who) (s : State) : (issued w s).grants = s.grants := rfl
@[simp] theorem issued_slots (w : Who) (s : State) : (issued w s).slots = s.slots := rfl
@[simp] theorem issued_links (w : Who) (s : State) : (issued w s).links = s.links := rfl
@[simp] theorem issued_dies (w : Who) (s : State) : (issued w s).dies = s.dies := rfl
@[simp] theorem issued_log (w : Who) (s : State) : (issued w s).log = s.log := rfl
@[simp] theorem issued_fence (w : Who) (s : State) : (issued w s).fence = s.fence := rfl
@[simp] theorem issued_hg (w : Who) (s : State) : (issued w s).hg = s.hg := rfl
@[simp] theorem issued_saved (w : Who) (s : State) : (issued w s).saved = s.saved := rfl
@[simp] theorem issued_nextOp (w : Who) (s : State) : (issued w s).nextOp = s.nextOp := rfl
@[simp] theorem issued_freeCount (w : Who) (s : State) : (issued w s).freeCount = s.freeCount := rfl

/-- An instruction leaves every cistern as it was by issuing. -/
@[simp] theorem issued_cis (w : Who) (s : State) (c : Nat) : (issued w s).cis c = s.cis c := by
  unfold issued
  by_cases h : c = w.core
  · subst h; simp [State.cis, Core.nextRound]
  · simp [State.cis, h]

@[simp] theorem issued_task (w x : Who) (s : State) : (issued w s).task x = s.task x := by simp [State.task]
@[simp] theorem issued_ctx (w : Who) (s : State) (c : Nat) : (issued w s).ctx c = s.ctx c := by simp [State.ctx]

/-- What an issue leaves with its core, beside the numbers of its rounds and issues (R42, R89, R118). -/
theorem issued_core (w : Who) (s : State) : (issued w s).core w.core = { (s.core w.core).nextRound w.core with
    order := (s.core w.core).order.filter (fun k => k ≠ w.slot) ++ [w.slot], issues := (s.core w.core).issues + 1
    stepOne := (s.core w.core).stepOne && !(s.core w.core).halted
    token := (s.core w.core).token && !(s.die (Who.die w)).fixed } := by
  simp [issued]

/-- No other core is touched by an issue. -/
theorem issued_other (w : Who) (s : State) {c : Nat} (h : c ≠ w.core) : (issued w s).core c = s.core c := by
  simp [issued, h]

theorem issue_ready {s : State} {w : Who} {t : Task} {ok : Task → Bool} {body : Task → State → State}
    (h : Ready s w t) (hok : ok t = true) : issue w ok body s = .next (body t (issued w s)) := by
  obtain ⟨ht, he, hc⟩ := h
  simp [issue, ht, he, hc, hok, go]

/-- A malformed form of an instruction: its task's parcel ends as R96 says. -/
theorem issue_malformed {s : State} {w : Who} {t : Task} {ok : Task → Bool} {body : Task → State → State}
    (ht : s.task w = some t) (hc : canIssue s w t = true) (hok : t.entered = false ∨ ok t = false) :
    issue w ok body s = .next (malformed w t (issued w s)) := by
  rcases hok with h | h <;> simp [issue, ht, hc, h, go]

/-- A slot with no task, or one that cannot issue: nothing happens. -/
theorem issue_stays {s : State} {w : Who} {ok : Task → Bool} {body : Task → State → State}
    (h : ∀ t, s.task w = some t → canIssue s w t = false) : issue w ok body s = .next s := by
  unfold issue
  cases ht : s.task w with
  | none => rfl
  | some t => simp [h t ht, go]

theorem onTask_ready {s : State} {w : Who} {t : Task} {ok : Task → Bool} {f : Task → Task}
    (h : Ready s w t) (hok : ok t = true) : onTask w ok f s = .next ((issued w s).setTask w (f t).advance) :=
  issue_ready h hok

theorem countedOp_ready {s : State} {w : Who} {t : Task} {ok : Task → Bool} {f : Task → Task × Counts}
    (h : Ready s w t) (hok : ok t = true) : countedOp w ok f s =
      .next (countNum t.ctx t.hostSeq (Who.die w) (f t).2 ((issued w s).setTask w (f t).1.advance)) :=
  issue_ready h hok

theorem guarded_ready {s : State} {w : Who} {t : Task} {g : Guard} {ok : Task → Bool}
    {f : Task → State → Except Bad State} {s' : State} (h : Ready s w t) (hok : ok t = true) (hg : t.acts g = true)
    (hf : f t ((issued w s).setTask w t.advance) = .ok s') : guarded w g ok f s = .next s' := by
  unfold guarded
  rw [issue_ready h hok]
  simp [hg, hf]

theorem guarded_fails {s : State} {w : Who} {t : Task} {g : Guard} {ok : Task → Bool}
    {f : Task → State → Except Bad State} {b : Bad} (h : Ready s w t) (hok : ok t = true) (hg : t.acts g = true)
    (hf : f t ((issued w s).setTask w t.advance) = .error b) (hb : b ≠ .wait) :
    guarded w g ok f s = .next (failParcel t.ctx t.hostSeq (some w) t.pc (Who.die w) b (issued w s)) := by
  unfold guarded
  rw [issue_ready h hok]
  cases b <;> simp_all

theorem guarded_off {s : State} {w : Who} {t : Task} {g : Guard} {ok : Task → Bool}
    {f : Task → State → Except Bad State} (h : Ready s w t) (hok : ok t = true) (hg : t.acts g = false) :
    guarded w g ok f s = .next ((issued w s).setTask w t.advance) := by
  unfold guarded
  rw [issue_ready h hok]
  simp [hg]

/-- An asynchronous instruction that is accepted: its record joins the unfinished ones, its group counts it, the writes of it that
are held are its own, and its reads go out as far as the bounds let them. -/
theorem async_ready {s : State} {w : Who} {t : Task} {g : Guard} {grp : Fin 8} {ok : Task → Bool}
    {f : Nat → Task → State → State × Except Bad AsyncOp} {s1 : State} {op : AsyncOp}
    (h : Ready s w t) (hok : ok t = true) (hg : t.acts g = true) (hr : t.groups.get 0 grp.val < 255)
    (hf : f s.nextOp t { (issued w s).setTask w (t.join grp).advance with nextOp := s.nextOp + 1 } = (s1, .ok op)) :
    async w g grp ok f s = .next
      (issueReads op.id op.openPos (ownHeld s.dg.held.length op.id { s1 with ops := s1.ops ++ [op] })) := by
  have hn : decide (t.groups.get 0 grp.val ≥ 255) = false := by simpa using hr
  unfold async
  simp only [h.1, hn, Bool.and_false, Bool.false_eq_true, if_false]
  rw [issue_ready h hok]
  simp only [hg, if_true]
  rw [hf]

/-- One that ends its parcel ends it as R82 says: what an engine meets has no task. -/
theorem async_fails {s : State} {w : Who} {t : Task} {g : Guard} {grp : Fin 8} {ok : Task → Bool}
    {f : Nat → Task → State → State × Except Bad AsyncOp} {s1 : State} {b : Bad}
    (h : Ready s w t) (hok : ok t = true) (hg : t.acts g = true) (hr : t.groups.get 0 grp.val < 255) (hb : b ≠ .wait)
    (hf : f s.nextOp t { (issued w s).setTask w (t.join grp).advance with nextOp := s.nextOp + 1 } = (s1, .error b)) :
    async w g grp ok f s =
      .next (failParcel t.ctx t.hostSeq (if b.byEngine then none else some w) t.pc (Who.die w) b s1) := by
  have hn : decide (t.groups.get 0 grp.val ≥ 255) = false := by simpa using hr
  unfold async
  simp only [h.1, hn, Bool.and_false, Bool.false_eq_true, if_false]
  rw [issue_ready h hok]
  simp only [hg, if_true]
  rw [hf]
  cases b <;> simp_all

/-- One that needs a missing part of the flash map stays at issue (R315). -/
theorem async_waits {s : State} {w : Who} {t : Task} {g : Guard} {grp : Fin 8} {ok : Task → Bool}
    {f : Nat → Task → State → State × Except Bad AsyncOp} {s1 : State}
    (h : Ready s w t) (hok : ok t = true) (hg : t.acts g = true) (hr : t.groups.get 0 grp.val < 255)
    (hf : f s.nextOp t { (issued w s).setTask w (t.join grp).advance with nextOp := s.nextOp + 1 } = (s1, .error .wait)) :
    async w g grp ok f s = .next s := by
  have hn : decide (t.groups.get 0 grp.val ≥ 255) = false := by simpa using hr
  unfold async
  simp only [h.1, hn, Bool.and_false, Bool.false_eq_true, if_false]
  rw [issue_ready h hok]
  simp only [hg, if_true]
  rw [hf]

theorem becomes_setTask (s : State) (w : Who) (t' : Task) : TaskBecomes s ((issued w s).setTask w t') w t' := by
  refine ⟨by simp, fun x hx => by simp [hx], ?_⟩
  have h := issued_tasks w s
  cases hs : issued w s
  simp only [State.setTask]
  rw [hs] at h
  simp only at h
  subst h
  rfl

theorem runsTask_onTask {s : State} {w : Who} {t : Task} {ok : Task → Bool} {f : Task → Task} {p : Task → Prop}
    (h : Ready s w t) (hok : ok t = true) (hp : p (f t).advance) : RunsTask (onTask w ok f s) s w p :=
  ⟨_, _, onTask_ready h hok, becomes_setTask s w _, hp⟩

end Sys2Proof.Machine
end

