-- ==== Sys2Proof/Laws/Ops.lean ====
section
/-! SUPPORT. Shared operations over device memory: how many bytes they write, that they keep the canonical form, and when a
write and a save come to their end. -/

namespace Sys2Proof.Machine

open Sys2Proof

/-! ### Lengths -/

theorem flatMap_length {α : Type} (l : List α) (f : α → List Byte) (k : Nat) (h : ∀ x, (f x).length = k) :
    (l.flatMap f).length = l.length * k := by
  induction l with
  | nil => simp
  | cons x r ih => simp [h, ih, Nat.add_mul, Nat.add_comm]

@[simp] theorem leBytes_length (n v : Nat) : (leBytes n v).length = n := by
  induction n generalizing v with
  | zero => rfl
  | succ n ih => simp [leBytes, ih]

@[simp] theorem recBytes_length (r : Rec) : (recBytes r).length = 64 := leBytes_length _ _

@[simp] theorem saveHeader_length (t : Task) (level : Nat) (waiting : Bool) : (saveHeader t level waiting).length = 64 := by
  rw [saveHeader, leBytes_length]

/-- A save area is 147,456 bytes with its header (Table 4.18). -/
theorem saveBody_length (t : Task) : (saveBody t).length = 147392 := by
  unfold saveBody
  simp only [List.length_append, leBytes_length, recBytes, List.length_replicate,
    flatMap_length _ _ _ (fun _ => leBytes_length _ _), List.length_range]
  rw [flatMap_length _ _ 256 (fun _ => by rw [flatMap_length _ _ 4 (fun _ => leBytes_length _ _), List.length_range])]
  simp only [List.length_range]

/-! ### Sequences of checks -/

theorem bind_ok {α β : Type} {x : Except Bad α} {f : α → Except Bad β} {a : α} (h : x = .ok a) : x.bind f = f a := by
  subst h; rfl

/-- A sequence that ends well has a first part that does. -/
theorem ok_of_bind {α β : Type} {x : Except Bad α} {f : α → Except Bad β} {b : β} (h : x.bind f = .ok b) :
    ∃ a, x = .ok a ∧ f a = .ok b := by
  cases x with
  | ok a => exact ⟨a, rfl, h⟩
  | error e => cases h

/-! ### Writes -/

/-- A write whose range is accepted, and whose channels have their clocks, is made in full. -/
theorem devWrite_ok {s : State} {w : Writer} {u : Use} {a n : Nat} {bs : List Byte} {ps : List Piece} (hn : bs.length = n)
    (h : range s w.ctx u a n = .ok ps) (hc : checkClocks s a ps = .ok ()) :
    devWrite s w u a bs = .ok (putPieces w ps bs s) := by
  subst hn; exact (bind_ok h).trans ((bind_ok hc).trans rfl)

/-- A write that answers a state has translated its whole range first, and reached every channel. -/
theorem devWrite_range {s s' : State} {w : Writer} {u : Use} {a : Nat} {bs : List Byte} (h : devWrite s w u a bs = .ok s') :
    ∃ ps, range s w.ctx u a bs.length = .ok ps ∧ checkClocks s a ps = .ok () ∧ s' = putPieces w ps bs s := by
  obtain ⟨ps, h1, h2⟩ := ok_of_bind h
  obtain ⟨_, h3, h4⟩ := ok_of_bind h2
  exact ⟨ps, h1, h3, (Except.ok.inj h4).symm⟩

/-! ### Saving -/

/-- A core whose image and areas can be written is saved (R110, R113, R114). -/
theorem writeCore_ok {core c foot : Nat} {why : SaveWhy} {p : Parcel} {h : RunHeader} {e : Who × Task} {r : List (Who × Task)}
    {s s2 : State} {dst : List Piece} (hf : (s.core core).footprint.getD 0 = foot) (h0 : cisParity s core 0 foot = .ok ())
    (he : coreSound s core = .ok ())
    (h1 : range s c (Use.of 1 nearFar) (h.cisBase + e.2.ordinal * h.cisStride) foot = .ok dst)
    (h2 : (e :: r).foldlM (fun (x : State) e => writeArea c h e x)
      (writePieces (parcelWriter c p.hostSeq) dst (Memory.slice (s.cis core) 0 foot) 0 s) = .ok s2) :
    ∃ s', writeCore core why c p h (e :: r) s = .ok s' := by
  subst hf
  exact ⟨_, (bind_ok h0).trans ((bind_ok he).trans ((bind_ok h1).trans ((bind_ok h2).trans rfl)))⟩

end Sys2Proof.Machine
end

