-- ==== Sys2Proof/WellFormed.lean ====
section
/-! DEFINITION. Well-formed commands: every number an operand carries lies in the range of the unit it names
(R11, R14, R89; Tables 3.1, 12.5 and 13.8). A command that breaks R93 to R96 is no ill-formed term: its task meets R96. -/

namespace Sys2Proof

/-- A task slot that exists (R89). -/
def Who.ok (t : Who) : Bool := decide (t.core < 512) && decide (t.slot < 4)

/-- The head of a command that brings flits of a kind: they are of that kind, or of a reserved one that a receiver discards, and
there is at least one (Table 13.5). -/
def FlitHead.ok (h : FlitHead) (kind : Nat) : Bool := (h.kind = kind || decide (7 ≤ h.kind)) && decide (0 < h.count)

/-- The operands of a command name units that exist. -/
def Instr.wf (i : Instr) : Bool :=
  match i with
  | .powerOn _ => true
  | .keeperImageVerify => true
  | .keeperFirmwareStart => true
  | .i3cDynamicAddressAssignment _ => true
  | .conversionEnable => true
  | .inrushChargeComplete => true
  | .pllLock => true
  | .computeDomainsStart => true
  | .moduleInitComplete => true
  | .headgateOpen => true
  | .ftlMapLoaded => true
  | .perstAssert => true
  | .perstDeassert => true
  | .hotReset => true
  | .flr => true
  | .vmainUndervoltage _ _ => true
  | .vmainOvervoltage _ _ => true
  | .vmainReturn => true
  | .vmainOvercurrentTrip _ _ => true
  | .vauxUndervoltage _ _ => true
  | .vauxOvervoltage _ _ => true
  | .bothSuppliesLost => true
  | .wakeTrip => true
  | .wakeTakesEffect => true
  | .ucieLaneFailure edge unit lanes => decide (edge < 14) && decide (unit < 8) && lanes.all fun l => decide (l < 64)
  | .thermalSample readings => readings.all fun e => decide (e.1 < 640)
  | .pllLossOfLock row inst => decide (inst < ([1, 64, 32, 32, 28, 1] : List Nat).getD row 0)
  | .pllLockRetry row inst _ => decide (inst < ([1, 64, 32, 32, 28, 1] : List Nat).getD row 0)
  | .pacerToken core _ => decide (core < 512)
  | .intakeWrite ctx offset data => decide (ctx < 1024) && decide (data.length > 0) && decide (offset + data.length ≤ 4194304)
  | .queueSpaceAcceptance ctx => decide (ctx < 1024)
  | .run ctx => decide (ctx < 1024)
  | .ordinalPlacement ctx _ ordinal core => decide (ctx < 1024) && decide (ordinal < 512) && decide (core < 512)
  | .copy ctx => decide (ctx < 1024)
  | .fence ctx => decide (ctx < 1024)
  | .querySequenceState ctx => decide (ctx < 1024)
  | .queryContextCounters ctx => decide (ctx < 1024)
  | .queryModuleIdentity ctx => decide (ctx < 1024)
  | .abort ctx => decide (ctx < 1024)
  | .abortFinish ctx => decide (ctx < 1024)
  | .hotset ctx => decide (ctx < 1024)
  | .migrate ctx => decide (ctx < 1024)
  | .tallyDump ctx => decide (ctx < 1024)
  | .sealStep ctx => decide (ctx < 1024)
  | .replayRestoreReexecute ctx => decide (ctx < 1024)
  | .replayRestoreOnly ctx => decide (ctx < 1024)
  | .replayCheckOnly ctx => decide (ctx < 1024)
  | .parcelFinish ctx _ => decide (ctx < 1024)
  | .completionRecordWrite ctx => decide (ctx < 1024)
  | .ringConsumedWrite ctx _ => decide (ctx < 1024)
  | .contextOpen ctx _ _ => decide (ctx < 1024)
  | .contextReset ctx => decide (ctx < 1024)
  | .contextResetComplete ctx => decide (ctx < 1024)
  | .intakeRewind ctx => decide (ctx < 1024)
  | .faultRecordClear ctx => decide (ctx < 1024)
  | .ctxSnapshot ctx => decide (ctx < 1024)
  | .bar4Read _ bytes _ => decide (bytes > 0)
  | .bar4Write _ data => decide (data.length > 0)
  | .registerWrite x _ => decide (x.off < 67108864) && decide (x.bytes > 0)
  | .abandonedReply _ => true
  | .tagTimeout _ => true
  | .atsInvalidationRequest _ _ => true
  | .getVersion _ => true
  | .getCapabilities _ => true
  | .negotiateAlgorithms _ _ _ => true
  | .getDigests _ => true
  | .getCertificate _ => true
  | .challenge _ _ => true
  | .getMeasurements _ _ _ => true
  | .unsupportedSpdmRequest _ => true
  | .mctpControlMessage _ => true
  | .firmwareImageTransfer _ => true
  | .activateFirmware => true
  | .sidebandCap watts => decide (watts < 65536)
  | .sidebandDrowseRequest => true
  | .sidebandDeepRequest => true
  | .sidebandWakeRequest => true
  | .debugTokenMessage _ _ _ => true
  | .debugChallenge _ => true
  | .debugSubmit _ _ => true
  | .debugLock => true
  | .bypass => true
  | .idcode => true
  | .samplePreload _ => true
  | .extest _ => true
  | .drowseRequest => true
  | .deepRequest => true
  | .drowseExit _ => true
  | .dieReset die => decide (die < 8)
  | .malformedInstruction t _ => t.ok
  | .add t _ _ _ _ => t.ok
  | .sub t _ _ _ _ => t.ok
  | .mul t _ _ _ _ => t.ok
  | .mulh t _ _ _ _ => t.ok
  | .and t _ _ _ _ => t.ok
  | .or t _ _ _ _ => t.ok
  | .xor t _ _ _ _ => t.ok
  | .shl t _ _ _ _ => t.ok
  | .shr t _ _ _ _ => t.ok
  | .sra t _ _ _ _ => t.ok
  | .min t _ _ _ _ => t.ok
  | .max t _ _ _ _ => t.ok
  | .slt t _ _ _ _ => t.ok
  | .sltu t _ _ _ _ => t.ok
  | .seq t _ _ _ _ => t.ok
  | .popc t _ _ _ => t.ok
  | .addi t _ _ _ _ => t.ok
  | .subi t _ _ _ _ => t.ok
  | .muli t _ _ _ _ => t.ok
  | .mulhi t _ _ _ _ => t.ok
  | .andi t _ _ _ _ => t.ok
  | .ori t _ _ _ _ => t.ok
  | .xori t _ _ _ _ => t.ok
  | .shli t _ _ _ _ => t.ok
  | .shri t _ _ _ _ => t.ok
  | .srai t _ _ _ _ => t.ok
  | .mini t _ _ _ _ => t.ok
  | .maxi t _ _ _ _ => t.ok
  | .slti t _ _ _ _ => t.ok
  | .sltui t _ _ _ _ => t.ok
  | .seqi t _ _ _ _ => t.ok
  | .movh t _ _ _ => t.ok
  | .ld8 t _ _ _ _ => t.ok
  | .ld16 t _ _ _ _ => t.ok
  | .ld32 t _ _ _ _ => t.ok
  | .ld64 t _ _ _ _ => t.ok
  | .st8 t _ _ _ _ => t.ok
  | .st16 t _ _ _ _ => t.ok
  | .st32 t _ _ _ _ => t.ok
  | .st64 t _ _ _ _ => t.ok
  | .cld8 t _ _ _ _ => t.ok
  | .cld16 t _ _ _ _ => t.ok
  | .cld32 t _ _ _ _ => t.ok
  | .cld64 t _ _ _ _ => t.ok
  | .cst8 t _ _ _ _ => t.ok
  | .cst16 t _ _ _ _ => t.ok
  | .cst32 t _ _ _ _ => t.ok
  | .cst64 t _ _ _ _ => t.ok
  | .beq t _ _ _ _ => t.ok
  | .bne t _ _ _ _ => t.ok
  | .blt t _ _ _ _ => t.ok
  | .bge t _ _ _ _ => t.ok
  | .bltu t _ _ _ _ => t.ok
  | .bgeu t _ _ _ _ => t.ok
  | .jal t _ _ _ => t.ok
  | .jr t _ _ _ => t.ok
  | .fadd t _ _ _ _ => t.ok
  | .fsub t _ _ _ _ => t.ok
  | .fmul t _ _ _ _ => t.ok
  | .ffma t _ _ _ _ _ => t.ok
  | .fmin t _ _ _ _ => t.ok
  | .fmax t _ _ _ _ => t.ok
  | .fcvtif t _ _ _ => t.ok
  | .fcvtfi t _ _ _ => t.ok
  | .vadd t _ _ _ _ => t.ok
  | .vsub t _ _ _ _ => t.ok
  | .vmul t _ _ _ _ => t.ok
  | .vmulh t _ _ _ _ => t.ok
  | .vand t _ _ _ _ => t.ok
  | .vor t _ _ _ _ => t.ok
  | .vxor t _ _ _ _ => t.ok
  | .vshl t _ _ _ _ => t.ok
  | .vshr t _ _ _ _ => t.ok
  | .vsra t _ _ _ _ => t.ok
  | .vmin t _ _ _ _ => t.ok
  | .vmax t _ _ _ _ => t.ok
  | .vslt t _ _ _ _ => t.ok
  | .vsltu t _ _ _ _ => t.ok
  | .vseq t _ _ _ _ => t.ok
  | .vpopcnt t _ _ _ => t.ok
  | .vfadd t _ _ _ _ => t.ok
  | .vfsub t _ _ _ _ => t.ok
  | .vfmul t _ _ _ _ => t.ok
  | .vffma t _ _ _ _ _ => t.ok
  | .vfmin t _ _ _ _ => t.ok
  | .vfmax t _ _ _ _ => t.ok
  | .vfabs t _ _ _ => t.ok
  | .vfneg t _ _ _ => t.ok
  | .vfrcp t _ _ _ => t.ok
  | .vfrsq t _ _ _ => t.ok
  | .vfexp t _ _ _ => t.ok
  | .vflog t _ _ _ => t.ok
  | .vfclt t _ _ _ _ => t.ok
  | .vfceq t _ _ _ _ => t.ok
  | .vfsel t _ _ _ _ _ => t.ok
  | .vld t _ _ _ _ => t.ok
  | .vst t _ _ _ _ => t.ok
  | .vlds t _ _ _ _ => t.ok
  | .vsts t _ _ _ _ => t.ok
  | .vldx t _ _ _ _ => t.ok
  | .vstx t _ _ _ _ => t.ok
  | .vbcast t _ _ _ => t.ok
  | .vmovs t _ _ _ _ => t.ok
  | .vrsum t _ _ _ => t.ok
  | .vrmax t _ _ _ => t.ok
  | .vrisum t _ _ _ => t.ok
  | .vperm t _ _ _ _ => t.ok
  | .vscan t _ _ _ => t.ok
  | .pcount t _ _ _ => t.ok
  | .vfroma t _ _ _ => t.ok
  | .atov t _ _ _ => t.ok
  | .pand t _ _ _ _ => t.ok
  | .por t _ _ _ _ => t.ok
  | .pxor t _ _ _ _ => t.ok
  | .pnot t _ _ _ => t.ok
  | .pfroms t _ _ _ => t.ok
  | .ptos t _ _ _ => t.ok
  | .pfirst t _ _ _ => t.ok
  | .mxm t _ _ _ _ _ _ _ _ _ _ => t.ok
  | .azero t _ _ => t.ok
  | .aload t _ _ _ _ => t.ok
  | .astore t _ _ _ _ => t.ok
  | .astn t _ _ _ _ _ _ _ => t.ok
  | .dld t _ _ _ => t.ok
  | .dst t _ _ _ => t.ok
  | .dinv t _ _ => t.ok
  | .gather t _ _ _ => t.ok
  | .scatter t _ _ _ => t.ok
  | .segred t _ _ _ _ => t.ok
  | .combine t _ _ _ => t.ok
  | .scopy t _ _ _ => t.ok
  | .pfsched t _ _ _ => t.ok
  | .prefetchPositionStart _ => true
  | .prefetchDeadline _ _ => true
  | .shuf t _ _ _ => t.ok
  | .sample t _ _ _ => t.ok
  | .dedup t _ _ _ => t.ok
  | .skey t _ _ _ => t.ok
  | .predict t _ _ _ => t.ok
  | .bmchk t _ _ _ => t.ok
  | .bmexp t _ _ _ => t.ok
  | .cvtnRegister t _ _ _ _ _ _ _ => t.ok
  | .cvtnMemory t _ _ _ _ _ _ _ _ _ => t.ok
  | .cvtwRegister t _ _ _ _ _ => t.ok
  | .cvtwMemory t _ _ _ _ _ _ _ _ => t.ok
  | .split t _ _ _ _ => t.ok
  | .join t _ _ _ _ => t.ok
  | .splitx t _ _ _ _ _ _ => t.ok
  | .joinx t _ _ _ _ => t.ok
  | .wait t _ _ => t.ok
  | .signal t _ _ _ => t.ok
  | .signalAll t _ _ => t.ok
  | .arrive t _ _ => t.ok
  | .cwait t _ _ _ => t.ok
  | .mfence t _ => t.ok
  | .rkey t _ _ _ => t.ok
  | .rdk t _ _ _ => t.ok
  | .rinit t _ _ => t.ok
  | .rdr t _ _ => t.ok
  | .entry t _ _ => t.ok
  | .halt t _ => t.ok
  | .yield t _ => t.ok
  | .rdinfo t _ _ _ => t.ok
  | .phase t _ _ => t.ok
  | .loss t _ _ _ _ => t.ok
  | .ifence t _ => t.ok
  | .nop t _ => t.ok
  | .asyncInstructionFinish _ => true
  | .engineReadReply _ _ => true
  | .gatherDeadline _ => true
  | .taskSave core _ => decide (core < 512)
  | .taskRestore ctx _ _ core => decide (ctx < 1024) && decide (core < 512)
  | .waitApplied _ => true
  | .signalApplied _ => true
  | .signalAllApplied _ => true
  | .grantWake _ => true
  | .holdWindowExpiry t => t.ok
  | .waitPoolResend t => t.ok
  | .leaseExpiry tally => decide (tally < 65536)
  | .tallyReset first countM1 => decide (first < 65536) && decide (countM1 < 65536)
  | .tallySnapshot tally => decide (tally < 65536)
  | .handSetSignal tally value => decide (tally < 65536) && decide (value < 65536)
  | .handSetCount tally value => decide (tally < 65536) && decide (value < 65536)
  | .checkSlotBind slot => decide (slot < 4096)
  | .checkSlotUnbind slot => decide (slot < 4096)
  | .arrivalBatch slot die => decide (slot < 4096) && decide (die < 8)
  | .checkComplete port h _ _ => decide (port < 32) && h.ok 4
  | .checkRelease port h _ _ => decide (port < 32) && h.ok 4
  | .checkClose port h _ _ => decide (port < 32) && h.ok 4
  | .checkClosed port h _ _ => decide (port < 32) && h.ok 4
  | .checkRelease2 port h _ _ => decide (port < 32) && h.ok 4
  | .checkBreak port h _ _ => decide (port < 32) && h.ok 4
  | .portEnable port => decide (port < 32)
  | .portDisable port => decide (port < 32)
  | .portRetrain port => decide (port < 32)
  | .signalDetect port => decide (port < 32)
  | .trainComplete port _ => decide (port < 32)
  | .portStateTimeout port => decide (port < 32)
  | .alignComplete port => decide (port < 32)
  | .lossOfSignal port => decide (port < 32)
  | .capability port f _ _ _ => decide (port < 32) && f.head.ok 6
  | .idle port h => decide (port < 32) && h.ok 0
  | .embeddingRequest port h _ _ _ => decide (port < 32) && h.ok 1
  | .linkReply port h _ _ => decide (port < 32) && h.ok 2
  | .contribution port h _ _ _ _ => decide (port < 32) && h.ok 3
  | .directWrite port h _ _ _ data => decide (port < 32) && h.ok 3 && decide (data.length > 0)
  | .withdrawal port h _ _ => decide (port < 32) && h.ok 3
  | .paceNotice port h _ _ _ => decide (port < 32) && h.ok 5
  | .paceNoticeExpiry slot => decide (slot < 4096)
  | .ack port f => decide (port < 32) && f.head.ok 6
  | .nak port f => decide (port < 32) && f.head.ok 6
  | .credit port vc f => decide (port < 32) && decide (vc < 8) && f.head.ok 6
  | .ackTimer port => decide (port < 32)
  | .linkReplayTimeout port => decide (port < 32)
  | .bundleResume dim _ => decide (dim < 4)
  | .estimateInterval die => decide (die < 10)
  | .governorInterval => true
  | .estimatorTrim _ => true
  | .weirInterval die => decide (die < 8)
  | .hostCapWrite watts => decide (watts < 65536)
  | .fixedRateWrite _ => true
  | .droopWarning die quadrant => decide (die < 8) && decide (quadrant < 4)
  | .droopRecoveryHoldExpiry die quadrant _ _ => decide (die < 8) && decide (quadrant < 4)
  | .droopReset die quadrant => decide (die < 8) && decide (quadrant < 4)
  | .paceNoticeResend die => decide (die < 8)
  | .translationInvalidate ctx sizeLog2 => decide (ctx < 1024) && decide (16 ≤ sizeLog2) && decide (sizeLog2 ≤ 57)
  | .invalidationComplete => true
  | .ingest slot => decide (slot < 16)
  | .trim slot => decide (slot < 16)
  | .ingestComplete slot _ => decide (slot < 16)
  | .wearLevelling _ => true
  | .readDisturbRelocation channel block => decide (channel < 32) && decide (block < 2 ^ 24)
  | .retentionRefresh channel block => decide (channel < 32) && decide (block < 2 ^ 24)
  | .powerOnScan _ => true
  | .badBlockRetirement channel block => decide (channel < 32) && decide (block < 2 ^ 24)
  | .mapRebuildComplete => true
  | .install ctx => decide (ctx < 1024)
  | .evict ctx => decide (ctx < 1024)
  | .move ctx => decide (ctx < 1024)
  | .moveCommit _ => true
  | .moveDrainComplete _ => true
  | .firstTouchCopyDone _ _ => true
  | .automaticReplayRestore ctx => decide (ctx < 1024)
  | .automaticReplayReexecute ctx => decide (ctx < 1024)
  | .automaticReplayResume ctx => decide (ctx < 1024)
  | .spillLogDrain => true
  | .clearFirst => true
  | .fenceRequest kind index => decide (kind < 256) && decide (index < 2 ^ 32)
  | .bistRequest kind index => decide (kind < 256) && decide (index < 2 ^ 32)
  | .bistComplete x => x.lanes.all fun l => decide (l < 64)
  | .moduleStep => true
  | .vauxReturn => true
  | .drowseEntryComplete => true
  | .dieResetComplete die => decide (die < 8)
  | .flitCrcFailure port _ => decide (port < 32)

end Sys2Proof
end

