-- ==== Sys2Proof/Tests/Slice0.lean ====
section
/-! SUPPORT. Tests of the model: what the checks of a command refuse, words and results that the spec gives, and for each
statement states and operands that meet its hypotheses together. -/

namespace Sys2Proof.Tests

open Sys2Proof Sys2Proof.Machine

set_option Elab.async false

/-! ### Well-formed commands -/

/-- The head of a flit of version 2 from module 1 to module 0, with tag 7 and context 1, of a kind, a class and a number (Table 13.3);
its trailer names no number. -/
def headOf (kind cls n : Nat) : FlitHead :=
  ⟨BitVec.ofNat 128 (2 + kind * 2 ^ 4 + cls * 2 ^ 8 + 2 ^ 11 + n * 2 ^ 16 + 2 ^ 64 + 7 * 2 ^ 96 + 2 ^ 112), 0, 1⟩

/-- A task slot outside its range makes an instruction ill-formed. -/
theorem test_wf_refuses_slot_1 : ([
    .malformedInstruction ⟨512, 0⟩ 0, .add ⟨511, 4⟩ ⟨0, false⟩ 0 0 0, .sub ⟨512, 0⟩ ⟨0, false⟩ 0 0 0,
    .mul ⟨511, 4⟩ ⟨0, false⟩ 0 0 0, .mulh ⟨512, 0⟩ ⟨0, false⟩ 0 0 0, .and ⟨511, 4⟩ ⟨0, false⟩ 0 0 0,
    .or ⟨512, 0⟩ ⟨0, false⟩ 0 0 0, .xor ⟨511, 4⟩ ⟨0, false⟩ 0 0 0, .shl ⟨512, 0⟩ ⟨0, false⟩ 0 0 0,
    .shr ⟨511, 4⟩ ⟨0, false⟩ 0 0 0, .sra ⟨512, 0⟩ ⟨0, false⟩ 0 0 0, .min ⟨511, 4⟩ ⟨0, false⟩ 0 0 0,
    .max ⟨512, 0⟩ ⟨0, false⟩ 0 0 0, .slt ⟨511, 4⟩ ⟨0, false⟩ 0 0 0, .sltu ⟨512, 0⟩ ⟨0, false⟩ 0 0 0,
    .seq ⟨511, 4⟩ ⟨0, false⟩ 0 0 0, .popc ⟨512, 0⟩ ⟨0, false⟩ 0 0, .addi ⟨511, 4⟩ ⟨0, false⟩ 0 0 0,
    .subi ⟨512, 0⟩ ⟨0, false⟩ 0 0 0, .muli ⟨511, 4⟩ ⟨0, false⟩ 0 0 0, .mulhi ⟨512, 0⟩ ⟨0, false⟩ 0 0 0,
    .andi ⟨511, 4⟩ ⟨0, false⟩ 0 0 0, .ori ⟨512, 0⟩ ⟨0, false⟩ 0 0 0, .xori ⟨511, 4⟩ ⟨0, false⟩ 0 0 0] : List Instr).map Instr.wf = List.replicate 24 false := by
  decide +kernel

/-- A task slot outside its range makes an instruction ill-formed. -/
theorem test_wf_refuses_slot_2 : ([
    .shli ⟨512, 0⟩ ⟨0, false⟩ 0 0 0, .shri ⟨511, 4⟩ ⟨0, false⟩ 0 0 0, .srai ⟨512, 0⟩ ⟨0, false⟩ 0 0 0,
    .mini ⟨511, 4⟩ ⟨0, false⟩ 0 0 0, .maxi ⟨512, 0⟩ ⟨0, false⟩ 0 0 0, .slti ⟨511, 4⟩ ⟨0, false⟩ 0 0 0,
    .sltui ⟨512, 0⟩ ⟨0, false⟩ 0 0 0, .seqi ⟨511, 4⟩ ⟨0, false⟩ 0 0 0, .movh ⟨512, 0⟩ ⟨0, false⟩ 0 0,
    .ld8 ⟨511, 4⟩ ⟨0, false⟩ 0 0 0, .ld16 ⟨512, 0⟩ ⟨0, false⟩ 0 0 0, .ld32 ⟨511, 4⟩ ⟨0, false⟩ 0 0 0,
    .ld64 ⟨512, 0⟩ ⟨0, false⟩ 0 0 0, .st8 ⟨511, 4⟩ ⟨0, false⟩ 0 0 0, .st16 ⟨512, 0⟩ ⟨0, false⟩ 0 0 0,
    .st32 ⟨511, 4⟩ ⟨0, false⟩ 0 0 0, .st64 ⟨512, 0⟩ ⟨0, false⟩ 0 0 0, .cld8 ⟨511, 4⟩ ⟨0, false⟩ 0 0 0,
    .cld16 ⟨512, 0⟩ ⟨0, false⟩ 0 0 0, .cld32 ⟨511, 4⟩ ⟨0, false⟩ 0 0 0, .cld64 ⟨512, 0⟩ ⟨0, false⟩ 0 0 0,
    .cst8 ⟨511, 4⟩ ⟨0, false⟩ 0 0 0, .cst16 ⟨512, 0⟩ ⟨0, false⟩ 0 0 0, .cst32 ⟨511, 4⟩ ⟨0, false⟩ 0 0 0] : List Instr).map Instr.wf = List.replicate 24 false := by
  decide +kernel

/-- A task slot outside its range makes an instruction ill-formed. -/
theorem test_wf_refuses_slot_3 : ([
    .cst64 ⟨512, 0⟩ ⟨0, false⟩ 0 0 0, .beq ⟨511, 4⟩ ⟨0, false⟩ 0 0 0, .bne ⟨512, 0⟩ ⟨0, false⟩ 0 0 0,
    .blt ⟨511, 4⟩ ⟨0, false⟩ 0 0 0, .bge ⟨512, 0⟩ ⟨0, false⟩ 0 0 0, .bltu ⟨511, 4⟩ ⟨0, false⟩ 0 0 0,
    .bgeu ⟨512, 0⟩ ⟨0, false⟩ 0 0 0, .jal ⟨511, 4⟩ ⟨0, false⟩ 0 0, .jr ⟨512, 0⟩ ⟨0, false⟩ 0 0,
    .fadd ⟨511, 4⟩ ⟨0, false⟩ 0 0 0, .fsub ⟨512, 0⟩ ⟨0, false⟩ 0 0 0, .fmul ⟨511, 4⟩ ⟨0, false⟩ 0 0 0,
    .ffma ⟨512, 0⟩ ⟨0, false⟩ 0 0 0 0, .fmin ⟨511, 4⟩ ⟨0, false⟩ 0 0 0, .fmax ⟨512, 0⟩ ⟨0, false⟩ 0 0 0,
    .fcvtif ⟨511, 4⟩ ⟨0, false⟩ 0 0, .fcvtfi ⟨512, 0⟩ ⟨0, false⟩ 0 0, .vadd ⟨511, 4⟩ ⟨0, false⟩ 0 0 0,
    .vsub ⟨512, 0⟩ ⟨0, false⟩ 0 0 0, .vmul ⟨511, 4⟩ ⟨0, false⟩ 0 0 0, .vmulh ⟨512, 0⟩ ⟨0, false⟩ 0 0 0,
    .vand ⟨511, 4⟩ ⟨0, false⟩ 0 0 0, .vor ⟨512, 0⟩ ⟨0, false⟩ 0 0 0, .vxor ⟨511, 4⟩ ⟨0, false⟩ 0 0 0] : List Instr).map Instr.wf = List.replicate 24 false := by
  decide +kernel

/-- A task slot outside its range makes an instruction ill-formed. -/
theorem test_wf_refuses_slot_4 : ([
    .vshl ⟨512, 0⟩ ⟨0, false⟩ 0 0 0, .vshr ⟨511, 4⟩ ⟨0, false⟩ 0 0 0, .vsra ⟨512, 0⟩ ⟨0, false⟩ 0 0 0,
    .vmin ⟨511, 4⟩ ⟨0, false⟩ 0 0 0, .vmax ⟨512, 0⟩ ⟨0, false⟩ 0 0 0, .vslt ⟨511, 4⟩ ⟨0, false⟩ 0 0 0,
    .vsltu ⟨512, 0⟩ ⟨0, false⟩ 0 0 0, .vseq ⟨511, 4⟩ ⟨0, false⟩ 0 0 0, .vpopcnt ⟨512, 0⟩ ⟨0, false⟩ 0 0,
    .vfadd ⟨511, 4⟩ ⟨0, false⟩ 0 0 0, .vfsub ⟨512, 0⟩ ⟨0, false⟩ 0 0 0, .vfmul ⟨511, 4⟩ ⟨0, false⟩ 0 0 0,
    .vffma ⟨512, 0⟩ ⟨0, false⟩ 0 0 0 0, .vfmin ⟨511, 4⟩ ⟨0, false⟩ 0 0 0, .vfmax ⟨512, 0⟩ ⟨0, false⟩ 0 0 0,
    .vfabs ⟨511, 4⟩ ⟨0, false⟩ 0 0, .vfneg ⟨512, 0⟩ ⟨0, false⟩ 0 0, .vfrcp ⟨511, 4⟩ ⟨0, false⟩ 0 0,
    .vfrsq ⟨512, 0⟩ ⟨0, false⟩ 0 0, .vfexp ⟨511, 4⟩ ⟨0, false⟩ 0 0, .vflog ⟨512, 0⟩ ⟨0, false⟩ 0 0,
    .vfclt ⟨511, 4⟩ ⟨0, false⟩ 0 0 0, .vfceq ⟨512, 0⟩ ⟨0, false⟩ 0 0 0, .vfsel ⟨511, 4⟩ ⟨0, false⟩ 0 0 0 0] : List Instr).map Instr.wf = List.replicate 24 false := by
  decide +kernel

/-- A task slot outside its range makes an instruction ill-formed. -/
theorem test_wf_refuses_slot_5 : ([
    .vld ⟨512, 0⟩ ⟨0, false⟩ 0 0 0, .vst ⟨511, 4⟩ ⟨0, false⟩ 0 0 0, .vlds ⟨512, 0⟩ ⟨0, false⟩ 0 0 0,
    .vsts ⟨511, 4⟩ ⟨0, false⟩ 0 0 0, .vldx ⟨512, 0⟩ ⟨0, false⟩ 0 0 0, .vstx ⟨511, 4⟩ ⟨0, false⟩ 0 0 0,
    .vbcast ⟨512, 0⟩ ⟨0, false⟩ 0 0, .vmovs ⟨511, 4⟩ ⟨0, false⟩ 0 0 0, .vrsum ⟨512, 0⟩ ⟨0, false⟩ 0 0,
    .vrmax ⟨511, 4⟩ ⟨0, false⟩ 0 0, .vrisum ⟨512, 0⟩ ⟨0, false⟩ 0 0, .vperm ⟨511, 4⟩ ⟨0, false⟩ 0 0 0,
    .vscan ⟨512, 0⟩ ⟨0, false⟩ 0 0, .pcount ⟨511, 4⟩ ⟨0, false⟩ 0 0, .vfroma ⟨512, 0⟩ ⟨0, false⟩ 0 0,
    .atov ⟨511, 4⟩ ⟨0, false⟩ 0 0, .pand ⟨512, 0⟩ ⟨0, false⟩ 0 0 0, .por ⟨511, 4⟩ ⟨0, false⟩ 0 0 0,
    .pxor ⟨512, 0⟩ ⟨0, false⟩ 0 0 0, .pnot ⟨511, 4⟩ ⟨0, false⟩ 0 0, .pfroms ⟨512, 0⟩ ⟨0, false⟩ 0 0,
    .ptos ⟨511, 4⟩ ⟨0, false⟩ 0 0, .pfirst ⟨512, 0⟩ ⟨0, false⟩ 0 0,
    .mxm ⟨511, 4⟩ ⟨0, false⟩ 0 0 0 0 0 0 0 false false] : List Instr).map Instr.wf = List.replicate 24 false := by
  decide +kernel

/-- A task slot outside its range makes an instruction ill-formed. -/
theorem test_wf_refuses_slot_6 : ([
    .azero ⟨512, 0⟩ ⟨0, false⟩ 0, .aload ⟨511, 4⟩ ⟨0, false⟩ 0 0 0, .astore ⟨512, 0⟩ ⟨0, false⟩ 0 0 0,
    .astn ⟨511, 4⟩ ⟨0, false⟩ 0 0 0 0 0 false, .dld ⟨512, 0⟩ ⟨0, false⟩ 0 0, .dst ⟨511, 4⟩ ⟨0, false⟩ 0 0,
    .dinv ⟨512, 0⟩ ⟨0, false⟩ 0, .gather ⟨511, 4⟩ ⟨0, false⟩ 0 0, .scatter ⟨512, 0⟩ ⟨0, false⟩ 0 0,
    .segred ⟨511, 4⟩ ⟨0, false⟩ 0 0 0, .combine ⟨512, 0⟩ ⟨0, false⟩ 0 0, .scopy ⟨511, 4⟩ ⟨0, false⟩ 0 0,
    .pfsched ⟨512, 0⟩ ⟨0, false⟩ 0 0, .shuf ⟨511, 4⟩ ⟨0, false⟩ 0 0, .sample ⟨512, 0⟩ ⟨0, false⟩ 0 0,
    .dedup ⟨511, 4⟩ ⟨0, false⟩ 0 0, .skey ⟨512, 0⟩ ⟨0, false⟩ 0 0, .predict ⟨511, 4⟩ ⟨0, false⟩ 0 0,
    .bmchk ⟨512, 0⟩ ⟨0, false⟩ 0 0, .bmexp ⟨511, 4⟩ ⟨0, false⟩ 0 0,
    .cvtnRegister ⟨512, 0⟩ ⟨0, false⟩ 0 0 0 0 0 false, .cvtnMemory ⟨511, 4⟩ ⟨0, false⟩ 0 0 0 0 0 0 0 false,
    .cvtwRegister ⟨512, 0⟩ ⟨0, false⟩ 0 0 0 0, .cvtwMemory ⟨511, 4⟩ ⟨0, false⟩ 0 0 0 0 0 0 0] : List Instr).map Instr.wf = List.replicate 24 false := by
  decide +kernel

/-- A task slot outside its range makes an instruction ill-formed. -/
theorem test_wf_refuses_slot_7 : ([
    .split ⟨512, 0⟩ ⟨0, false⟩ 0 0 false, .join ⟨511, 4⟩ ⟨0, false⟩ 0 0 0,
    .splitx ⟨512, 0⟩ ⟨0, false⟩ 0 0 0 0 false, .joinx ⟨511, 4⟩ ⟨0, false⟩ 0 0 0, .wait ⟨512, 0⟩ ⟨0, false⟩ 0,
    .signal ⟨511, 4⟩ ⟨0, false⟩ 0 0, .signalAll ⟨512, 0⟩ ⟨0, false⟩ 0, .arrive ⟨511, 4⟩ ⟨0, false⟩ 0,
    .cwait ⟨512, 0⟩ ⟨0, false⟩ 0 0, .mfence ⟨511, 4⟩ ⟨0, false⟩, .rkey ⟨512, 0⟩ ⟨0, false⟩ 0 0,
    .rdk ⟨511, 4⟩ ⟨0, false⟩ 0 0, .rinit ⟨512, 0⟩ ⟨0, false⟩ 0, .rdr ⟨511, 4⟩ ⟨0, false⟩ 0,
    .entry ⟨512, 0⟩ ⟨0, false⟩ 0, .halt ⟨511, 4⟩ ⟨0, false⟩, .yield ⟨512, 0⟩ ⟨0, false⟩,
    .rdinfo ⟨511, 4⟩ ⟨0, false⟩ 0 0, .phase ⟨512, 0⟩ ⟨0, false⟩ 0, .loss ⟨511, 4⟩ ⟨0, false⟩ 0 0 0,
    .ifence ⟨512, 0⟩ ⟨0, false⟩, .nop ⟨511, 4⟩ ⟨0, false⟩, .holdWindowExpiry ⟨512, 0⟩, .waitPoolResend ⟨511, 4⟩] : List Instr).map Instr.wf = List.replicate 24 false := by
  decide +kernel

/-- One operand at the first value outside its range makes a command ill-formed. -/
theorem test_wf_refuses_1 : ([
    .ucieLaneFailure 14 0 [], .ucieLaneFailure 0 8 [], .ucieLaneFailure 0 0 [64], .thermalSample [(640, 0)],
    .pllLossOfLock 0 1, .pllLossOfLock 6 0, .pllLockRetry 0 1 false, .pllLockRetry 6 0 false,
    .pacerToken 512 false, .intakeWrite 1024 0 [0], .intakeWrite 0 0 [], .intakeWrite 0 4194304 [0],
    .queueSpaceAcceptance 1024, .run 1024, .ordinalPlacement 1024 0 0 0, .ordinalPlacement 0 0 512 0,
    .ordinalPlacement 0 0 0 512, .copy 1024, .fence 1024, .querySequenceState 1024, .queryContextCounters 1024,
    .queryModuleIdentity 1024, .abort 1024, .abortFinish 1024] : List Instr).map Instr.wf = List.replicate 24 false := by
  decide +kernel

/-- One operand at the first value outside its range makes a command ill-formed. -/
theorem test_wf_refuses_2 : ([
    .hotset 1024, .migrate 1024, .tallyDump 1024, .sealStep 1024, .replayRestoreReexecute 1024,
    .replayRestoreOnly 1024, .replayCheckOnly 1024, .parcelFinish 1024 0, .completionRecordWrite 1024,
    .ringConsumedWrite 1024 0, .contextOpen 1024 0 false, .contextReset 1024, .contextResetComplete 1024,
    .intakeRewind 1024, .faultRecordClear 1024, .ctxSnapshot 1024, .bar4Read 0 0 false, .bar4Write 0 [],
    .registerWrite ⟨.bar0, 67108864, 1⟩ 0, .registerWrite ⟨.bar0, 0, 0⟩ 0, .sidebandCap 65536, .dieReset 8, .taskSave 512 .fence,
    .taskRestore 1024 0 0 0] : List Instr).map Instr.wf = List.replicate 24 false := by
  decide +kernel

/-- One operand at the first value outside its range makes a command ill-formed. -/
theorem test_wf_refuses_3 : ([
    .taskRestore 0 0 0 512, .leaseExpiry 65536, .tallyReset 65536 0, .tallyReset 0 65536, .tallySnapshot 65536,
    .handSetSignal 65536 0, .handSetSignal 0 65536, .handSetCount 65536 0, .handSetCount 0 65536,
    .checkSlotBind 4096, .checkSlotUnbind 4096, .arrivalBatch 4096 0, .arrivalBatch 0 8,
    .checkComplete 32 (headOf 4 3 0) 0 0, .checkRelease 32 (headOf 4 3 0) 0 0, .checkClose 32 (headOf 4 3 0) 0 0,
    .checkClosed 32 (headOf 4 3 0) 0 0, .checkRelease2 32 (headOf 4 3 0) 0 0, .checkBreak 32 (headOf 4 3 0) 0 0, .portEnable 32,
    .portDisable 32, .portRetrain 32, .signalDetect 32, .trainComplete 32 0] : List Instr).map Instr.wf = List.replicate 24 false := by
  decide +kernel

/-- One operand at the first value outside its range makes a command ill-formed. -/
theorem test_wf_refuses_4 : ([
    .portStateTimeout 32, .alignComplete 32, .lossOfSignal 32, .capability 32 ⟨headOf 6 3 0, 0⟩ false 0 0, .idle 32 (headOf 0 0 0),
    .embeddingRequest 32 (headOf 1 0 0) 0 0 0, .linkReply 32 (headOf 2 1 0) 0 [], .contribution 32 (headOf 3 2 0) 0 0 0 [],
    .directWrite 32 (headOf 3 2 0) 0 0 0 [0], .directWrite 0 (headOf 3 2 0) 0 0 0 [], .withdrawal 32 (headOf 3 2 0) 0 0,
    .paceNotice 32 (headOf 5 3 0) 0 0 0, .paceNoticeExpiry 4096, .ack 32 ⟨headOf 6 3 0, 0⟩, .nak 32 ⟨headOf 6 3 0, 0⟩, .credit 32 0 ⟨headOf 6 3 0, 0⟩, .credit 0 8 ⟨headOf 6 3 0, 0⟩,
    .ackTimer 32, .linkReplayTimeout 32, .bundleResume 4 false, .estimateInterval 10, .weirInterval 8,
    .hostCapWrite 65536, .droopWarning 8 0] : List Instr).map Instr.wf = List.replicate 24 false := by
  decide +kernel

/-- One operand at the first value outside its range makes a command ill-formed. -/
theorem test_wf_refuses_5 : ([
    .droopWarning 0 4, .droopRecoveryHoldExpiry 8 0 0 0, .droopRecoveryHoldExpiry 0 4 0 0, .droopReset 8 0,
    .droopReset 0 4, .paceNoticeResend 8, .translationInvalidate 1024 16, .translationInvalidate 0 15,
    .translationInvalidate 0 58, .ingest 16, .trim 16, .ingestComplete 16 false, .readDisturbRelocation 32 0,
    .readDisturbRelocation 0 (2 ^ 24), .retentionRefresh 32 0, .retentionRefresh 0 (2 ^ 24),
    .badBlockRetirement 32 0, .badBlockRetirement 0 (2 ^ 24), .install 1024, .evict 1024, .move 1024,
    .automaticReplayRestore 1024, .automaticReplayReexecute 1024, .automaticReplayResume 1024] : List Instr).map Instr.wf = List.replicate 24 false := by
  decide +kernel

/-- One operand at the first value outside its range makes a command ill-formed. -/
theorem test_wf_refuses_6 : ([
    .fenceRequest 256 0, .fenceRequest 0 (2 ^ 32), .bistRequest 256 0, .bistRequest 0 (2 ^ 32),
    .bistComplete ⟨false, [64]⟩, .dieResetComplete 8, .flitCrcFailure 32 false] : List Instr).map Instr.wf = List.replicate 7 false := by
  decide +kernel

/-- The same commands with every operand in range are well-formed. -/
theorem test_wf_accepts_1 : ([
    .ucieLaneFailure 0 0 [], .thermalSample [], .pllLossOfLock 0 0, .pllLockRetry 0 0 false,
    .pacerToken 0 false, .intakeWrite 0 0 [0], .queueSpaceAcceptance 0, .run 0, .ordinalPlacement 0 0 0 0,
    .copy 0, .fence 0, .querySequenceState 0, .queryContextCounters 0, .queryModuleIdentity 0, .abort 0,
    .abortFinish 0, .hotset 0, .migrate 0, .tallyDump 0, .sealStep 0, .replayRestoreReexecute 0,
    .replayRestoreOnly 0, .replayCheckOnly 0, .parcelFinish 0 0] : List Instr).map Instr.wf = List.replicate 24 true := by
  decide +kernel

/-- The same commands with every operand in range are well-formed. -/
theorem test_wf_accepts_2 : ([
    .completionRecordWrite 0, .ringConsumedWrite 0 0, .contextOpen 0 0 false, .contextReset 0,
    .contextResetComplete 0, .intakeRewind 0, .faultRecordClear 0, .ctxSnapshot 0, .bar4Read 0 1 false,
    .bar4Write 0 [0], .registerWrite ⟨.bar0, 0, 1⟩ 0, .sidebandCap 0, .dieReset 0, .taskSave 0 .fence,
    .taskRestore 0 0 0 0, .leaseExpiry 0, .tallyReset 0 0, .tallySnapshot 0, .handSetSignal 0 0,
    .handSetCount 0 0, .checkSlotBind 0, .checkSlotUnbind 0, .arrivalBatch 0 0, .checkComplete 0 (headOf 4 3 0) 0 0] : List Instr).map Instr.wf = List.replicate 24 true := by
  decide +kernel

/-- The same commands with every operand in range are well-formed. -/
theorem test_wf_accepts_3 : ([
    .checkRelease 0 (headOf 4 3 0) 0 0, .checkClose 0 (headOf 4 3 0) 0 0, .checkClosed 0 (headOf 4 3 0) 0 0, .checkRelease2 0 (headOf 4 3 0) 0 0,
    .checkBreak 0 (headOf 4 3 0) 0 0, .portEnable 0, .portDisable 0, .portRetrain 0, .signalDetect 0, .trainComplete 0 0,
    .portStateTimeout 0, .alignComplete 0, .lossOfSignal 0, .capability 0 ⟨headOf 6 3 0, 0⟩ false 0 0, .idle 0 (headOf 0 0 0),
    .embeddingRequest 0 (headOf 1 0 0) 0 0 0, .linkReply 0 (headOf 2 1 0) 0 [], .contribution 0 (headOf 3 2 0) 0 0 0 [],
    .directWrite 0 (headOf 3 2 0) 0 0 0 [0], .withdrawal 0 (headOf 3 2 0) 0 0, .paceNotice 0 (headOf 5 3 0) 0 0 0, .paceNoticeExpiry 0,
    .ack 0 ⟨headOf 6 3 0, 0⟩, .nak 0 ⟨headOf 6 3 0, 0⟩] : List Instr).map Instr.wf = List.replicate 24 true := by
  decide +kernel

/-- The same commands with every operand in range are well-formed. -/
theorem test_wf_accepts_4 : ([
    .credit 0 0 ⟨headOf 6 3 0, 0⟩, .ackTimer 0, .linkReplayTimeout 0, .bundleResume 0 false, .estimateInterval 0,
    .weirInterval 0, .hostCapWrite 0, .droopWarning 0 0, .droopRecoveryHoldExpiry 0 0 0 0, .droopReset 0 0,
    .paceNoticeResend 0, .translationInvalidate 0 16, .ingest 0, .trim 0, .ingestComplete 0 false,
    .readDisturbRelocation 0 0, .retentionRefresh 0 0, .badBlockRetirement 0 0, .install 0, .evict 0, .move 0,
    .automaticReplayRestore 0, .automaticReplayReexecute 0, .automaticReplayResume 0] : List Instr).map Instr.wf = List.replicate 24 true := by
  decide +kernel

/-- The same commands with every operand in range are well-formed. -/
theorem test_wf_accepts_5 : ([
    .fenceRequest 0 0, .bistRequest 0 0, .bistComplete ⟨false, []⟩, .dieResetComplete 0, .flitCrcFailure 0 false] : List Instr).map Instr.wf = List.replicate 5 true := by
  decide +kernel

/-! ### Words of instructions, bit by bit from Tables 4.4 to 4.16 -/

def w0 : Who := ⟨0, 0⟩

/-- The common fields of a word (Table 4.4) before its 44 operand bits. -/
def word (major : BitVec 6) (minor : BitVec 4) (guard : BitVec 3) (sense : BitVec 1) (group : BitVec 3)
    (operands : BitVec 44) : Word := major ++ minor ++ guard ++ sense ++ group ++ 0#3 ++ operands

/-- Operand formats of Table 4.5. -/
def rr (rd ra rb rc : BitVec 6) (func : BitVec 12) : BitVec 44 := rd ++ ra ++ rb ++ rc ++ func ++ 0#8
def ri (rd ra : BitVec 6) (imm : W32) : BitVec 44 := rd ++ ra ++ imm
def st (d : BitVec 4) (ra rb rc : BitVec 6) (func : BitVec 12) (last : BitVec 10) : BitVec 44 :=
  d ++ ra ++ rb ++ rc ++ func ++ last
def mx (tile : BitVec 3) (ra : BitVec 6) (d : BitVec 4) (depth : BitVec 6) (span : BitVec 3) (acc wt : BitVec 1) :
    BitVec 44 := tile ++ ra ++ d ++ depth ++ span ++ acc ++ wt ++ 0#20

/-- The example of 04_selod_isa.md: addi s5, s5, 64 is 0x0800_0145_0000_0040. -/
theorem test_decode_example :
    decodeSelod false w0 0x0800014500000040 = some (.addi w0 ⟨0, false⟩ 5 5 64)
    ∧ word 0x02 0x0 0 0 0 (ri 5 5 64) = 0x0800014500000040 := by decide +kernel

/-- Majors 0x01 to 0x05, Table 4.7. -/
theorem test_decode_scalar :
    [word 0x01 0x1 3 1 0 (rr 63 1 2 0 0), word 0x01 0xF 0 0 0 (rr 4 9 0 0 0), word 0x02 0xF 0 0 0 (ri 7 0 0xFFFFFFFF),
      word 0x03 0x2 0 0 0 (ri 1 2 0xFFFFFFFC), word 0x03 0xF 1 0 0 (ri 3 4 8), word 0x04 0x0 0 0 0 (ri 5 6 0xFFFFFFFE),
      word 0x04 0x6 0 0 0 (ri 31 0 4), word 0x04 0x7 0 0 0 (ri 0 31 0), word 0x05 0x3 0 0 0 (rr 1 2 3 4 0),
      word 0x05 0x7 0 0 0 (rr 8 9 0 0 0)].map (decodeSelod false w0) =
    [some (.sub w0 ⟨3, true⟩ 63 1 2), some (.popc w0 ⟨0, false⟩ 4 9), some (.movh w0 ⟨0, false⟩ 7 0xFFFFFFFF),
      some (.ld32 w0 ⟨0, false⟩ 1 2 0xFFFFFFFC), some (.cst64 w0 ⟨1, false⟩ 3 4 8),
      some (.beq w0 ⟨0, false⟩ 5 6 0xFFFFFFFE), some (.jal w0 ⟨0, false⟩ 31 4), some (.jr w0 ⟨0, false⟩ 31 0),
      some (.ffma w0 ⟨0, false⟩ 1 2 3 4), some (.fcvtfi w0 ⟨0, false⟩ 8 9)] := by decide +kernel

/-- Majors 0x08 to 0x0C, Tables 4.8 and 4.9. -/
theorem test_decode_vector :
    [word 0x08 0xB 2 0 0 (rr 31 1 2 0 0), word 0x08 0xF 0 0 0 (rr 4 9 0 0 0), word 0x09 0x3 0 0 0 (rr 1 2 3 4 0),
      word 0x09 0xE 0 0 0 (rr 1 2 3 7 0), word 0x09 0xC 0 0 0 (rr 7 2 3 0 0), word 0x0A 0x0 0 0 0 (ri 6 40 12),
      word 0x0A 0x3 0 0 0 (rr 6 40 41 0 0), word 0x0A 0x5 0 0 0 (rr 6 40 30 0 0), word 0x0A 0x7 0 0 0 (rr 50 6 51 0 0),
      word 0x0B 0x0 1 1 0 (rr 50 6 0 0 0), word 0x0B 0x3 0 0 0 (rr 5 6 7 0 0), word 0x0B 0x6 0 0 0 (rr 5 0 60 0 0),
      word 0x0C 0x0 0 0 0 (rr 1 2 3 0 0), word 0x0C 0x5 0 0 0 (rr 60 2 0 0 0)].map (decodeSelod false w0) =
    [some (.vmax w0 ⟨2, false⟩ 31 1 2), some (.vpopcnt w0 ⟨0, false⟩ 4 9), some (.vffma w0 ⟨0, false⟩ 1 2 3 4),
      some (.vfsel w0 ⟨0, false⟩ 1 2 3 7), some (.vfclt w0 ⟨0, false⟩ 7 2 3), some (.vld w0 ⟨0, false⟩ 6 40 12),
      some (.vsts w0 ⟨0, false⟩ 6 40 41), some (.vstx w0 ⟨0, false⟩ 6 40 30), some (.vmovs w0 ⟨0, false⟩ 50 6 51),
      some (.vrsum w0 ⟨1, true⟩ 50 6), some (.vperm w0 ⟨0, false⟩ 5 6 7), some (.vfroma w0 ⟨0, false⟩ 5 60),
      some (.pand w0 ⟨0, false⟩ 1 2 3), some (.ptos w0 ⟨0, false⟩ 60 2)] := by decide +kernel

/-- Majors 0x10 to 0x1A, Tables 4.10, 4.11, 4.12 and 4.13. -/
theorem test_decode_asynchronous :
    [word 0x10 0x5 0 0 3 (mx 7 33 15 31 7 1 0), word 0x11 0x1 0 0 2 (rr 7 33 0 0 0),
      word 0x11 0x3 0 0 2 (rr 1 33 0 0 0x056), word 0x14 0x0 0 0 0 (st 15 33 0 0 0 0), word 0x14 0x2 0 0 0 (st 3 0 0 0 0 0),
      word 0x15 0x0 0 0 7 (st 9 0 0 0 0 0), word 0x15 0x2 0 0 1 (st 9 0 0 0 1 0), word 0x15 0x5 0 0 1 (st 2 0 0 0 0 0),
      word 0x18 0x1 0 0 1 (st 2 0 0 0 0 0), word 0x18 0x3 0 0 0 (st 0 10 11 0 0 0), word 0x1A 0x0 0 0 0 (rr 1 2 0 0 0x010),
      word 0x1A 0x0 0 0 2 (st 0 10 11 12 0x160 1), word 0x1A 0x2 0 0 0 (rr 1 2 0 0 1), word 0x1A 0x3 0 0 0 (rr 1 2 3 0 0),
      word 0x1C 0x1 0 0 4 (st 5 0 0 0 0 0)].map (decodeSelod false w0) =
    [some (.mxm w0 ⟨0, false⟩ 3 5 7 33 15 31 7 true false), some (.aload w0 ⟨0, false⟩ 2 7 33),
      some (.astn w0 ⟨0, false⟩ 2 1 33 6 1 true), some (.dld w0 ⟨0, false⟩ 15 33), some (.dinv w0 ⟨0, false⟩ 3),
      some (.gather w0 ⟨0, false⟩ 7 9), some (.segred w0 ⟨0, false⟩ 1 9 1), some (.pfsched w0 ⟨0, false⟩ 1 2),
      some (.sample w0 ⟨0, false⟩ 1 2), some (.skey w0 ⟨0, false⟩ 10 11), some (.cvtnRegister w0 ⟨0, false⟩ 1 2 0 0 1 false),
      some (.cvtnMemory w0 ⟨0, false⟩ 2 10 11 12 0 6 1 false), some (.split w0 ⟨0, false⟩ 1 2 true),
      some (.join w0 ⟨0, false⟩ 1 2 3), some (.bmchk w0 ⟨0, false⟩ 4 5)] := by decide +kernel

/-- Majors 0x1D to 0x1F, Tables 4.14 to 4.16. -/
theorem test_decode_system :
    [word 0x1D 0x0 0 0 0 (ri 5 0 0), word 0x1D 0x1 0 0 0 (ri 5 6 0), word 0x1D 0x3 0 0 0 (ri 0 0 7),
      word 0x1D 0x4 0 0 0 (ri 0 0 0x0203), word 0x1D 0x5 0 0 0 0, word 0x1E 0x0 0 0 0 (rr 0 1 2 0 0),
      word 0x1E 0x3 0 0 0 (rr 9 0 0 0 0), word 0x1F 0x0 0 0 0 (ri 0 0 0x42), word 0x1F 0x1 0 0 0 0,
      word 0x1F 0x3 0 0 0 (ri 9 0 1), word 0x1F 0x5 0 0 0 (ri 9 8 0x1014), word 0x1F 0x7 6 1 0 0].map
        (decodeSelod true w0) =
    [some (.wait w0 ⟨0, false⟩ 5), some (.signal w0 ⟨0, false⟩ 5 6), some (.arrive w0 ⟨0, false⟩ 7),
      some (.cwait w0 ⟨0, false⟩ 3 2), some (.mfence w0 ⟨0, false⟩), some (.rkey w0 ⟨0, false⟩ 1 2),
      some (.rdr w0 ⟨0, false⟩ 9), some (.entry w0 ⟨0, false⟩ 0x42), some (.halt w0 ⟨0, false⟩),
      some (.rdinfo w0 ⟨0, false⟩ 9 1), some (.loss w0 ⟨0, false⟩ 9 8 0x1014), some (.nop w0 ⟨6, true⟩)] := by
  decide +kernel

/-- Malformed words (R93 to R96): the zero word, a group in a synchronous instruction, a reserved bit, a field beyond its
state, an unused field, a reserved minor, and a level 2 instruction at level 1. -/
theorem test_decode_malformed :
    [0, word 0x01 0x0 0 0 1 (rr 1 2 3 0 0), word 0x01 0x0 0 0 0 (rr 1 2 3 0 0) + 2 ^ 44, word 0x08 0x0 0 0 0 (rr 32 1 2 0 0),
      word 0x01 0x0 0 0 0 (rr 1 2 3 4 0), word 0x05 0x8 0 0 0 (rr 1 2 3 0 0), word 0x06 0x0 0 0 0 0,
      word 0x30 0x0 0 0 0 0, word 0x1E 0x0 0 0 0 (rr 0 1 2 0 0), word 0x15 0x3 0 0 0 (st 1 0 0 0 0 0)].map
        (decodeSelod false w0) = List.replicate 10 none := by decide +kernel

/-! ### Values that the spec or a published definition gives -/

/-- The check value of CRC-32C: that of the nine digits 1 to 9. -/
theorem test_crc32c : crc32c [0x31, 0x32, 0x33, 0x34, 0x35, 0x36, 0x37, 0x38, 0x39] = 0xE3069283 := by decide +kernel

/-- SHA-512 of abc (FIPS 180-4), its first and last eight bytes. -/
theorem test_sha512 : (sha512 [0x61, 0x62, 0x63]).take 8 = [0xDD, 0xAF, 0x35, 0xA1, 0x93, 0x61, 0x7A, 0xBA]
    ∧ (sha512 [0x61, 0x62, 0x63]).drop 56 = [0x2A, 0x9A, 0xC9, 0x4F, 0xA5, 0x4C, 0xA4, 0x9F] := by decide +kernel

/-- XXH64 of no bytes. -/
theorem test_xxh64 : xxh64 [] = 0xEF46DB3751D8E999 := by decide +kernel

/-- An LZ4 block: one literal, a match of six at distance 1, five literals. -/
theorem test_lz4 : lz4Block [0x12, 0x61, 0x01, 0x00, 0x50, 0x62, 0x62, 0x62, 0x62, 0x62] 12
    = some (List.replicate 7 0x61 ++ List.replicate 5 0x62) := by decide +kernel

/-- A Zstandard frame (RFC 8878): single segment, a raw block of five bytes and a block of one byte repeated thrice. -/
theorem test_zstd : decompress 2 0 [] [0x28, 0xB5, 0x2F, 0xFD, 0x20, 0x08, 0x28, 0x00, 0x00, 0x68, 0x65, 0x6C, 0x6C, 0x6F,
    0x1B, 0x00, 0x00, 0x7A] 8 = some [0x68, 0x65, 0x6C, 0x6C, 0x6F, 0x7A, 0x7A, 0x7A] := by decide +kernel

/-- The paths that R20 gives: CD0 to CD7 and CD0 to IOD1. -/
theorem test_fabric_path : fabricPath 0 7 = [0, 1, 2, 3, 7] ∧ fabricPath 0 9 = [0, 1, 2, 3, 9] := by decide +kernel

/-- FP32 sums round to nearest even, and an overflow is an infinity (R222, R224). -/
theorem test_fp32_rounding : fadd 0x3F800000 0x33800000 = 0x3F800000 ∧ fadd 0x3F800001 0x33800000 = 0x3F800002
    ∧ fmul 0x7F000000 0x40000000 = 0x7F800000 ∧ fadd 0x7F800000 0xFF800000 = 0x7FC00000 := by decide +kernel

/-- The stochastic rounding of the example of 08_numerics.md: 3.3125 under scale 129 becomes 0x36 with a draw of 0xD000 and
0x35 with one of 49,151; the scale of a block whose largest magnitude is 1,000 is 129. -/
theorem test_stochastic_example :
    narrowFmt fmtE4M3 (.stochastic 53248) (.fin false 53 (-6)) = (0x36, ⟨0, 0⟩)
    ∧ narrowFmt fmtE4M3 (.stochastic 49151) (.fin false 53 (-6)) = (0x35, ⟨0, 0⟩)
    ∧ blockScale fmtE4M3 [.fin false 1000 0, .fin false 53 (-4)] = 129 := by decide +kernel

/-- A save area's lane: the example of 04_selod_isa.md puts v3 lane 10 of task 301 at 0x40_02A5_5328. -/
theorem test_save_area_example : 0x4000000000 + 301 * 0x24000 + 0x1000 + 256 * 3 + 4 * 10 = 0x4002A55328 := by decide

/-! ### States that meet the hypotheses of the statements -/

def g0 : Guard := ⟨0, false⟩
def gOff : Guard := ⟨0, true⟩

/-- An active module with its host link up. -/
def up : State :=
  { State.reset with
    power := { Power.reset with phase := .active, vaux := true, vmain := true, converting := true, perst := false,
                                ready := true, vmainMv := 48000 }
    hg := { Headgate.reset with linkUp := true }
    dies := (List.range 10).map fun d => (d, { Die.reset with up := true }) }

def task0 : Machine.Task :=
  { ctx := 1, hostSeq := 1, taskIndex := 0, ordinal := 0, pc := 0x1000, entered := true, level := 1, width := .l64,
    footprint := 65536, step := 0, status := .ready, waitTally := 0, sregs := [], vregs := [], preds := [], tiles := [],
    descs := [], keySeed := 0, keyStream := 0, rng := [], rngFree := 0, groups := [] }

/-- The same task with scalar registers 1, 2 and 3 set. -/
def taskOf (a b c : Word) : Machine.Task := { task0 with sregs := [(1, a), (2, b), (3, c)] }
def task2 : Machine.Task := { task0 with level := 2 }

def parcel0 : Parcel :=
  { hostSeq := 1, first := 0, kind := 1, quiet := false, irq := false, serial := false, payload := [], acceptedAt := 0,
    progress := .started, failure := none, address := 0, dropped := 0, nonfinite := false, fallback := false,
    capped := false, replayed := false, silent := false, again := false, claimed := none, sample := [], header := none, unplaced := [],
    running := 1, pastEntry := false, entriesDone := 0, placeless := false }

def ctx1 : Ctx :=
  { Ctx.reset with
    phase := .opened, parcels := [parcel0]
    regs := { CtRegs.reset with enable := true, level := 1, recordVersion := 1, log2Entries := 6, ringBase := 0x10000,
                                ptRoot := 0x100000 } }

/-- Page tables at 1 MiB of the near tier: addresses 0, 64, 128 and 192 KiB lie in the near, far, host and flash tier. -/
def tables : List Host.Cell :=
  ([(0x100000, 0x101001), (0x101000, 0x102001), (0x102000, 0x103001), (0x103000, 0x104001), (0x104000, 0x2000E3),
    (0x104008, 0x3000EB), (0x104010, 0x4000F3), (0x104018, 0x5000FB)] : List (Nat × Nat)).foldl
      (fun m e => Memory.write m e.1 (leBytes 8 e.2)) []

/-- The module with a task in slot 0 of core 0, some bytes in its cistern and at the start of the near page. -/
def runs (t : Machine.Task) : State :=
  { up with
    tasks := [(0, t)]
    ctxs := [(1, ctx1)]
    cores := [(0, { Core.reset with footprint := some 65536, cistern := cellsOf 0 [1, 2, 3, 4, 5, 6, 7, 8] })]
    mem := { Mem.reset with near := Memory.write tables 0x200000 [9, 8, 7, 6, 5, 4, 3, 2] } }

/-- O1, O6, O8, O9, O26: a task that can issue, with a guard that acts and one that does not. -/
theorem test_meets_ready : Ready (runs task0) w0 task0 ∧ task0.acts g0 = true ∧ task0.acts gOff = false
    ∧ Ready (runs task2) w0 task2 := by
  unfold Ready; decide +kernel

/-- O2: operands with which each comparison holds, and with which it does not. -/
theorem test_meets_branches :
    Ready (runs (taskOf (2 ^ 63) 1 1)) w0 (taskOf (2 ^ 63) 1 1)
    ∧ (taskOf (2 ^ 63) 1 1).sreg 2 = (taskOf (2 ^ 63) 1 1).sreg 3 ∧ (taskOf (2 ^ 63) 1 1).sreg 1 ≠ (taskOf (2 ^ 63) 1 1).sreg 2
    ∧ ((taskOf (2 ^ 63) 1 1).sreg 1).toInt < ((taskOf (2 ^ 63) 1 1).sreg 2).toInt
    ∧ ¬ ((taskOf (2 ^ 63) 1 1).sreg 1).toNat < ((taskOf (2 ^ 63) 1 1).sreg 2).toNat
    ∧ ((taskOf (2 ^ 63) 1 1).sreg 2).toNat < ((taskOf (2 ^ 63) 1 1).sreg 1).toNat
    ∧ ¬ ((taskOf (2 ^ 63) 1 1).sreg 2).toInt < ((taskOf (2 ^ 63) 1 1).sreg 1).toInt := by
  unfold Ready; decide +kernel

/-- O3: an instruction that is guarded off. -/
theorem test_meets_guarded_off :
    bit0Guarded (.add w0 gOff 1 2 3) = some (w0, gOff) ∧ bit0Guarded (.mfence w0 gOff) = some (w0, gOff)
    ∧ Ready (runs task0) w0 task0 ∧ task0.acts gOff = false := by
  unfold Ready; decide +kernel

def unentered : Machine.Task := { task0 with entered := false }
def waiting0 : Machine.Task := { task0 with status := .waitHeld }
def pcAt (a : Word) : Machine.Task := { task0 with pc := a }

/-- O4: a task before its ENTRY, a free slot and a task that cannot issue. -/
theorem test_meets_malformed :
    (runs unentered).task w0 = some unentered ∧ canIssue (runs unentered) w0 unentered = true
    ∧ unentered.entered = false ∧ (runs task0).task ⟨5, 0⟩ = none ∧ (runs waiting0).task w0 = some waiting0
    ∧ canIssue (runs waiting0) w0 waiting0 = false := by decide +kernel

/-- O4: a program counter that is not aligned, one that no table maps, one whose data is bad, and words of both kinds. -/
theorem test_meets_fetch :
    (runs (pcAt 0x1004)).task w0 = some (pcAt 0x1004) ∧ canIssue (runs (pcAt 0x1004)) w0 (pcAt 0x1004) = true
    ∧ (pcAt 0x1004).pc.toNat % 8 ≠ 0
    ∧ translateMem (runs task0) 1 (Use.of 2 nearFar) 0x40000 = .error (.violation 2 0 0x40000)
    ∧ translateMem (runs task0) 1 (Use.of 2 nearFar) 0xFFF8 = .ok (.near, 0x20FFF8)
    ∧ checkStore (runs task0) 0xFFF8 .near 0x20FFF8 8 = .ok ()
    ∧ checkStore { runs task0 with errs := [⟨1, 0, 0x20FFF8 / tierGranule .near⟩] } 0xFFF8 .near 0x20FFF8 8 ≠ .ok ()
    ∧ decodeSelod false w0 0 = none ∧ (decodeSelod false w0 0x0800014500000040).isSome = true := by
  decide +kernel

/-- A task with the words of its vector and predicate registers set. -/
def floats (a b c : Word) : Machine.Task := { taskOf a b c with vregs := [(0, 0x3F800000), (1, 0xFF800000)], preds := [(1, 0x5)] }

/-- O5: FP32 operands of each kind: 1.5, an infinity and a NaN. -/
theorem test_meets_scalar_float :
    Ready (runs (floats 0x3FC00000 0xFF800000 0x7FC00000)) w0 (floats 0x3FC00000 0xFF800000 0x7FC00000)
    ∧ f32 0x3FC00000 = .fin false 12582912 (-23) ∧ f32 0xFF800000 = .inf true ∧ f32 0x7FC00000 = .nan := by
  unfold Ready; decide +kernel

/-- O7, O9: lanes with an infinity; a guard that admits lanes, and one that admits none. -/
theorem test_meets_lanes :
    Ready (runs (floats 1 2 0)) w0 (floats 1 2 0)
    ∧ ((List.range (floats 1 2 0).lanes).filter fun l => (floats 1 2 0).guardBit ⟨1, false⟩ l) = [0, 2]
    ∧ ((List.range (floats 1 2 0).lanes).filter fun l => (floats 1 2 0).guardBit ⟨2, false⟩ l) = []
    ∧ (((floats 1 2 0).pred 1).getLsbD ((floats 1 2 0).sreg 2).toNat != false) = true
    ∧ (((floats 1 2 0).pred 1).getLsbD ((floats 1 2 0).sreg 1).toNat != false) = false := by
  unfold Ready; decide +kernel

/-- O10: the last aligned word of the near page; a bad granule; a misaligned address; an address that no table maps, and one
of the flash tier. -/
theorem test_meets_loads :
    translateMem (runs task0) 1 (Use.of 0 nearFarHost) 0xFFF8 = .ok (.near, 0x20FFF8)
    ∧ checkStore (runs task0) 0xFFF8 .near 0x20FFF8 8 = .ok ()
    ∧ checkStore { runs task0 with errs := [⟨1, 0, 0x20FFF8 / 32⟩] } 0xFFF8 .near 0x20FFF8 8 ≠ .ok ()
    ∧ (taskOf 0xFFFF 0 0).sreg 1 + (0 : W32).signExtend 64 = 0xFFFF ∧ 0xFFFF % 8 ≠ 0
    ∧ walkFrom (runs task0) 1 (Use.of 0 nearFarHost) 0x40000 = .error (.violation 0 0 0x40000)
    ∧ walkFrom (runs task0) 1 (Use.of 0 nearFarHost) 0x30000 = .error (.violation 0 2 0x30000) := by
  decide +kernel

/-- O11, O12: a store to the host page; one that no seal and no copy holds back. -/
theorem test_meets_stores :
    (runs task0).memoriesOk = true ∧ translateMem (runs task0) 1 useWrite 0x2FFF8 = .ok (.host, 0x40FFF8)
    ∧ translateMem (runs task0) 1 useWrite 0x2FFC0 = .ok (.host, 0x40FFC0)
    ∧ uncopiedOwner (runs task0) .host (0x40FFF8 / 65536) = none ∧ heldBy (runs task0) w0 = false
    ∧ walkFrom (runs task0) 1 useWrite 0x40000 = .error (.violation 1 0 0x40000) := by decide +kernel

/-- O13, O14: the last word of the footprint, the first beyond it, and words whose parity fails. -/
theorem test_meets_cistern :
    Ready (runs (taskOf 65532 65533 1)) w0 (taskOf 65532 65533 1) ∧ 65532 + 4 ≤ task0.footprint ∧ task0.footprint < 65533 + 4
    ∧ 65530 + 4 ≤ task0.footprint ∧ 65530 % 4 ≠ 0 ∧ wordErr (runs task0) 0 65532 4 = false
    ∧ wordErr { runs task0 with errs := [⟨5, 0, 65532 / 4⟩] } 0 65532 4 = true := by
  unfold Ready; decide +kernel

/-- O14: in the form that steps through the lanes, the last lane of sixteen is the first to leave the footprint. -/
theorem test_meets_vector_cistern :
    lanesReach { taskOf 0 4096 0 with width := .l16 } g0 (fun l => (0 + BitVec.ofNat 64 l * (4096 : Word)).toNat)
    ∧ task0.footprint < ((0 : Word) + BitVec.ofNat 64 15 * (4400 : Word)).toNat + 4
    ∧ (∀ j, j < 15 → ((0 : Word) + BitVec.ofNat 64 j * (4400 : Word)).toNat + 4 ≤ task0.footprint) := by
  refine ⟨?_, by decide +kernel, by decide +kernel⟩
  intro l h
  by_cases hl : l < 16
  · revert h; revert l; decide +kernel
  · exfalso
    revert h
    simp [Task.guardBit, Task.lanes, hl]

def okay {α : Type} : Except Bad α → Bool
  | .ok _ => true
  | .error _ => false

/-- A task whose descriptor 0 names E4M3 operands in the cistern: a stationary tile at 0 and a panel at 1,024. -/
def mxmTask : Machine.Task :=
  { task0 with descs := [(0, BitVec.ofNat 512 (0xB1 + 2 ^ 8 + 2 ^ 16 + 2 ^ 32 + 1024 * 2 ^ 128))] }
def mxmOp : MxmOp := ⟨0, 0, 1, 1, true, false, (mxmTask.desc 0).toNat⟩

/-- O15: an MXM that the array takes as its fourth, its operands readable. -/
theorem test_meets_mxm :
    Ready (runs mxmTask) w0 mxmTask ∧ mxmTask.groups.get 0 7 < 255 ∧ ((runs mxmTask).core 0).mxmQueue.length < 4
    ∧ moveOn (runs mxmTask) w0 7 = false ∧ mxmOp.ok = true
    ∧ okay (mxmOp.read (issued w0 (runs mxmTask)) w0 mxmTask) = true
    ∧ [0, 0, 0].length < 4 := by
  unfold Ready; decide +kernel

/-- O16, O17: an accumulator move at the end of the footprint; ASTN of E4M3 and of MXFP8 at its last place. -/
theorem test_meets_accumulator :
    Ready (runs (taskOf 49152 0 0)) w0 (taskOf 49152 0 0) ∧ mxmInto (runs task0) w0 0 = false
    ∧ task0.groups.get 0 0 < 255 ∧ 49152 + 16384 ≤ task0.footprint ∧ 49152 % 4 = 0
    ∧ wordErr (runs task0) 0 49152 16384 = false ∧ (runs task0).memoriesOk = true
    ∧ packedBytes 3 256 = 256 ∧ 61440 + 16 * packedBytes 3 256 ≤ task0.footprint ∧ 61440 % 64 = 0
    ∧ 61184 + 16 * packedBytes 6 256 + 16 * (256 / (16 * 2 ^ 0)) ≤ task0.footprint ∧ 61184 % 64 = 0 := by
  unfold Ready; decide +kernel

/-- A task whose descriptor 0 copies n bytes of the cistern or of device memory to the cistern. -/
def copies (n src : Nat) (inCistern : Bool) : Machine.Task :=
  { task0 with descs := [(0, BitVec.ofNat 512
      (0x62 + (if inCistern then 2 ^ 8 else 0) + 2 ^ 9 + n * 2 ^ 32 + src * 2 ^ 128 + 4096 * 2 ^ 192))] }

/-- The state at the issue of an asynchronous instruction of group 1. -/
def startAt (s : State) (t : Machine.Task) : State :=
  { (issued w0 s).setTask w0 (t.join 1).advance with nextOp := s.nextOp + 1 }
def startOf (t : Machine.Task) : State := startAt (runs t) t
/-- The module whose flash page stands on channel 3. -/
def placed0 (t : Machine.Task) : State := { runs t with mt := { MemTier.reset with placed := [(0x500, 3)] } }

/-- O18: an SCOPY that is accepted, one with a bad descriptor, one whose source needs a part of the map that is not there;
a full group, and a sampler queue with a place. -/
theorem test_meets_stream :
    Ready (runs (copies 8 0 true)) w0 (copies 8 0 true) ∧ (copies 8 0 true).groups.get 0 1 < 255
    ∧ okay (scopyEffect w0 1 0 0 (copies 8 0 true) (startOf (copies 8 0 true))).2 = true
    ∧ (scopyEffect w0 1 0 0 (copies 0 0 true) (startOf (copies 0 0 true))).2 = .error (descFault 0)
    ∧ (scopyEffect w0 1 0 0 (copies 8 0x30000 false) (startAt (placed0 (copies 8 0x30000 false))
        (copies 8 0x30000 false))).2 = .error .wait
    ∧ ({ task0 with groups := [(1, 255)] } : Machine.Task).groups.get 0 1 = 255
    ∧ (samplerQueue (runs task0) 0).length < 64 := by
  unfold Ready; decide +kernel

/-- A level 2 task with descriptor 0. -/
def descs (n : Nat) : Machine.Task := { task2 with descs := [(0, BitVec.ofNat 512 n)] }
/-- In the near page: a list of two equal indices, bounds of one segment of two edges, a mask tile of one element, a graph of four
nodes without edges, and a hop of one edge. -/
def listed0 : List Host.Cell :=
  ([(0x200040, 8, 3 + 3 * 2 ^ 32), (0x200080, 8, 2 * 2 ^ 32), (0x203000, 32, 2 + 2 ^ 13 + 2 ^ 48 + 32 * 2 ^ 64 + 2 ^ 128 + 2 ^ 192),
    (0x203800, 128, 1 + 4 * 2 ^ 32 + 0x3A00 * 2 ^ 128), (0x203C00, 16, 2 ^ 8)] : List (Nat × Nat × Nat)).foldl
      (fun m e => Memory.write m e.1 (leBytes e.2.1 e.2.2)) (Memory.write tables 0x200000 [9, 8, 7, 6, 5, 4, 3, 2])
def acting (n : Nat) : State := { runs (descs n) with mem := { Mem.reset with near := listed0 } }
def issuing (n : Nat) : State := startAt (acting n) (descs n)
/-- What ReadsNear and WritesNear ask for, of every list of tiers that these statements use. -/
def near0 (s : State) (a n b : Nat) : Bool :=
  decide (range s 1 (Use.of 0 anyTier) a n = .ok [(.near, b, n)]) && decide (range s 1 (Use.of 0 nearFar) a n = .ok [(.near, b, n)])
    && decide (checkStore s a .near b n = .ok ())
def dest0 (s : State) (a n b : Nat) : Bool :=
  decide (range s 1 (Use.of 1 nearFarHost) a n = .ok [(.near, b, n)]) && decide (range s 1 (Use.of 1 nearFar) a n = .ok [(.near, b, n)])
    && decide (rangeDown s .near b n = none) && decide (uncopiedOwner s .near (b / 65536) = none)

def scopyWord (cis : Bool) : Nat := 0x61 + (if cis then 3 * 2 ^ 8 else 0) + 8 * 2 ^ 32 + 0x1028 * 2 ^ 192
def rowWord (kind rows : Nat) (isLocal : Bool) : Nat :=
  1 + kind * 16 + 2 ^ 18 + (if isLocal then 2 ^ 19 else 0) + 16 * 2 ^ 32 + 2 ^ 64 + rows * 2 ^ 96 + 0x1000 * 2 ^ 160 + 0x40 * 2 ^ 224
    + 0x2000 * 2 ^ 288
def combineWord : Nat := 0x42 + 16 * 2 ^ 32 + 2 * 2 ^ 64 + 8 * 2 ^ 96 + 0x40 * 2 ^ 192 + 0x2000 * 2 ^ 256 + 0x1000 * 2 ^ 320

/-- O19: an SCOPY in the cistern and one in the near tier; a SCATTER whose index is the last row and one past it; a COMBINE of two
rows of one key. -/
theorem test_meets_stream_rows :
    Ready (acting (scopyWord true)) w0 (descs (scopyWord true)) ∧ (acting 0).memoriesOk = true
    ∧ (dieEngines (issuing 0) 0).isEmpty = false ∧ copyOk (scopyWord true) = true ∧ 0x1028 + 8 ≤ task0.footprint
    ∧ wordErr (issuing (scopyWord true)) 0 0 8 = false ∧ copyOk (scopyWord false) = true
    ∧ meetsWindow (issuing (scopyWord false)) 1 0 8 = false ∧ near0 (issuing (scopyWord false)) 0 8 0x200000 = true
    ∧ dest0 (issuing (scopyWord false)) 0x1028 8 0x201028 = true
    ∧ scatterOk (descs 0) (rowWord 2 4 false) = true ∧ windowOf (issuing (rowWord 2 4 false)) 1 (Use.of 1 anyTier) 0x1000 = none
    ∧ near0 (issuing (rowWord 2 4 false)) 0x40 4 0x200040 = true ∧ leNat ((acting 0).near 0x200040 4) = 3
    ∧ near0 (issuing (rowWord 2 4 false)) 0x2000 64 0x202000 = true ∧ dest0 (issuing (rowWord 2 4 false)) 0x10C0 64 0x2010C0 = true
    ∧ scatterOk (descs 0) (rowWord 2 3 false) = true ∧ (gatherDescOf (rowWord 2 3 false)).drop = true
    ∧ combineOk combineWord = true ∧ windowOf (issuing combineWord) 1 (Use.of 1 anyTier) 0x1000 = none
    ∧ near0 (issuing combineWord) 0x40 8 0x200040 = true
    ∧ (∀ i ∈ List.range 2, entryIndex 0 true (leNat ((acting 0).near (0x200040 + 4 * i) 4)) = 3)
    ∧ near0 (issuing combineWord) 0x2000 128 0x202000 = true ∧ dest0 (issuing combineWord) 0x10C0 64 0x2010C0 = true := by
  unfold Ready; decide +kernel

def bmexpWord : Nat := 0xD2 + 2 ^ 9 + 5 * 2 ^ 32 + 0x3000 * 2 ^ 64 + 0x100 * 2 ^ 128
def pfWord : Nat := 0xC2 + 2 ^ 8 + 4 * 2 ^ 32 + 2 * 2 ^ 64 + 100 * 2 ^ 80 + 0x1000 * 2 ^ 192 + 0x4000 * 2 ^ 256
def segWord : Nat := 0x31 + 2 ^ 12 + 16 * 2 ^ 32 + 2 ^ 64 + 0x80 * 2 ^ 128 + 0x2000 * 2 ^ 192 + 0x100 * 2 ^ 256
def predictWord : Nat := 0x72 + 2 ^ 20 + 2 ^ 32 + 2 * 2 ^ 48 + 4 * 2 ^ 64 + 0x2000 * 2 ^ 128 + 0x2100 * 2 ^ 192 + 0x2200 * 2 ^ 256
  + 0x1000 * 2 ^ 320

/-- O19: a mask tile for BMEXP and BMCHK; a GATHER into the cistern whose index is the last row and one past it; a schedule; a
segment of two edges; a prediction of four columns. -/
theorem test_meets_stream_lists :
    sparseDescOk bmexpWord = true
    ∧ okay (readSparse (engLoc (issuing bmexpWord) w0 (descs bmexpWord) false useRead) (engineOf (issuing bmexpWord) 0 0)
        (descs bmexpWord) 0x3000) = true
    ∧ okay (readSparse (readLoc (issuing bmexpWord) w0 (descs bmexpWord) false useRead) 127 (descs bmexpWord) 0x3000) = true
    ∧ gatherOk (descs 0) (rowWord 1 4 true) = true ∧ gatherOk (descs 0) (rowWord 1 3 true) = true
    ∧ (gatherDescOf (rowWord 1 3 true)).drop = true ∧ 0x2000 + 64 ≤ task0.footprint
    ∧ windowOf (issuing (rowWord 1 4 true)) 1 (Use.of 0 anyTier) 0x1000 = none
    ∧ near0 (issuing (rowWord 1 4 true)) 0x40 4 0x200040 = true
    ∧ range (issuing (rowWord 1 4 true)) 1 useRead 0x10C0 64 = .ok [(.near, 0x2010C0, 64)]
    ∧ pfOk (descs 0) pfWord = true ∧ pfListCheck (issuing pfWord) (descs pfWord) 0 pfWord = .ok ()
    ∧ segOk 0 segWord = true ∧ okay (readSegData (issuing segWord) w0 (descs segWord) (segDescOf 0 segWord)) = true
    ∧ 0x100 + 64 ≤ task0.footprint ∧ okay (predictTile w0 0 (descs predictWord) (issuing predictWord)) = true
    ∧ dest0 (issuing predictWord) 0x1000 32 0x201000 = true := by
  decide +kernel

def shufWord : Nat := 0x81 + 8 * 2 ^ 32 + 4 * 2 ^ 80 + 4 * 2 ^ 128 + 0x1000 * 2 ^ 192
def dedupWord : Nat := 0xA2 + 2 * 2 ^ 32 + 0x2000 * 2 ^ 64 + 0x1000 * 2 ^ 128 + 0x1100 * 2 ^ 192 + 0x1200 * 2 ^ 256
def sampleWord : Nat := 0x91 + 2 ^ 8 + 2 ^ 32 + 0x3800 * 2 ^ 64 + 0x2000 * 2 ^ 128 + 0x3C00 * 2 ^ 192 + 0x1000 * 2 ^ 256 + 16 * 2 ^ 320

/-- O19: the last positions of a permutation; two equal entries to a DEDUP; a SAMPLE of a node without edges. -/
theorem test_meets_sampling :
    samplersCheck (issuing shufWord) 0 = .ok () ∧ shufOk shufWord = true ∧ dest0 (issuing shufWord) 0x1000 32 0x201000 = true
    ∧ dedupOk dedupWord = true ∧ ReadsNear (issuing dedupWord) 1 [.near, .far, .flash] 0x2000 16 0x202000
    ∧ uniqueEntries ((List.range 2).map fun i => leNat ((acting 0).near (0x202000 + 8 * i) 8)) = [0]
    ∧ okay (do
        let s1 ← devWrite (issuing dedupWord) ((descs dedupWord).writer w0) (Use.of 1 nearFar) 0x1000 (leBytes 8 0)
        let s2 ← devWrite s1 ((descs dedupWord).writer w0) (Use.of 1 nearFar) 0x1100 (leBytes 4 0 ++ leBytes 4 0)
        devWrite s2 ((descs dedupWord).writer w0) (Use.of 1 nearFar) 0x1200 (leBytes 8 1)) = true
    ∧ okay (sampleEffect w0 1 0 0 (descs sampleWord) (issuing sampleWord)).2 = true := by
  unfold ReadsNear; decide +kernel

/-- A task whose scalar register 3 is a count word: two elements, source and destination in the cistern. -/
def converts : Machine.Task := taskOf 0 4096 (2 + 2 ^ 61 + 2 ^ 62)

/-- O20: FP32 to BF16 in memory, a count of zero, and a pair of formats that CVTN does not take. -/
theorem test_meets_memory_conversion :
    Ready (runs converts) w0 converts ∧ cvtMemFunc false true (cvtFunc 0 1 0 false) = true
    ∧ cvtMemFunc false true (cvtFunc 1 0 0 false) = false
    ∧ cvtCountOk (converts.sreg 3).toNat 16 false = true ∧ cvtCountOk 0 16 false = false
    ∧ (converts.sreg 1).toNat % max 1 (codeBits 0 / 8) = 0 ∧ (converts.sreg 2).toNat % max 1 (codeBits 1 / 8) = 0
    ∧ okay (readArray (startOf converts) w0 converts true 0 0 2 16) = true
    ∧ okay (writeArray (startOf converts) w0 converts true 1 4096 [0x3F80, 0x4000] []) = true := by
  unfold Ready; decide +kernel

/-- O21, O22: register forms that level 1 takes, and the level 2 ones. -/
theorem test_meets_register_conversion :
    cvtRegFunc false true (cvtFunc 0 3 0 true) = true ∧ cvtRegFunc false false (cvtFunc 3 0 0 false) = true
    ∧ task0.level = 1 ∧ task2.level ≠ 1 ∧ task2.acts g0 = true ∧ Ready (runs task2) w0 task2 := by
  unfold Ready; decide +kernel

/-- O23: an ENTRY with a reserved bit, at its last good value, of another level, with lane field 3, and with another
footprint than that of the core. -/
theorem test_meets_entry :
    (runs unentered).task w0 = some unentered ∧ canIssue (runs unentered) w0 unentered = true
    ∧ 4096 ≤ (0x1000 : W32).toNat ∧ (0xFFF : W32).toNat < 4096
    ∧ (0x002 : W32).toNat % 16 ≠ ((runs unentered).ctx 1).regs.level.toNat
    ∧ (0x031 : W32).toNat % 16 = ((runs unentered).ctx 1).regs.level.toNat ∧ (0x031 : W32).toNat / 16 % 4 = 3
    ∧ ((runs unentered).core 0).footprint = some 65536
    ∧ 65536 * ((0x041 : W32).toNat / 64 % 64 + 1) ≠ 65536 ∧ 65536 * ((0x021 : W32).toNat / 64 % 64 + 1) = 65536 := by
  decide +kernel

/-- O24, O25: a task with and without asynchronous instructions; the last items of RDINFO and PHASE and the first beyond. -/
theorem test_meets_halt_and_information :
    task0.groups.all (fun e => e.2 = 0) = true
    ∧ ({ task0 with groups := [(1, 2)] } : Machine.Task).groups.all (fun e => e.2 = 0) = false
    ∧ 4 < (5 : W32).toNat ∧ 5 < (6 : W32).toNat ∧ (5 : W32).toNat ≤ 5
    ∧ (0x12 : W32).toNat % 16 = 2 ∧ (0x12 : W32).toNat / 16 % 4 ≠ 0 ∧ (0x21 : W32).toNat / 16 % 4 ≠ 3 := by
  decide +kernel

/-- O25: the immediates of LOSS at their bounds; a first report, a later one, and one that is no finite number. -/
theorem test_meets_loss :
    Ready (runs task2) w0 task2 ∧ (0x3FF010 : W32).toNat % 16 = 0 ∧ (0x3FF001 : W32).toNat / 16 % 256 = 0
    ∧ 2 ^ 22 ≤ (0x400011 : W32).toNat ∧ (0x3FFFFF : W32).toNat < 2 ^ 22 ∧ ((runs task2).ctx 1).det.count = 0
    ∧ (⟨20, 0x40000000, 0x3F000000⟩ : Detector).count ≠ 0 ∧ nonfin 0x7F800000 = true ∧ nonfin 0x44000000 = false := by
  unfold Ready; decide +kernel

/-- A write of the task of slot w0 that waits for a first-touch copy. -/
def heldOne (s : State) : State := { s with dg := { s.dg with held := [⟨.near, 0, 0, 1, [], 1, some 1, some w0, none⟩] } }

/-- O27: a task that can send, one whose write is held, and the counter of a group at and above the bound of CWAIT. -/
theorem test_meets_sync :
    Ready (runs task0) w0 task0 ∧ heldBy (runs task0) w0 = false ∧ heldBy (heldOne (runs task0)) w0 = true
    ∧ (2 : Byte).toNat < ({ task0 with groups := [(1, 3)] } : Machine.Task).groups.get 0 1
    ∧ ({ task0 with groups := [(1, 3)] } : Machine.Task).groups.get 0 1 ≤ (3 : Byte).toNat := by
  unfold Ready; decide +kernel

/-- An operation in flight to a tally. -/
def sends (k : SyncKind) (t : Tally) : State :=
  { runs task0 with inflight := [⟨k, 3, w0, 1, 1, none, 0, 0x1000, false⟩], tallies := [(3, t)] }
def waiter (n : Nat) : Waiter := ⟨⟨n, 0⟩, 1, 1, n, false, true, none⟩

/-- O28: each operation at a poisoned tally, one with grants, one without, one with waiters, and one at the bound of its
count. -/
theorem test_meets_operations :
    (sends .wait Tally.reset).active = true
    ∧ (∀ k ∈ [SyncKind.wait, .signal 2, .signalAll], nextOnRoute (sends k Tally.reset) 0
        ⟨k, 3, w0, 1, 1, none, 0, 0x1000, false⟩ = true)
    ∧ ((sends .wait { Tally.reset with poisoned := true }).tally 3).poisoned = true
    ∧ 0 < ((sends .wait { Tally.reset with count := 1 }).tally 3).count
    ∧ poolFull (sends .wait Tally.reset) 3 = false
    ∧ ((sends (.signal 2) { Tally.reset with count := 65533 }).tally 3).count + (2 - 0) ≤ 65535
    ∧ 65535 < ((sends (.signal 2) { Tally.reset with count := 65534 }).tally 3).count + (2 - 0)
    ∧ ((sends .signalAll { Tally.reset with queue := [waiter 1, waiter 2] }).tally 3).queue.length = 2 := by
  decide +kernel

/-- A grant on its way to slot w0. -/
def granted (t : Machine.Task) : State := { runs t with grants := [⟨w0, 1, 1, 0, none, true, 0⟩] }
def savedTask : SavedOrdinal := ⟨1, 1, 0, 0, 64, [(0, task0, false)], true⟩

/-- O29: a grant for a task that waits, one for a saved task, hold windows that run out, a WAIT that the pool held back and a
lease. -/
theorem test_meets_wakes :
    (granted waiting0).active = true ∧ nextGrant (granted waiting0) 0 ⟨w0, 1, 1, 0, none, true, 0⟩ = true
    ∧ (granted waiting0).task w0 = some waiting0 ∧ waiting0.status = .waitHeld ∧ waiting0.taskIndex = 0
    ∧ ({ granted task0 with tasks := [], saved := [savedTask] } : State).task w0 = none
    ∧ nextGrant { granted task0 with tasks := [], saved := [savedTask] } 0 ⟨w0, 1, 1, 0, none, true, 0⟩ = true
    ∧ (savedTask.tasks.any fun x => decide (x.2.1.taskIndex = 0) && !x.2.2) = true
    ∧ (runs { task0 with status := .arriveHeld }).task w0 = some { task0 with status := .arriveHeld }
    ∧ poolFull (runs { task0 with status := .poolFull, waitTally := 3 }) 3 = false
    ∧ ((sends .wait { Tally.reset with lease := true }).tally 3).lease = true
    ∧ ((sends .wait { Tally.reset with lease := true, queue := [waiter 1] }).tally 3).poisoned = false := by decide +kernel

/-- O30: ranges and tallies at their ends, debug locked and unlocked, and counts at their bound. -/
theorem test_meets_tally_registers :
    HostReady (runs task0) ∧ 65535 < 65536 ∧ debugOpen (runs task0) 1 = false
    ∧ debugOpen { runs task0 with keeper := { Keeper.reset with scopes := 7 } } 1 = true
    ∧ ((runs task0).tally 65535).poisoned = false ∧ ((runs task0).tally 65535).count + (65535 - 0) ≤ 65535
    ∧ ((runs task0).tally 65535).queue = []
    ∧ ((sends .wait { Tally.reset with queue := [waiter 1] }).tally 3).queue ≠ [] ∧ (runs task0).tl.resetBusy = false
    ∧ ({ (runs task0).tl with resetBusy := true, resetNext := 65535, resetLeft := 1 } : TallyRegs).resetBusy = true := by
  unfold HostReady; decide +kernel

def slot0 : CheckSlot := { CheckSlot.reset with group := 7, ctx := 1, expected := 2 }
def bound0 : CheckSlot := { slot0 with bound := true, generation := 3, completions := 3 }
def withSlot (c : CheckSlot) (t : Machine.Task) : State := { runs t with slots := [(4095, c)] }

/-- O31: the last slot, free and bound, with 2,048 and 2,049 arrivals, and with no arrivals and no child. -/
theorem test_meets_check_slots :
    HostReady (withSlot slot0 task0) ∧ (withSlot slot0 task0).slot 4095 = slot0 ∧ slot0.bound = false
    ∧ slot0.expected.toNat ≤ 2048 ∧ 2048 < ({ slot0 with expected := 2049 } : CheckSlot).expected.toNat
    ∧ ({ slot0 with expected := 0 } : CheckSlot).children = 0 ∧ bound0.bound = true ∧ bound0.held = [] := by
  unfold HostReady; decide +kernel

/-- O32: a task at a bound slot, at a broken one, and at a group that none has. -/
theorem test_meets_arrive :
    Ready (withSlot bound0 task0) w0 task0 ∧ heldBy (withSlot bound0 task0) w0 = false
    ∧ slotOf (withSlot bound0 task0) 7 1 = some (4095, bound0) ∧ slotOf (withSlot bound0 task0) 8 1 = none
    ∧ bound0.state ≠ .broken
    ∧ slotOf (withSlot { bound0 with state := .broken } task0) 7 1 = some (4095, { bound0 with state := .broken }) := by
  unfold Ready; decide +kernel

def arrived0 : CheckSlot := { bound0 with pendingDie := [(w0, 1), (⟨64, 0⟩, 1)] }

/-- O33: a batch that leaves the count below its bound, one that reaches it, and one in a generation that is complete. -/
theorem test_meets_arrivals :
    arrived0.pendingDie.filter (fun w => decide (Who.die w.1 = 0)) = [(w0, 1)] ∧ arrived0.state = .counting
    ∧ arrived0.arrived + 1 < arrived0.expected.toNat
    ∧ ({ arrived0 with arrived := 1 } : CheckSlot).arrived + 1 = arrived0.expected.toNat ∧ arrived0.heldNext = []
    ∧ arrived0.ahead = 0 ∧ arrived0.hasParent = false ∧ arrived0.children = 0 ∧ arrived0.merge = false
    ∧ ({ arrived0 with state := .waitParent } : CheckSlot).state ≠ .counting := by decide +kernel

/-! Links -/

def flit0 (n : Nat) : Flit := Flit.first 2 (BitVec.ofNat 32 n) 5 3 1 (.withdrawal 0 0)
def port1 : Port := { Port.reset with enable := true, state := .active, version := 2, rxNext := 5, txSeq := 9 }
def withPort (p : Port) : State :=
  { runs task0 with links := { Links.reset with ports := [(1, p), (2, port1)], portMap0 := 0xA98, modAddr := 0 } }
/-- A module whose routes are on, with two modules in its one dimension and port 2 in their direction. -/
def routes : State := { withPort port1 with
  links := { (withPort port1).links with route := BitVec.ofNat 64 (1 + 2 ^ 8), portMap0 := 0x800 } }

/-- The heads of a check flit, of a request, a reply and a write. -/
def hdCheck : FlitHead := headOf 4 3 5
def hdRequest : FlitHead := headOf 1 0 5
def hdReply : FlitHead := headOf 2 1 5
def hdWrite (n : Nat) : FlitHead := headOf 3 2 n

/-- The head of a flit of a version and a kind. -/
def headAt (version kind : Nat) : FlitHead := ⟨BitVec.ofNat 128 (version + kind * 2 ^ 4), 0, 1⟩

/-- O34: a port in each state of its start, with all lanes locked, with one half and the other; offers of both versions, of
UL1 alone, and the last failure of training but one. -/
theorem test_meets_ports_up :
    (withPort Port.reset).active = true ∧ (withPort Port.reset).hg.linkUp = true
    ∧ ((withPort Port.reset).port 1).state = .down ∧ (withPort Port.reset).inBist 7 1 = false
    ∧ clockGood (withPort Port.reset) 769 = true
    ∧ ((withPort { port1 with state := .detect }).port 1).state = .detect
    ∧ (0x0F : Byte) ≠ 0xFF ∧ (0x0F : Byte) &&& 0x0F = 0x0F ∧ (0xF7 : Byte) &&& 0x0F ≠ 0x0F ∧ (0xF7 : Byte) &&& 0xF0 = 0xF0
    ∧ Port.reset.allowHalf = true ∧ Port.reset.peerValid = false
    ∧ Port.reset.allowUl2 = true ∧ Port.reset.allowUl1 = true ∧ Port.reset.half = false
    ∧ (3 : BitVec 2).getLsbD 1 = true ∧ (1 : BitVec 2).getLsbD 1 = false ∧ (1 : BitVec 2).getLsbD 0 = true
    ∧ ({ port1 with state := .align } : Port).waiting = [] ∧ ({ Port.reset with trainFails := 1 } : Port).trainFails < 2
    ∧ 2 ≤ ({ Port.reset with trainFails := 2 } : Port).trainFails ∧ (withPort Port.reset).fence.charges = []
    ∧ (0xF7 : Byte) &&& 0x0F ≠ 0x0F ∧ (0x7F : Byte) &&& 0xF0 ≠ 0xF0 ∧ (0x77 : Byte) &&& 0xF0 ≠ 0xF0
    ∧ headOk { port1 with version := 1 } (headAt 1 6) false = true ∧ headOk { port1 with version := 1 } (headAt 2 6) false = false
    ∧ (withPort { port1 with state := .retrain }).active = true := by
  decide +kernel

/-- O35: an Active port, one whose offer has no version in common, and a second retrain in a second. -/
theorem test_meets_ports_down :
    HostReady (withPort port1) ∧ ((withPort port1).port 1).state ≠ .down ∧ ((withPort port1).port 1).state ≠ .fenced
    ∧ ((withPort port1).port 1).state ≠ .detect ∧ (0 : BitVec 2).getLsbD 0 = false ∧ (0 : BitVec 2).getLsbD 1 = false
    ∧ ((withPort { port1 with state := .negotiate }).port 1).state = .negotiate
    ∧ ({ port1 with retrains3 := [0] } : Port).retrains3.length ≤ 1 := by
  unfold HostReady; decide +kernel

/-- O36: the furthest number that counts as ahead and the nearest that counts as behind; a nak sent and not sent; messages in
order that are for this module and for another, with a route and without; a bad head; a message of two flits of which one has
come. -/
theorem test_meets_sequenced_messages :
    takesMessage (.withdrawal 1 (hdWrite 2052) 0 0) = some (1, hdWrite 2052, 2, false, .withdrawal 0 0)
    ∧ (hdWrite 2052).ack = none ∧ (hdWrite 5).kind < 7 ∧ (headOf 9 2 5).sequenced = true
    ∧ (withPort port1).active = true ∧ ((withPort port1).port 1).state = .active
    ∧ ((hdWrite 2052).seq - ((withPort port1).port 1).rxNext).toNat = 2 ^ 11 - 1
    ∧ ((hdWrite 2053).seq - ((withPort port1).port 1).rxNext).toNat = 2 ^ 11
    ∧ ({ port1 with nakSent := true } : Port).nakSent = true
    ∧ (hdWrite 5).seq = ((withPort port1).port 1).rxNext ∧ headOk port1 (hdWrite 5) false = true
    ∧ headOk port1 (headAt 1 3) false = false ∧ (withPort port1).links.here (hdWrite 5).dst = true
    ∧ (routes.links.here 1) = false ∧ routes.links.hop 1 = .bundle 0 false
    ∧ routes.links.pickPort 0 (Flit.first 2 1 1 7 1 (.withdrawal 0 0)) = some 2 ∧ routes.links.hop 2 = .nowhere
    ∧ ({ port1 with got := [(4, 1)] } : Port).got.get 0 4 + 1 = Payload.flits (.directWrite 0 0 0 (List.replicate 233 0)) := by
  decide +kernel

/-- A slot that takes part in a tree, of a module with two Active ports. -/
def atTree (c : CheckSlot) : State := { withPort port1 with slots := [(2, c)], tasks := [(1, { task0 with status := .arriveHeld })] }
def taken (c : CheckSlot) : State := receive 1 hdCheck 3 false 1 true id (atTree c)

/-- O37: a slot that counts, one that closes, leaves that wait for a release of each kind, one that merges, and one that is
bound and not broken. -/
theorem test_meets_check_flits :
    InOrder (atTree { bound0 with children := 2 }) 1 hdCheck false ∧ hdCheck.ack = none
    ∧ slotOf (taken { bound0 with children := 2 }) 7 1 = some (2, (taken { bound0 with children := 2 }).slot 2)
    ∧ ((taken { bound0 with children := 2 }).slot 2) = { bound0 with children := 2 }
    ∧ ({ bound0 with children := 2 } : CheckSlot).treePorts.contains 1 = true
    ∧ ({ bound0 with children := 2 } : CheckSlot).children.getLsbD 1 = true
    ∧ bound0.state = .counting ∧ bound0.arrived ≠ bound0.expected.toNat
    ∧ (3 : W32).toNat = bound0.generation % 2 ^ 32
    ∧ ({ bound0 with children := 6, state := .closing } : CheckSlot).childrenDone + 1
        < ({ bound0 with children := 6, state := .closing } : CheckSlot).childPorts.length
    ∧ ({ bound0 with hasParent := true, parent := 1, state := .waitParent } : CheckSlot).treePorts.contains 1 = true
    ∧ bound0.merge = false ∧ bound0.children = 0 ∧ bound0.heldNext = [] ∧ bound0.ahead = 0 ∧ 0 < bound0.expected.toNat
    ∧ slotOf (taken { bound0 with hasParent := true, parent := 1, state := .waitRelease2, heldNow := [(⟨0, 1⟩, 1)] }) 7 1
        = some (2, { bound0 with hasParent := true, parent := 1, state := .waitRelease2, heldNow := [(⟨0, 1⟩, 1)] })
    ∧ slotOf (taken { bound0 with hasParent := true, parent := 1, state := .waitParent, merge := true }) 7 1
        = some (2, { bound0 with hasParent := true, parent := 1, state := .waitParent, merge := true }) := by
  unfold InOrder; decide +kernel

/-- A port with flits that wait for their acknowledgement, across the wrap of their numbers. -/
def replays : Port := { port1 with replay := [(4094, flit0 1, 1), (4095, flit0 2, 14), (0, flit0 3, 3)], txSeq := 1 }

/-- O38: numbers in and not in the replay buffer, flits that an acknowledgement and a nak free, one sent for the fifteenth time,
headers of both kinds, and each state that receives codewords. -/
theorem test_meets_link_control :
    (withPort replays).active = true ∧ ((withPort replays).port 1) = replays ∧ replays.state = .active ∧ replays.waiting = []
    ∧ (4095 : BitVec 12) ∈ replays.replay.map (fun e => e.1) ∧ (1 : BitVec 12) ∉ replays.replay.map (fun e => e.1)
    ∧ (4094 : BitVec 12) - 1 ∉ replays.replay.map (fun e => e.1) ∧ (∀ e ∈ replays.replay, e.2.2 < 15)
    ∧ (0 : BitVec 12) - 1 ∈ replays.replay.map (fun e => e.1)
    ∧ replays.replay.filter (fun e => decide ((0 : BitVec 12) - 1 ≠ e.1) && decide ((e.1 - (0 - 1)).toNat < 2 ^ 11)) = [(0, flit0 3, 3)]
    ∧ (∀ f ∈ replays.replay.drop 1, (f.1 - (4094 : BitVec 12)).toNat < 2 ^ 11)
    ∧ headOk replays (headOf 6 3 0) false = true ∧ headOk replays (headAt 1 6) false = false ∧ (headOf 6 3 0).ack = none
    ∧ headOk replays (headOf 0 0 0) false = true ∧ (headOf 0 0 0).kind < 7 ∧ headOk replays (headAt 2 7) false = false
    ∧ (headAt 2 7).sequenced = false
    ∧ ((withPort { replays with state := .align }).port 1).state ∈ [PortState.train, .negotiate, .align, .active, .retrain] := by
  decide +kernel

/-- A record at 0x2000 of a table of 100 rows of 64 bytes of two members, this module the member 0. -/
def embRec : Nat := 2 + 6 * 2 ^ 12 + 2 * 2 ^ 32 + 100 * 2 ^ 128 + 0x4000 * 2 ^ 192 + 0x8000 * 2 ^ 256 + 0x5000 * 2 ^ 384
  + 16 * 2 ^ 448 + 0x3F800000 * 2 ^ 480 + 0x6000 * 2 ^ 512 + 0x7000 * 2 ^ 576
def withEmb (s : State) : State := { s with mem := { s.mem with
  near := Memory.write (Memory.write s.mem.near 0x202000 (leBytes 128 embRec)) 0x208000 (leBytes 64 0x123456789) } }
def serves : State := withEmb (withPort port1)

/-- The record that stands at an address. -/
def recordAt (s : State) (a : Nat) : Except Bad Emb := embRead s 1 0 a

/-- O39: a context that is not open; a record that no table maps and one that stands; a row in its range, and its last
byte; ranks at the bound of the members. -/
theorem test_meets_owners :
    InOrder serves 1 hdRequest false ∧ hdRequest.dst = serves.links.modAddr ∧ hdRequest.ack = none
    ∧ InOrder serves 1 (hdWrite 5) false ∧ Brings serves 1 (hdWrite 5) 2 ((4 + 247) / 232)
    ∧ ((receive 1 hdRequest 0 false 1 true id serves).ctx 1).isOpen = true
    ∧ ((receive 1 hdRequest 0 false 1 true id serves).ctx 2).isOpen = false
    ∧ (match recordAt (receive 1 hdRequest 0 false 1 true id serves) 0x40000 with | .error (.violation _ _ _) => true | _ => false) = true
    ∧ (match recordAt (receive 1 hdRequest 0 false 1 true id serves) 0x2000 with
        | .ok e => decide (e.span = 6 ∧ e.rowBytes = 64 ∧ e.members = 2 ∧ e.owner 0 = e.rank ∧ e.rows = 100 ∧ 60 + 4 ≤ e.rowBytes)
          && (match homeOf serves 1 e 0 with | .ok (.at _ _) => true | _ => false)
          && (match homeOf serves 1 e 100 with | .ok .invalid => true | _ => false)
          && okay (withdrawAt 1 0x2000 1 (noteRecord 1 0x2000 serves))
          && okay (directWrite (mergeWriter 1) (some (hdWrite 5)) e 0 0 60 [1, 2, 3, 4] (noteRecord 1 0x2000 serves))
          && (match contribute (mergeWriter 1) e 0 100 0 (List.replicate 64 1) (noteRecord 1 0x2000 serves) with
              | .ok (_, .dropped) => true | _ => false)
          && (match contribute (mergeWriter 1) e 0 0 0 (List.replicate 64 1) (noteRecord 1 0x2000 serves) with
              | .ok (_, .logged) => true | .ok (_, .refused _) => true | _ => false)
        | _ => false) = true := by
  unfold InOrder Brings; decide +kernel

/-! Power, resets and the sideband -/

/-- The module in a phase of its power-up. -/
def at_ (p : Phase) : State := { up with power := { up.power with phase := p } }
def bad1 : Image := { Image.factory with sigOk := false }

/-- O40: each phase of power-up; an image that verifies, one that fails with a good one beside it, two that fail, and a
scrapped module; a start that has what it needs; the bounds of VMAIN. -/
theorem test_meets_power_up :
    (at_ .off).power.phase = .off ∧ (at_ .romStarted).fuses.lifecycle ≠ 4
    ∧ (at_ .romStarted).keeper.image (at_ .romStarted).keeper.preferB = Image.factory
    ∧ Image.factory.magic = 0x464B5A43 ∧ Image.factory.version = 2 ∧ Image.factory.reserved = 0 ∧ Image.factory.tail = 0
    ∧ 0 < Image.factory.length ∧ Image.factory.length ≤ 4194304 - 512
    ∧ (at_ .romStarted).fuses.fwRevoked.getD 0 true = false
    ∧ (at_ .romStarted).fuses.fwDigest.getD 0 0 = bytesRec (sha512 (leBytes 132 Image.factory.publicKey.toNat))
    ∧ (at_ .romStarted).fuses.svnMin.ule Image.factory.svn = true
    ∧ bytesRec (sha512 (takePad 0 Image.factory.length Image.factory.body)) = Image.factory.digest ∧ Image.factory.sigOk = true
    ∧ ({ (at_ .computing).hg with detect := true } : Headgate).detect = true
    ∧ imageFails (at_ .romStarted) Image.factory = 0
    ∧ imageFails { at_ .romStarted with keeper := { Keeper.reset with slotA := bad1 } } bad1 ≠ 0
    ∧ imageFails { at_ .romStarted with keeper := { Keeper.reset with slotA := bad1, slotB := { bad1 with length := 0 } } }
        { bad1 with length := 0 } ≠ 0
    ∧ ({ at_ .romStarted with fuses := { Fuses.reset with lifecycle := 4 } } : State).fuses.lifecycle = 4
    ∧ ({ (at_ .deep).power with starting := true } : Power).vmain = true ∧ (at_ .deep).power.inputOpen = false
    ∧ (at_ .deep).power.thermalHold = false ∧ (at_ .charging).power.vmain = true
    ∧ (at_ .initialised).power.perst = false ∧ sidebandUp (at_ .deep) = true ∧ (at_ .active).active = true := by
  decide +kernel

/-- O41: a converting module with and without VAUX, with and without a full staging buffer; one that charges, one that starts
in Deep and one that does neither; PERST# in and out of the Active state. -/
theorem test_meets_supplies :
    up.power.converting = true ∧ up.power.phase ≠ .off ∧ up.power.vaux = true
    ∧ (up.log.staging.get [] 8).length < 64 ∧ ({ up.power with vaux := false } : Power).vaux = false
    ∧ ({ (at_ .deep).power with converting := false, starting := true } : Power).starting = true
    ∧ (at_ .deep).power.phase ≠ .charging ∧ (at_ .deep).power.starting = false
    ∧ (at_ .computing).active = false ∧ inDrowse (at_ .computing) = false ∧ (runs task0).active = true
    ∧ (runs task0).fence.waiting = [] ∧ hostUp (runs task0) = true := by decide +kernel

/-- O42: requests of Drowse that are refused and granted; each way out of it; Deep with a context open, without VAUX and with
it; what Drowse holds back, at the bounds of its operands; a wake that must wait. -/
theorem test_meets_low_power :
    (runs task0).active = true ∧ (runs task0).hg.linkUp = true ∧ drowseRefusal (runs task0) ≠ 0 ∧ drowseRefusal up = 0
    ∧ (at_ .enteringDrowse).power.wakeHeld = false ∧ (at_ .enteringDrowse).hg.held = []
    ∧ (at_ .leavingDrowse).power.phase = .leavingDrowse ∧ inDrowse (at_ .drowse) = true ∧ (at_ .drowse).hg.linkUp = true
    ∧ hostUp up = true ∧ (runs task0).ctxs.any (fun e => e.2.isOpen) = true ∧ up.ctxs.any (fun e => e.2.isOpen) = false
    ∧ 2 ^ 28 - 4 + 4 ≤ 2 ^ (at_ .drowse).hg.cfg.bar4Log2
    ∧ (({ at_ .drowse with ctxs := [(1, ctx1)] } : State).ctx 1).isOpen = true
    ∧ up.hg.held = [] ∧ hostUp { up with hg := { up.hg with held := [.deepRequest] } } = true
    ∧ ({ (at_ .deep).power with wakeHeld := true } : Power).vmain = true
    ∧ ({ (at_ .deep).power with wakeHeld := true, thermalHold := true } : Power).thermalHold = true := by decide +kernel

/-- O43: readings at a trip level, one below it, at a warning level and in a die that runs; domains of each row in lock, one
that has been retried once, and one for the last time. -/
theorem test_meets_sensors_and_clocks :
    sidebandUp up = true ∧ up.power.converting = true ∧ up.power.sensors = [] ∧ dieRuns up 0 = true
    ∧ (∃ l, sensorLimits 3 = some l ∧ l.2 ≤ (l.2 : Int) ∧ l.1 ≤ l.2 - 1)
    ∧ (∀ row ∈ [0, 1, 2, 3, 4, 5], unitExists 15 (256 * row) = true ∧ listed up 15 (256 * row) = false)
    ∧ up.fence.pllBad.find 0 = none ∧ up.dg.held = [] ∧ ((withPort port1).port 1).state ≠ .down
    ∧ ({ up.fence with pllBad := [(770, 1)] } : Fencing).pllBad.find (256 * 3 + 2) = some 1
    ∧ ({ up.fence with pllBad := [(770, 2)] } : Fencing).pllBad.find (256 * 3 + 2) = some 2 := by
  refine ⟨by decide +kernel, by decide +kernel, by decide +kernel, by decide +kernel, ⟨_, rfl, ?_, ?_⟩, ?_⟩ <;> decide +kernel

/-- O44: a transport that is there, with and without an identity key, in the last lifecycle states; the last measurement. -/
theorem test_meets_attestation :
    spdmUp up .mctp = true ∧ spdmUp up .doe = true ∧ up.fuses.identityKey = true ∧ up.fuses.lifecycle ≠ 3
    ∧ up.fuses.lifecycle ≠ 4 ∧ ({ up.fuses with identityKey := false } : Fuses).identityKey = false
    ∧ spdmUp { up with fuses := { up.fuses with identityKey := false } } .doe = true ∧ up.fuses.lifecycle ≠ 1
    ∧ spdmUp { up with fuses := { up.fuses with lifecycle := 1 } } .mctp = true ∧ sidebandUp up = true
    ∧ up.power.phase ≠ .recovery ∧ up.fuses.lifecycle = 2 ∧ up.fuses.ownerDigest = none
    ∧ ({ up.fuses with ownerDigest := some 5 } : Fuses).ownerDigest ≠ none := by decide +kernel

/-- A token for the nonce 77 with the scopes given. -/
def tokenFor (scopes : Nat) : BitVec 4096 := BitVec.ofNat 4096 (2 + 256 * scopes + 77 * 2 ^ 128)
def challenged : State := { up with keeper := { Keeper.reset with nonceValid := true, nonce := 77 } }

/-- O45: an image in Deep and in the Active state; a token whose nonce is used, and tokens with scopes at their bounds;
the port of IEEE 1149.1 with PERST# asserted and deasserted. -/
theorem test_meets_firmware :
    sidebandUp up = true ∧ hostUp up = true ∧ up.keeper.newImage = false ∧ (at_ .deep).power.phase ≠ .recovery
    ∧ tokenResult up (tokenFor 3).toNat 0 true ≠ 1
    ∧ tokenScopes (tokenFor 3).toNat = 3 ∧ tokenScopes (tokenFor 8).toNat = 8 ∧ tokenScopes (tokenFor 16).toNat = 16
    ∧ ({ up.power with perst := true } : Power).perst = true ∧ up.power.perst = false ∧ up.power.phase ≠ .deep
    ∧ ({ up.keeper with newImage := true } : Keeper).newImage = true ∧ sidebandUp (at_ .recovery) = true
    ∧ sidebandUp (at_ .deep) = true ∧ up.hg.held = [] ∧ ({ up.keeper with jtag := .maker 3 } : Keeper).jtag = .maker 3
    ∧ debugOpen up 2 = false ∧ ({ up.keeper with jtag := .extest } : Keeper).jtag = .extest := by
  decide +kernel

/-- O45: a token that passes every check. -/
theorem test_meets_token : tokenResult challenged (tokenFor 3).toNat challenged.fuses.debugDigest true = 1 := by
  decide +kernel

/-- A die in droop, with a point in force and an allowance. -/
def drooping : State := { runs task0 with
  dies := (List.range 10).map fun d => (d, { Die.reset with up := true, droop := 3, index := 20, fixed := d == 0, pacing := d == 1 })
  weir := { Weir.reset with fixedRate := true, trimCount := 3, trimSum := 1000 } }

/-- O46: dies that run, with a fixed rate and with droop; a trim that has counted; a core with and without a task that is ready. -/
theorem test_meets_power_control :
    (drooping.die 9).up = true ∧ (drooping.die 9).resetting = false ∧ loopsRun drooping = true ∧ drooping.weir.trimCount ≠ 0
    ∧ dieRuns drooping 7 = true ∧ (drooping.die 0).fixed = true ∧ HostReady drooping
    ∧ slotReady drooping 0 0 = true ∧ (∀ k ∈ List.range 4, slotReady drooping 63 k = false)
    ∧ gained drooping (arrayWork drooping 0) < ({ drooping.die 0 with arrayPart := 1 } : Die).arrayPart ∧ 0 < drooping.weir.gain
    ∧ (drooping.die 0).acts = [] := by
  unfold HostReady; decide +kernel

/-- O47: a die that runs, in droop in its last quadrant; one in reset; one that paces; a slot of a tree that is not broken; a
task held there. -/
theorem test_meets_droop_and_pace :
    dieRuns drooping 1 = true ∧ (drooping.die 1).droop.getLsbD 1 = true ∧ (drooping.die 1).pacing = true
    ∧ drooping.active = true ∧ ({ Die.reset with resetting := true } : Die).resetting = true
    ∧ InOrder (atTree { bound0 with children := 2 }) 1 (headOf 5 3 5) true
    ∧ slotOf (receive 1 (headOf 5 3 5) 3 true 1 true id (atTree { bound0 with children := 2, heldNow := [(⟨0, 1⟩, 1)] })) 7 1
        = some (2, { bound0 with children := 2, heldNow := [(⟨0, 1⟩, 1)] })
    ∧ (atTree bound0).task ⟨0, 1⟩ = some { task0 with status := .arriveHeld } := by
  unfold InOrder; decide +kernel

/-- A pacing die with a task of the context of a slot in a tree. -/
def pacing0 : State := { atTree { bound0 with children := 2 } with dies := [(0, { Die.reset with up := true, pacing := true })] }

/-- O47: a pace notice to send again on a port that carries level 2 flits. -/
theorem test_meets_pace_resend :
    pacing0.active = true ∧ dieRuns pacing0 0 = true ∧ (pacing0.die 0).pacing = true ∧ pacing0.weir.pace = true
    ∧ pacing0.slots = [(2, { bound0 with children := 2 })] ∧ ({ bound0 with children := 2 } : CheckSlot).treePorts = [1]
    ∧ pacing0.slot 2 = { bound0 with children := 2 } ∧ ({ bound0 with children := 2 } : CheckSlot).bound = true
    ∧ pacing0.tasks = [(1, { task0 with status := .arriveHeld })] ∧ (1 : Nat) / 256 = 0 ∧ task0.ctx = bound0.ctx.toNat
    ∧ (pacing0.port 1).live = true ∧ (pacing0.port 1).version = 2 := by decide +kernel

/-! Asynchronous work -/

def op0 : AsyncOp := { (AsyncOp.of 5 ⟨0, 0⟩ task0 2 "GATHER") with fallback := 1, valid := [true, true] }
def posOf (tag i : Nat) : Position :=
  ⟨i, 0x100 + 64 * i, true, List.replicate 16 7, i, tag, 0x20, 16, 0, 0, 0, [(.near, 0x200000, 16)], true, [], 0, none, none, []⟩
def schedule : Rec := BitVec.ofNat 512 (2 + 0xC * 16 + 1 * 2 ^ 8 + 4 * 2 ^ 32 + 2 * 2 ^ 64 + 100 * 2 ^ 80 + 0x1000 * 2 ^ 192 + 0x4000 * 2 ^ 256)
def opened : PfPosition := ⟨0, 1, 0x20 + 3 * 2 ^ 80 + 2 * 2 ^ 128 + 1 * 2 ^ 144 + 7 * 2 ^ 160 + 0x40 * 2 ^ 192, [], false⟩
def pfOp : AsyncOp := { op0 with name := "PFSCHED", desc := schedule, nextPos := 1, posOpen := [opened], needs := [0] }
/-- The module with one unfinished instruction and tags of several uses. -/
def works (o : AsyncOp) : State := { runs { task0 with groups := [(2, 1)] } with
  ops := [o], nextTag := 9
  tags := [⟨9, 1, 1, .engine 5 0 [], 0x40, false⟩, ⟨0, 1, 1, .bar4 2 4, 0x1234, false⟩,
    ⟨1, 1, 1, .remoteLoad ⟨0, 0⟩ 3 4 2, 0, false⟩, ⟨2, 1, 1, .remoteStore ⟨0, 0⟩, 0, false⟩, ⟨3, 1, 1, .bar4 0 4, 0, true⟩]
  links := { Links.reset with ports := [(1, port1), (2, port1)], portMap0 := 0xA98, modAddr := 0, stopped := [0, 1] } }

/-- O48: tags in use and abandoned; a row that is read well, one of bad data, and one that waits for the map. -/
theorem test_meets_replies :
    (findTag (works op0) 9).isSome = true ∧ (findTag (works op0) 3).map (·.abandoned) = some true
    ∧ (findTag (works op0) 0).map (·.abandoned) = some false
    ∧ findOp (works { op0 with openPos := [posOf 9 0] }) 5 = some { op0 with openPos := [posOf 9 0] }
    ∧ [posOf 9 0].find? (fun p => decide (p.tag = 9)) = some (posOf 9 0)
    ∧ (posOf 9 0).mapWaits (works op0) = false ∧ bufferBad (works op0) 3 0 = false
    ∧ checkPieces (works op0) (rowSource (posOf 9 0)) (posOf 9 0).src = .ok ()
    ∧ okay (checkPieces { works op0 with errs := [⟨1, 0, 0x200000 / 32⟩] } (rowSource (posOf 9 0)) (posOf 9 0).src) = false
    ∧ ({ posOf 9 0 with src := [(.flash, 0x500000, 16)] } : Position).mapWaits (placed0 task0) = true
    ∧ (posOf 9 0).bad = none ∧ ({ posOf 9 0 with bad := some (rowErr (works op0) (posOf 9 0)) } : Position).bad.isSome = true
    ∧ 3 < (works op0).nextTag := by decide +kernel

/-- O48: deadlines set and not set, a position that is needed, one whose buffer is free and the first that must wait;
instructions that can and cannot finish; a task that halts with its last. -/
theorem test_meets_finishes :
    op0.name = "GATHER" ∧ op0.deadline = 0 ∧ ({ op0 with deadline := 5 } : AsyncOp).deadline ≠ 0
    ∧ pfOp.posOpen.find? (fun x => decide (x.pos = opened.pos)) = some opened ∧ pfOp.needs.contains 0 = true
    ∧ pfDeadline opened.entry ≠ 0 ∧ pfDeadline ({ opened with entry := 0x20 } : PfPosition).entry = 0
    ∧ pfOp.cut = false ∧ pfOp.nextPos < pfOp.pfTotal ∧ pfOp.nextPos < pfOp.pfFirst + pfOp.pfBuffers
    ∧ ({ pfOp with nextPos := 2 } : AsyncOp).pfFirst + pfOp.pfBuffers ≤ 2
    ∧ ((works pfOp).grants.findIdx? fun g => decide (g.pf = some 5)) = none
    ∧ (({ works pfOp with grants := [⟨w0, 1, 1, 0, some 5, true, 0⟩] } : State).grants.findIdx? fun g => decide (g.pf = some 5))
        = some 0
    ∧ nextGrant { works pfOp with grants := [⟨w0, 1, 1, 0, some 5, true, 0⟩] } 0 ⟨w0, 1, 1, 0, some 5, true, 0⟩ = true
    ∧ canFinish (works { op0 with openPos := [posOf 9 0] }) { op0 with openPos := [posOf 9 0] } = false
    ∧ canFinish (works op0) op0 = true ∧ op0.fallback ≠ 4 ∧ op0.report = 0 ∧ op0.spoiled = false ∧ op0.tile = none
    ∧ (works op0).task op0.who = some { task0 with groups := [(2, 1)] }
    ∧ (∀ e ∈ ([(2, 1)] : List (Nat × Nat)), e.1 ≠ op0.group → e.2 = 0)
    ∧ ({ task0 with groups := [(2, 1)] } : Machine.Task).groups.get 0 op0.group = 1 := by decide +kernel

/-- O48: a bundle that has stopped and is quiet; SKEY where samplers live and where none does. -/
theorem test_meets_bundles_and_keys :
    (works op0).links.stopped.contains 1 = true
    ∧ bundleQuiet { works op0 with links := { (works op0).links with ports := [(1, { port1 with state := .down })] } } 1 = true
    ∧ liveSamplers (works op0) 0 ≠ [] ∧ liveSamplers { works op0 with sm := { Samplers.reset with fenced := 15 } } 0 = []
    ∧ ((works op0).ctx 1).sealed.state = .none ∧ ((works op0).ctx 1).sealed.inReplay = false := by decide +kernel

/-- O48: replies to a load, a store, a BAR4 read, an abandoned tag and to none. -/
theorem test_meets_link_replies :
    InOrder (works op0) 1 hdReply false ∧ hdReply.dst = (works op0).links.modAddr
    ∧ Brings (works op0) 1 hdReply 1 (Payload.flits (.reply 0 []))
    ∧ (linkTag (receive 1 hdReply 1 false 1 true id (works op0)) 0).map (·.use) = some (.bar4 2 4)
    ∧ (linkTag (receive 1 hdReply 1 false 1 true id (works op0)) 1).map (·.use) = some (.remoteLoad ⟨0, 0⟩ 3 4 2)
    ∧ (linkTag (receive 1 hdReply 1 false 1 true id (works op0)) 2).map (·.use) = some (.remoteStore ⟨0, 0⟩)
    ∧ (linkTag (receive 1 hdReply 1 false 1 true id (works op0)) 3).map (·.abandoned) = some true
    ∧ linkTag (receive 1 hdReply 1 false 1 true id (works op0)) 700 = none := by
  unfold InOrder Brings; decide +kernel

/-! Saving and restoring -/

def runHead : RunHeader := ⟨0x40000, 0x24000, 0x90000, 0x10000⟩
/-- Tables that also map twelve far pages at 0x40000. -/
def saveArea : List Host.Cell :=
  (List.range 12).foldl (fun m i => Memory.write m (0x104020 + 8 * i) (leBytes 8 (0xEB + 0x600000 + 0x10000 * i))) tables
/-- A RUN with a save area in the near tier, on core 0 with a small footprint. -/
def saves (t : Machine.Task) : State := { runs t with
  ctxs := [(1, { ctx1 with parcels := [{ parcel0 with header := some runHead }] })]
  cores := [(0, { Core.reset with footprint := some 64, cistern := cellsOf 0 [1, 2, 3] })]
  mem := { Mem.reset with near := saveArea } }

/-- O49: a core with nothing to save, one that cannot be saved yet, one that can, and a saved ordinal on a free core and on one
that is not. -/
theorem test_meets_save_and_restore :
    (saves task0).active = true ∧ (saves task0).fence.waiting = [] ∧ (saves task0).coreTasks 1 = []
    ∧ (saves task0).coreTasks 0 = [(w0, task0)] ∧ canSave (saves task0) 0 .otherRun = false
    ∧ ((saves task0).core 0).saving = false ∧ (saves task0).ops = []
    ∧ (saves task0).parcel 1 1 = some { parcel0 with header := some runHead }
    ∧ coreFree (saves task0) 0 = false ∧ coreFree { saves task0 with tasks := [] } 0 = true
    ∧ ({ saves task0 with saved := [savedTask] } : State).saved.find? (fun x => decide (x.ctx = 1) && decide (x.hostSeq = 1)
        && decide (x.ordinal = 0)) = some savedTask ∧ savedTask.atOnce = true := by decide +kernel

/-- A task whose random-number states have been set. -/
def seeded : Machine.Task := { task0 with rng := (List.range 64).map fun l => (l, 0) }

def saving0 : State := (saves seeded).modCore 0 fun c => { c with saving := true }
def savingParcel : Parcel := { parcel0 with header := some runHead }
def piecesOf (s : State) (a n : Nat) : List Piece := match range s 1 (Use.of 1 nearFar) a n with | .ok p => p | _ => []
/-- The module once the image of the cistern has been written. -/
def image0 : State := writePieces ⟨1, some savingParcel.hostSeq, none, none⟩ (piecesOf saving0 0x90000 64) (Memory.slice (saving0.cis 0) 0 64) 0 saving0
def body0 : State := putPieces ⟨1, some 1, none, none⟩ (piecesOf image0 (runHead.area 0 + 64) 147392) (saveBody seeded) image0

theorem area_saved : ∃ s', writeArea 1 runHead (w0, seeded) image0 = .ok s' := by
  have h : range image0 1 (Use.of 1 nearFar) (runHead.area 0 + 64) 147392
      = .ok (piecesOf image0 (runHead.area 0 + 64) 147392) := by decide +kernel
  have h' : range body0 1 (Use.of 1 nearFar) (runHead.area 0) 64 = .ok (piecesOf body0 (runHead.area 0) 64) := by decide +kernel
  have hc : checkClocks image0 (runHead.area 0 + 64) (piecesOf image0 (runHead.area 0 + 64) 147392) = .ok () := by decide +kernel
  have hc' : checkClocks body0 (runHead.area 0) (piecesOf body0 (runHead.area 0) 64) = .ok () := by decide +kernel
  have e : writeArea 1 runHead (w0, seeded) image0
      = (devWrite image0 ⟨1, some 1, none, none⟩ (Use.of 1 nearFar) (runHead.area 0 + 64) (saveBody seeded)).bind
          fun s1 => devWrite s1 ⟨1, some 1, none, none⟩ (Use.of 1 nearFar) (runHead.area 0) (saveHeader seeded 1 false) := rfl
  have e1 : devWrite image0 ⟨1, some 1, none, none⟩ (Use.of 1 nearFar) (runHead.area 0 + 64) (saveBody seeded) = .ok body0 :=
    devWrite_ok (saveBody_length seeded) h hc
  have e2 : devWrite body0 ⟨1, some 1, none, none⟩ (Use.of 1 nearFar) (runHead.area 0) (saveHeader seeded 1 false)
      = .ok (putPieces ⟨1, some 1, none, none⟩ (piecesOf body0 (runHead.area 0) 64) (saveHeader seeded 1 false) body0) :=
    devWrite_ok (saveHeader_length _ _ _) h' hc'
  rw [e, e1, bind_ok rfl, e2]
  exact ⟨_, rfl⟩

/-- O49: a core under a fence is saved: its image and the area of its task are written. -/
theorem test_meets_core_saved : ∃ s', writeCore 0 .fence 1 savingParcel runHead [(w0, seeded)] saving0 = .ok s' := by
  have hf : (saving0.core 0).footprint.getD 0 = 64 := by decide +kernel
  have h0 : cisParity saving0 0 0 64 = .ok () := by decide +kernel
  have he : coreSound saving0 0 = .ok () := by decide +kernel
  have h1 : range saving0 1 (Use.of 1 nearFar) (runHead.cisBase + seeded.ordinal * runHead.cisStride) 64
      = .ok (piecesOf saving0 0x90000 64) := by decide +kernel
  obtain ⟨s2, h2⟩ := area_saved
  have h3 : [(w0, seeded)].foldlM (fun (x : State) e => writeArea 1 runHead e x) image0 = .ok s2 := by
    rw [List.foldlM_cons, h2]; rfl
  unfold image0 at h3
  exact writeCore_ok hf h0 he h1 h3

/-! The host interface -/

def header (ver kind ctx seq len : Nat) : List Byte :=
  leBytes 32 (ver + kind * 2 ^ 8 + ctx * 2 ^ 16 + seq * 2 ^ 32 + len * 2 ^ 64) ++ List.replicate 32 0
def fenceParcel (seq : Nat) : List Byte := header 2 3 1 seq 0
def hosts (x : Ctx) : State := { runs task0 with ctxs := [(1, x)], hg := { (runs task0).hg with bar4Ctx := 1, bar4Base := 0x20000 } }
def idle1 : Ctx := { ctx1 with parcels := [] }

/-- O51: writes to a closed context, at the wrong place, with the last byte short of a header, and a whole parcel with each
verdict. -/
theorem test_meets_intake :
    HostReady (hosts idle1) ∧ ((hosts idle1).ctx 1).isOpen = true ∧ idle1.halt = .none ∧ idle1.intake = []
    ∧ ({ idle1 with phase := .closed } : Ctx).isOpen = false ∧ 1 ≠ idle1.regs.tail.toNat % 4194304
    ∧ (List.replicate 31 (7 : Byte)).length < 32 ∧ parcelSize (fenceParcel 1) = (fenceParcel 1).length
    ∧ parcelLength (fenceParcel 1) ≤ 16383 ∧ idle1.sealed.state = .none ∧ (hosts idle1).log.failed = false
    ∧ judge (hosts idle1) 1 0 (headerOf (fenceParcel 1)) = .accepted ∧ judge (hosts idle1) 1 0 (headerOf (fenceParcel 2)) = .gap
    ∧ judge (hosts idle1) 1 0 (headerOf (fenceParcel 0)) = .duplicate
    ∧ judge (hosts idle1) 1 0 (headerOf (header 2 3 2 1 0)) = .malformed
    ∧ judge (hosts idle1) 1 0 (headerOf (header 3 3 1 1 0)) = .levelMismatch
    ∧ takesPlace (headerOf (fenceParcel 1)) = true ∧ queueDepth idle1 < 256
    ∧ frontComplete (fenceParcel 1) = true ∧ frontComplete [] = false
    ∧ 256 ≤ queueDepth { idle1 with parcels := List.replicate 256 { parcel0 with progress := .waiting } } := by
  unfold HostReady; decide +kernel

/-- O51: a write that overruns the slice by one byte, and a parcel whose length is too great by one. -/
theorem test_meets_intake_halts :
    4194304 < idle1.intake.length + (List.replicate 4194305 (7 : Byte)).length
    ∧ idle1.regs.tail.toNat % 4194304 = 0 ∧ 32 ≤ idle1.intake.length + (header 2 3 1 1 16384).length
    ∧ idle1.intake.length + (header 2 3 1 1 16384).length ≤ 4194304 ∧ 16383 < parcelLength (idle1.intake ++ header 2 3 1 1 16384) := by
  refine ⟨?_, by decide +kernel, by decide +kernel, by decide +kernel, by decide +kernel⟩
  rw [List.length_replicate]; decide +kernel

/-- O50, O51: contexts that can and cannot be opened, with rings at the bounds of their size; snapshots and consumed numbers at
their bounds; a queued record with and without space; a finished parcel. -/
theorem test_meets_contexts :
    hostUp (hosts idle1) = true ∧ ({ idle1 with phase := .closed } : Ctx).phase = .closed
    ∧ idle1.regs.ringBase.toNat % (32 * 2 ^ 6) = 0 ∧ 6 ≤ idle1.regs.log2Entries.toNat ∧ rootOk idle1.regs.ptRoot.toNat = true
    ∧ (21 : Nat) > 20 ∧ 1023 < 1024
    ∧ ((5 : W32) - 0).toNat ≤ ((5 : W32) - 0).toNat ∧ ((5 : W32) - 0).toNat < ((6 : W32) - 0).toNat
    ∧ ringSpace { idle1.regs with lastWritten := 63 } = true ∧ ringSpace { idle1.regs with lastWritten := 64 } = false
    ∧ idle1.regs.ringAts = false ∧ (hosts idle1).memoriesOk = true
    ∧ (hosts { ctx1 with parcels := [{ parcel0 with running := 0 }] }).parcel 1 1 = some { parcel0 with running := 0 }
    ∧ workDone (runs task0) 1 parcel0 = false
    ∧ workDone (hosts { ctx1 with parcels := [{ parcel0 with running := 0 }] }) 1 { parcel0 with running := 0 } = true := by
  decide +kernel

/-- O51: BAR4 at its last byte and beyond it, mapped to the host tier, to an address that no table maps, and to context 0. -/
theorem test_meets_bar4 :
    2 ^ 28 - 8 + 8 ≤ 2 ^ (hosts idle1).hg.cfg.bar4Log2 ∧ 2 ^ (hosts idle1).hg.cfg.bar4Log2 < 2 ^ 28 - 8 + 9
    ∧ windowOf (hosts idle1) 1 useRead 0x20000 = none
    ∧ bar4Pieces (hosts idle1) 0 0 8 = .ok [(.host, 0x400000, 8)] ∧ bar4Pieces (hosts idle1) 1 0 8 = .ok [(.host, 0x400000, 8)]
    ∧ checkPieces (hosts idle1) 0x20000 [(.host, 0x400000, 8)] = .ok ()
    ∧ (match bar4Pieces (hosts idle1) 0 0x20000 8 with | .error (.violation _ c _) => decide (c ≠ 3) | _ => false) = true
    ∧ (match bar4Pieces (hosts idle1) 1 0x20000 8 with | .error (.violation _ c _) => decide (c ≠ 3) | _ => false) = true
    ∧ (hosts idle1).dg.held = [] := by decide +kernel

/-! Parcels -/

def waits (k w : Nat) : Parcel := { parcel0 with
  kind := BitVec.ofNat 8 k, payload := leBytes 64 w, progress := .waiting, running := 0 }
/-- A run header at 0 and a map that covers its areas. -/
def runMem : List Host.Cell :=
  Memory.write (Memory.write tables 0x102008 (leBytes 8 0xE3)) 0x200000
    (leBytes 32 (0x50000000 + 0x24000 * 2 ^ 64 + 0x60000000 * 2 ^ 128 + 0x10000 * 2 ^ 192))
/-- The module with one parcel that waits, a run header at 0, and what a RUN of two tasks on two cores needs. -/
def starts (p : Parcel) : State := { runs task0 with
  tasks := [], ctxs := [(1, { ctx1 with parcels := [p] })]
  mem := { Mem.reset with near := runMem } }
def runUnit : Nat := 0x40 + 2 * 2 ^ 128 + 2 * 2 ^ 144 + 2 * 2 ^ 160
def copyUnit : Nat := 0x20 + 0x20000 * 2 ^ 64 + 16 * 2 ^ 128

/-- A dump under way at its last record. -/
def dumps : Parcel := { waits 7 0x80 with progress := .started, entriesDone := 65535 }

/-- O52: the next parcel of a context, of each kind; a RUN with free cores and a bad header; a COPY between pages and one of an
address that no table maps. -/
theorem test_meets_parcels :
    (∀ k ∈ [1, 2, 3, 6, 7, 8, 9, 10], nextParcel (starts (waits k 0)) 1 = some (waits k 0))
    ∧ coresFree (starts (waits 1 runUnit)) runUnit = true ∧ runTasks runUnit ≤ 4 ∧ (waits 1 runUnit).kind = kRun
    ∧ (∀ k ∈ runCores runUnit, coreGone (starts (waits 1 runUnit)) k = false)
    ∧ okay (readRunHeader (starts (waits 1 (runUnit + 8 * 2 ^ 64))) 1 (runUnit + 8 * 2 ^ 64)) = false
    ∧ (waits 2 copyUnit).kind = kCopy
    ∧ range (starts (waits 2 copyUnit)) 1 useRead (bitsN copyUnit 63 0) (bitsN copyUnit 167 128) = .ok [(.near, 0x200020, 16)]
    ∧ checkPieces (starts (waits 2 copyUnit)) (bitsN copyUnit 63 0) [(.near, 0x200020, 16)] = .ok ()
    ∧ range (starts (waits 2 copyUnit)) 1 useWrite (bitsN copyUnit 127 64) (bitsN copyUnit 167 128) = .ok [(.host, 0x400000, 16)]
    ∧ okay (startCopy 1 (waits 2 (copyUnit + 0x80000)) (starts (waits 2 (copyUnit + 0x80000)))) = false
    ∧ replayParcel (starts (waits 9 0)) 1 = none
    ∧ okay (devWrite (starts (waits 7 0x80)) (parcelWriter 1 1) useWrite 0x80 (tallyRecord (starts (waits 7 0x80)) 0)) = true
    ∧ okay (devWrite (starts (waits 7 0x80000)) (parcelWriter 1 1) useWrite 0x80000 (tallyRecord (starts (waits 7 0)) 0)) = false
    ∧ ((starts dumps).ctx 1).parcels.find? dumping = some dumps ∧ nextParcel (starts dumps) 1 = none := by decide +kernel

def asks : Parcel := { waits 4 (1 + 0x20040 * 2 ^ 64) with progress := .started, sample := List.replicate 64 5 }
def placing : Parcel := { waits 1 runUnit with progress := .started, unplaced := [1], running := 2, header := some runHead }
def aborting (begun : Bool) : State := { runs task0 with
  ctxs := [(1, { ctx1 with phase := .aborting, parcels := [{ parcel0 with claimed := some 9 }], aborts := [⟨9, false, false, 0, begun, [(1, 1)]⟩] })] }

/-- O52: an ordinal to place, a QUERY to answer, and an ABORT that has claimed its parcels, has ended their work. -/
theorem test_meets_rest_of_parcels :
    (starts placing).parcel 1 1 = some placing ∧ placing.unplaced.contains 1 = true ∧ coreFree (starts placing) 5 = true
    ∧ ((starts asks).ctx 1).parcels.find? (fun q => decide (q.kind = kQuery) && !q.sample.isEmpty && q.failure.isNone
        && q.claimed.isNone && decide (bitsN q.unit 7 0 = 1)) = some asks
    ∧ okay (devWrite (starts asks) ⟨1, some asks.hostSeq, none, none⟩ useWrite (bitsN asks.unit 127 64) asks.sample) = true
    ∧ (((aborting false).ctx 1).aborts.find? (fun a => !a.begun)).isSome = true
    ∧ ((aborting true).ctx 1).aborts = [⟨9, false, false, 0, true, [(1, 1)]⟩] := by decide +kernel

/-! Moves, copies and replays -/

def entryOf (op row dst flags : Nat) : List Byte := leBytes 32 (op + flags + row * 2 ^ 8 + dst * 2 ^ 64)
def migrates (op row dst flags : Nat) : Parcel := { parcel0 with
  kind := 6, payload := leBytes 64 (256 + 0x2000 * 2 ^ 64) ++ entryOf op row dst flags ++ List.replicate 32 0, running := 0 }
def moves0 (p : Parcel) (l : List Move) : State := { withEmb (runs task0) with
  ctxs := [(1, { ctx1 with parcels := [p] })], merge := { Merge.reset with moves := l } }
def move0 (ph : MovePhase) : Move :=
  ⟨0, 1, 1, 0x2000, 1, 0x4000, some 0x8040, some 0x9000, false, false, false, 1, 0, ph, false, [], [], []⟩

/-- O53: an entry of a row that is free, one of a row that moves, one that is skipped; a move in each phase. -/
theorem test_meets_moves :
    (entryParcel (moves0 (migrates 0 1 0x9000 0) []) 1 0).isSome = true ∧ entryParcel (moves0 (migrates 0 1 0x9000 0) []) 1 1 = none
    ∧ rowBusy (moves0 (migrates 0 1 0x9000 0) []) 1 0x2000 1 = false
    ∧ rowBusy (moves0 (migrates 0 1 0x9000 0) [move0 .copying]) 1 0x2000 1 = true
    ∧ (match recordAt (moves0 (migrates 0 1 0x9000 0) []) 0x2000 with
        | .ok e => (match planMove (moves0 (migrates 0 1 0x9000 0) []) 1 e ((migrates 0 1 0x9000 0).entry 0) with
            | .ok (.ok (src, dst, h)) => okay (markMove 1 (migrates 0 1 0x9000 0) e ((migrates 0 1 0x9000 0).entry 0) src dst h
                (moves0 (migrates 0 1 0x9000 0) [])) | _ => false)
          && (match planMove (moves0 (migrates 1 1 0 0) []) 1 e ((migrates 1 1 0 0).entry 0) with
            | .ok (.error _) => true | _ => false)
        | _ => false) = true
    ∧ (migrates 1 1 0 0).moveResult = 0
    ∧ findMove (moves0 parcel0 [move0 .draining]) 0 = some (move0 .draining)
    ∧ boundTo (moves0 parcel0 [move0 .draining]) 1 0x8040 = false := by decide +kernel

/-- O53: a move whose new home can be written. -/
theorem test_meets_move_commit :
    (match recordAt (moves0 parcel0 []) 0x2000 with
      | .ok e => (match planMove (moves0 (migrates 0 1 0x9000 0) []) 1 e ((migrates 0 1 0x9000 0).entry 0) with
          | .ok (.ok (src, dst, h)) => (match markMove 1 (migrates 0 1 0x9000 0) e ((migrates 0 1 0x9000 0).entry 0) src dst h
              (moves0 (migrates 0 1 0x9000 0) []) with
            | .ok s1 => (match s1.merge.moves with | [m] => okay (commitMove m s1) | _ => false)
            | _ => false)
          | _ => false)
      | _ => false) = true := by decide +kernel

def ledger (q : Nat) : LedgerParcel := { hostSeq := BitVec.ofNat 32 q, kind := 1, payload := List.replicate 64 1, endUnit := 3, irq := false, recorded := true }
def replaysOf (d : SealCtx) (ps : List Parcel) : State := { runs task0 with ctxs := [(1, { ctx1 with parcels := ps, sealed := d })] }
def feeds (l : List LedgerParcel) : SealCtx := { ctx1.sealed with state := .replaying, inReplay := true, toReplay := l }

/-- O53: a step that is dirty; a replay with two parcels to feed, one of which still stands, and one with none left. -/
theorem test_meets_replays :
    ((replaysOf { ctx1.sealed with state := .sealed, dirty := true, parcels := [ledger 4] } []).ctx 1).sealed.dirty = true
    ∧ (replayParcel (replaysOf { ctx1.sealed with state := .sealed, dirty := true, parcels := [ledger 4] } []) 1).all
        (fun p => decide (p.progress ≠ .started)) = true
    ∧ feeding (replaysOf (feeds [ledger 4, ledger 5]) []) 1 = false ∧ withdrawing (replaysOf (feeds [ledger 4, ledger 5]) []) 1 = false
    ∧ (replaysOf (feeds [ledger 4, ledger 5]) []).parcel 1 (ledger 4).hostSeq = none
    ∧ (replaysOf (feeds [ledger 1]) [{ parcel0 with progress := .recorded }]).parcel 1 1 = some { parcel0 with progress := .recorded }
    ∧ feeding (replaysOf (feeds [ledger 1]) [{ parcel0 with progress := .recorded }]) 1 = false
    ∧ feeding (replaysOf (feeds []) []) 1 = false ∧ dueUnits (runs task0) = []
    ∧ withdrawing { replaysOf (feeds []) [] with tags := [⟨0, 1, 1, .withdraw 2, 0, false⟩] } 1 = true
    ∧ parcel0.claimed = none ∧ parcel0.silent = false ∧ (ledger 4).recorded = true := by decide +kernel

/-! Memory tiers, fences and the spill log -/

def ingests (fla len : Nat) (st : BitVec 2) (op : Bool) : Ingest := { Ingest.reset with
  cmd := { Ingest.reset.cmd with fla := fla, len := len, op := op, context := 1, src := 0x20 }
  regs := { Ingest.reset.cmd with fla := fla, len := len }, state := st }
def loads (x : Ingest) : State := { runs task0 with mt := { MemTier.reset with ingest := [(15, x)] } }

/-- O54: invalidations free and under way, with and without accesses of the old translation; ranges of sectors that are good,
misaligned, empty, and at the end of the capacity and beyond it; an ingest and a trim that run. -/
theorem test_meets_tiers :
    (runs task0).mt.invalBusy = false ∧ (runs task0).hg.atsWaiting = [] ∧ invalOpen (runs task0) = false
    ∧ ((loads (ingests 0 4096 0 false)).ingest 15).state = 0
    ∧ 5 % 4096 ≠ 0 ∧ (13671874999 * 4096) / 4096 + 4096 / 4096 ≤ (loads (ingests 0 4096 0 false)).mt.capSectors
    ∧ (loads (ingests 0 4096 0 false)).mt.capSectors < 13671875000 + 4096 / 4096 ∧ reserveReadOnly (runs task0) = false
    ∧ ingestWaits (loads (ingests 4096 4096 1 true)) 15 = false ∧ (loads (ingests 4096 4096 1 true)).mt.fenceFlash = 0
    ∧ (loads (ingests 4096 4096 1 true)).memoriesOk = true
    ∧ range (loads (ingests 8192 4096 1 false)) 1 (Use.of 0 nearFarHost) 0x20 4096 = .ok [(.near, 0x200020, 4096)]
    ∧ checkPieces (loads (ingests 8192 4096 1 false)) 0x20 [(.near, 0x200020, 4096)] = .ok ()
    ∧ blockLive (runs task0) 31 0 = true ∧ ({ MemTier.reset with rebuilding := true } : MemTier).rebuilding = true
    ∧ (runs task0).links.routing = false ∧ ((runs task0).slot 4095).bound = false ∧ (runs task0).hg.held = []
    ∧ (runs task0).hg.detect = false ∧ (26 : Word).toNat = 26 ∧ (40 : Word).toNat = 40 ∧ (25 : Word).toNat < 26
    ∧ 40 < (41 : Word).toNat ∧ 4 % 8 ≠ 0 ∧ 2 % 4 ≠ 0 ∧ 0x200040 % 8 = 0 := by decide +kernel

def testing (kind index : Nat) : State := { runs task0 with fence := { Fencing.reset with
  bistBusy := true, bistKind := BitVec.ofNat 8 kind, bistIndex := BitVec.ofNat 32 index, testKind := kind, testIndex := index } }
def record0 (severity : Nat) : Spill := ⟨3, 1, severity, 2, 1, some 1, 7, 1, 0, 1, 2, 0, 0, 0⟩
def logged (r : Spill) : State := { runs task0 with log := { ErrLog.reset with staging := [(1, [r])], irq := true } }

/-- O55: units that are there, that are not, and that are fenced; a core with tasks and one without; tests of the last sampler
and of a module of an edge; lanes of one half and of both; one record to drain. -/
theorem test_meets_fences_and_log :
    (runs task0).active = true ∧ unitExists 1 511 = true ∧ unitExists 1 512 = false ∧ unitFenced (runs task0) 1 0 = false
    ∧ unitFenced { runs task0 with cores := [(0, { Core.reset with fenced := true })] } 1 0 = true
    ∧ (runs task0).coreTasks 0 ≠ [] ∧ (runs task0).coreTasks 1 = [] ∧ (runs task0).fence.waiting = []
    ∧ (runs task0).fence.bistBusy = false ∧ bistKind 255 = false ∧ (testing 2 31).fence.bistBusy = true
    ∧ unitFenced (testing 2 31) 2 31 = false ∧ (testing 8 111).fence.testIndex = 111 ∧ (testing 8 111).fence.ucie.get 0 111 = 0
    ∧ (testing 1 0).coreTasks (testing 1 0).fence.testIndex ≠ []
    ∧ (logged (record0 3)).log.staging = [(1, [record0 3])] ∧ dueUnits (logged (record0 3)) = []
    ∧ (logged (record0 3)).memoriesOk = true ∧ (record0 3).severity = 3 := by decide +kernel

/-- O58, O59, O60: the state at reset meets the premise of each invariant, and so does a module that runs. -/
theorem test_meets_invariants :
    State.reset.memoriesOk = true ∧ (∀ e ∈ State.reset.tallies, e.2.count ≠ 0 → e.2.queue = [])
    ∧ State.reset.fuses.lifecycle.toNat ≤ 4 ∧ (runs task0).memoriesOk = true ∧ State.reset.fuses.identityKey = true
    ∧ (∀ e ∈ (sends .wait { Tally.reset with queue := [waiter 1] }).tallies, e.2.count ≠ 0 → e.2.queue = []) := by
  decide +kernel

end Sys2Proof.Tests
end

section
/-! SUPPORT. RDINFO, PHASE and LOSS (04_selod_isa.md Table 4.16; 02_handshake_timing.md R49; 08_numerics.md R239 to R241;
09_training_step.md R253): how an instruction with an effect of its own ends or moves on, what a report to the spill log leaves, and
what the loss-spike detector answers. -/

namespace Sys2Proof.Machine

open Sys2Proof

/-! ### The meanings of the three -/

theorem exec_rdinfo (w : Who) (g : Guard) (rd : Fin 64) (imm : W32) (s : State) :
    exec (.rdinfo w g rd imm) s = execRdinfo w g rd imm s := rfl

theorem exec_phase (w : Who) (g : Guard) (imm : W32) (s : State) : exec (.phase w g imm) s = execPhase w g imm s := rfl

theorem exec_loss (w : Who) (g : Guard) (rd ra : Fin 64) (imm : W32) (s : State) :
    exec (.loss w g rd ra imm) s = execLoss w g rd ra imm s := rfl

/-! ### How an instruction issues -/

section
variable {s : State} {w : Who} {t : Task} {ok : Task → Bool} {body : Task → State → State}

/-- A malformed form of an instruction that a task issues after its ENTRY (R96). -/
theorem endsParcel_issue (h : Ready s w t) (hok : ok t = false) :
    EndsParcel (issue w ok body s) s w t (.violation 2 4 t.pc.toNat) := by
  obtain ⟨ht, -, hc⟩ := h
  exact issue_malformed ht hc (.inr hok)

/-- An instruction whose effect, as its guard stands, is on its own task alone. -/
theorem runsTask_issue {t' : Task} {p : Task → Prop} (h : Ready s w t) (hok : ok t = true)
    (hb : body t (issued w s) = (issued w s).setTask w t') (hp : p t') : RunsTask (issue w ok body s) s w p :=
  ⟨_, t', (issue_ready h hok).trans (congrArg _ hb), becomes_setTask s w t', hp⟩

end

theorem goesTo_advance (t : Task) : GoesTo t (t.pc + 8) t.advance := rfl

theorem writesScalar_setS (t : Task) (rd : Fin 64) (v : Word) : WritesScalar t rd v (t.setS rd v).advance :=
  ⟨by simp, fun r hr => by simp [hr], rfl⟩

/-! ### RDINFO -/

section
variable {s : State} {w : Who} {t : Task} {g : Guard} {rd : Fin 64}

/-- Item 1 reads the interval timer of the task's die and writes its stamp (R49). -/
theorem execRdinfo_stamp (h : Ready s w t) (hg : t.acts g = true) : execRdinfo w g rd 1 s =
    .next ((readTimer (Who.die w) (issued w s)).2.setTask w
      (t.setS rd (stamp (Who.die w) (readTimer (Who.die w) (issued w s)).1)).advance) := by
  rw [execRdinfo, issue_ready h rfl]
  simp [hg]

theorem readTimer_le (d : Nat) (s : State) : (s.die d).ticks ≤ (readTimer d s).1 := Nat.le_add_right _ _

theorem readTimer_ticks (d : Nat) (s : State) : ((readTimer d s).2.die d).ticks = (readTimer d s).1 :=
  congrArg Die.ticks (State.die_modDie_same s d fun x => { x with ticks := (readTimer d s).1 })

theorem onlyTask_readTimer (s : State) (w : Who) (d : Nat) (t' : Task) :
    OnlyTask s { (readTimer d (issued w s)).2.setTask w t' with dies := s.dies, freeCount := s.freeCount } w :=
  (becomes_setTask s w t').2

end

/-! ### PHASE -/

/-- At level 2, a phase of at most 5 becomes the mark of the core (R253). -/
theorem execPhase_acts {s : State} {w : Who} {t : Task} {g : Guard} {imm : W32} (h : Ready s w t) (hl : t.level ≠ 1)
    (hi : imm.toNat ≤ 5) (hg : t.acts g = true) : execPhase w g imm s =
      .next (((issued w s).setTask w t.advance).modCore w.core fun c => { c with mark := some (Fin.ofNat 6 imm.toNat) }) := by
  rw [execPhase, issue_ready h (by rw [level2, decide_eq_true hl, decide_eq_true hi]; rfl)]
  simp [hg]

/-! ### Numeric events in the spill log (R239, R429, R430) -/

/-- A report counts one event of its class, whether its staging buffer takes it or not. -/
theorem report_classes (r : Spill) (s : State) : (report r s).log.classes = s.log.classes.bump r.cls 1 := by
  simp only [report]
  split <;> split <;> rfl

section
variable (c : Nat) (h : W32) (die : Nat) (z : W32) (d1 : Nat) (s : State)

theorem numericEvent_task (w : Who) : (numericEvent c h die z d1 s).task w = s.task w := rfl

theorem numericEvent_ctx (j : Nat) : (numericEvent c h die z d1 s).ctx j = s.ctx j := rfl

theorem numericEvent_count :
    (numericEvent c h die z d1 s).log.classes.get 0 3 = min (2 ^ 48 - 1) (s.log.classes.get 0 3 + 1) := by
  rw [numericEvent, report_classes]
  exact Tab.bump_get _ _ _

end

/-! ### The loss-spike detector (R240, R241) -/

/-- The immediates of LOSS that R240 admits. -/
theorem lossOk_iff (imm : W32) : lossOk imm.toNat = true ↔
    imm.toNat % 16 ≠ 0 ∧ imm.toNat / 16 % 256 ≠ 0 ∧ imm.toNat < 2 ^ 22 := by
  have hlt := imm.isLt
  simp only [lossOk, bitsN, Nat.shiftRight_eq_div_pow, Bool.and_eq_true, decide_eq_true_eq]
  omega

/-- A LOSS is well formed at level 2, with an immediate that R240 admits. -/
theorem lossFormed_iff (t : Task) (imm : W32) : (level2 t && lossOk imm.toNat) = true ↔
    t.level ≠ 1 ∧ imm.toNat % 16 ≠ 0 ∧ imm.toNat / 16 % 256 ≠ 0 ∧ imm.toNat < 2 ^ 22 := by
  rw [Bool.and_eq_true, lossOk_iff, level2, decide_eq_true_eq]

/-- The verdict's word on a report that is no finite number: z is the canonical NaN, and bit 33 is set. -/
theorem Verdict.word_nonfinite : Verdict.word ⟨nan32, false, true, false⟩ = 0x7FC00000 + 2 ^ 33 := by decide

/-- The verdict's word on the first report: bit 34 alone is set. -/
theorem Verdict.word_first : Verdict.word ⟨0, false, false, true⟩ = 2 ^ 34 := by decide

theorem detect_nonfinite {x : W32} (hx : nonfin x = true) (d : Detector) (imm : Nat) :
    detect d x imm = (d, ⟨nan32, false, true, false⟩) := by simp [detect, hx]

theorem detect_first {d : Detector} {x : W32} (hx : nonfin x = false) (hc : d.count = 0) (imm : Nat) :
    detect d x imm = (⟨1, x, 0⟩, ⟨0, false, false, true⟩) := by simp [detect, hx, hc]

section
variable {d : Detector} {x : W32} (hx : nonfin x = false) (hc : d.count ≠ 0) (imm : Nat)
include hx hc

/-- The verdict on a later report: z is its distance from the mean over the root of the variance, rounded at each operation, and it
is a spike only once the detector has warmed up. -/
theorem detect_later :
    (detect d x imm).2.z = round32 ((f32 (round32 ((f32 x).add (f32 d.mean).neg))).mul (f32 (frsq d.var)))
      ∧ (detect d x imm).2.warming = decide (d.count.toNat < imm / 4096 % 256) ∧ (detect d x imm).2.nonfinite = false
      ∧ ((detect d x imm).2.warming = true → (detect d x imm).2.spike = false) := by
  have hw : bitsN imm 19 12 = imm / 4096 % 256 := by simp [bitsN, Nat.shiftRight_eq_div_pow]
  rw [detect, if_neg (by simp [hx]), if_neg hc, ← hw]
  exact ⟨rfl, rfl, rfl, fun h => Bool.and_eq_false_imp.mpr fun h' => absurd h (by simpa using h')⟩

end

/-! ### LOSS -/

/-- State s' differs from s0 at most where a LOSS report writes: the task slots, the contexts, and what an event of the
log takes. -/
def OnlyReport (s0 s' : State) : Prop :=
  { s' with tasks := s0.tasks, ctxs := s0.ctxs, log := s0.log, dies := s0.dies, freeCount := s0.freeCount } = s0

theorem OnlyReport.refl (s : State) : OnlyReport s s := rfl

section
variable {s0 s : State} (h : OnlyReport s0 s)
include h

theorem OnlyReport.setTask (w : Who) (t : Task) : OnlyReport s0 (s.setTask w t) := h

theorem OnlyReport.modCtx (c : Nat) (f : Ctx → Ctx) : OnlyReport s0 (s.modCtx c f) := h

theorem OnlyReport.numericEvent (c : Nat) (q : W32) (die : Nat) (z : W32) (d1 : Nat) :
    OnlyReport s0 (numericEvent c q die z d1 s) := h

end

/-- A report has moved its task on: the verdict is in rd, and the detector of the task's context has gone forward. -/
def reported (w : Who) (t : Task) (rd : Fin 64) (r : Detector × Verdict) (s : State) : State :=
  (s.setTask w (t.setS rd r.2.word).advance).modCtx t.ctx fun c => { c with det := r.1 }

/-- A report that is no finite number has been counted in CT_NONFINITE and noted with its parcel (R239). -/
def nonfiniteCounted (t : Task) (s : State) : State :=
  (s.modRegs t.ctx fun c => { c with nonfinite := satAdd top48 c.nonfinite 1 }).modParcel t.ctx t.hostSeq
    fun p => { p with nonfinite := true }

section
variable {s : State} {w : Who} {t : Task} {g : Guard} {rd ra : Fin 64} {imm : W32} {r : Detector × Verdict}
variable (h : Ready s w t) (hok : (level2 t && lossOk imm.toNat) = true) (hg : t.acts g = true)
  (hr : detect (s.ctx t.ctx).det ((t.sreg ra).truncate 32) imm.toNat = r)
include h hok hg hr

/-- A finite report that is no spike raises no event. -/
theorem execLoss_quiet (hs : r.2.spike = false) (hn : r.2.nonfinite = false) :
    execLoss w g rd ra imm s = .next (reported w t rd r (issued w s)) := by
  rw [execLoss, issue_ready h hok]
  simp [hg, hr, hs, hn, reported]

/-- A spike raises a numeric event of the task's die. -/
theorem execLoss_spike (hs : r.2.spike = true) (hn : r.2.nonfinite = false) : ∃ d1, execLoss w g rd ra imm s =
    .next (numericEvent t.ctx t.hostSeq (Who.die w) r.2.z d1 (reported w t rd r (issued w s))) := by
  rw [execLoss, issue_ready h hok]
  simp only [issued_ctx, hg, hr, hs, hn, if_true]
  exact ⟨_, rfl⟩

/-- A report that is no finite number is counted, and raises a numeric event of the task's die. -/
theorem execLoss_nonfinite (hn : r.2.nonfinite = true) : ∃ d1, execLoss w g rd ra imm s =
    .next (numericEvent t.ctx t.hostSeq (Who.die w) r.2.z d1 (nonfiniteCounted t (reported w t rd r (issued w s)))) := by
  rw [execLoss, issue_ready h hok]
  simp only [issued_ctx, hg, hr, hn, if_true, Bool.or_true]
  exact ⟨_, rfl⟩

end

section
variable (w : Who) (t : Task) (rd : Fin 64) (r : Detector × Verdict) (s : State)

theorem onlyReport_reported : OnlyReport s (reported w t rd r s) :=
  ((OnlyReport.refl s).setTask w _).modCtx t.ctx _

theorem reported_task : (reported w t rd r s).task w = some (t.setS rd r.2.word).advance :=
  State.task_setTask_same s w _

theorem reported_det : ((reported w t rd r s).ctx t.ctx).det = r.1 := by simp [reported]

theorem reported_regs : ((reported w t rd r s).ctx t.ctx).regs = (s.ctx t.ctx).regs := by
  simp only [reported, State.ctx_modCtx_same]
  rfl

theorem reported_log : (reported w t rd r s).log = s.log := rfl

theorem OnlyReport.nonfiniteCounted {s0 : State} (h : OnlyReport s0 s) : OnlyReport s0 (nonfiniteCounted t s) :=
  (h.modCtx t.ctx _).modCtx t.ctx _

theorem nonfiniteCounted_task : (nonfiniteCounted t s).task w = s.task w := rfl

theorem nonfiniteCounted_log : (nonfiniteCounted t s).log = s.log := rfl

theorem nonfiniteCounted_det : ((nonfiniteCounted t s).ctx t.ctx).det = (s.ctx t.ctx).det := by
  simp [nonfiniteCounted, State.modParcel, State.modRegs]

theorem nonfiniteCounted_count : ((nonfiniteCounted t s).ctx t.ctx).regs.nonfinite =
    min (2 ^ 48 - 1) ((s.ctx t.ctx).regs.nonfinite + 1) := by
  simp [nonfiniteCounted, State.modParcel, State.modRegs, satAdd, top48]

end

section
variable {s : State} {w : Who} {t : Task} {g : Guard} {rd ra : Fin 64} {imm : W32} {r : Detector × Verdict}
variable (h : Ready s w t) (hok : (level2 t && lossOk imm.toNat) = true) (hg : t.acts g = true)
  (hr : detect (s.ctx t.ctx).det ((t.sreg ra).truncate 32) imm.toNat = r)
include h hok hg hr

/-- What a finite report leaves: the verdict in rd, the detector as it has gone forward, and one event of class 3 where it is a
spike. -/
theorem execLoss_finite_leaves (hn : r.2.nonfinite = false) :
    ∃ s', execLoss w g rd ra imm s = .next s' ∧ s'.task w = some (t.setS rd r.2.word).advance
      ∧ (s'.ctx t.ctx).det = r.1
      ∧ s'.log.classes.get 0 3 =
          (if r.2.spike then min (2 ^ 48 - 1) (s.log.classes.get 0 3 + 1) else s.log.classes.get 0 3)
      ∧ OnlyReport (issued w s) s' := by
  cases hs : r.2.spike with
  | false =>
    exact ⟨_, execLoss_quiet h hok hg hr hs hn, reported_task _ _ _ _ _, reported_det _ _ _ _ _, rfl,
      onlyReport_reported _ _ _ _ _⟩
  | true =>
    obtain ⟨d1, hrun⟩ := execLoss_spike h hok hg hr hs hn
    refine ⟨_, hrun, ?_, ?_, ?_, (onlyReport_reported _ _ _ _ _).numericEvent _ _ _ _ _⟩
    · rw [numericEvent_task, reported_task]
    · rw [numericEvent_ctx, reported_det]
    · rw [numericEvent_count, reported_log, issued_log, if_pos rfl]

/-- What a report that is no finite number leaves: the verdict, the detector that `detect` answers, one more in CT_NONFINITE and
one event of class 3. -/
theorem execLoss_nonfinite_leaves (hn : r.2.nonfinite = true) :
    ∃ s', execLoss w g rd ra imm s = .next s' ∧ s'.task w = some (t.setS rd r.2.word).advance
      ∧ (s'.ctx t.ctx).det = r.1
      ∧ (s'.ctx t.ctx).regs.nonfinite = min (2 ^ 48 - 1) ((s.ctx t.ctx).regs.nonfinite + 1)
      ∧ s'.log.classes.get 0 3 = min (2 ^ 48 - 1) (s.log.classes.get 0 3 + 1)
      ∧ OnlyReport (issued w s) s' := by
  obtain ⟨d1, hrun⟩ := execLoss_nonfinite h hok hg hr hn
  refine ⟨_, hrun, ?_, ?_, ?_, ?_, ((onlyReport_reported _ _ _ _ _).nonfiniteCounted _ _).numericEvent _ _ _ _ _⟩
  · rw [numericEvent_task, nonfiniteCounted_task, reported_task]
  · rw [numericEvent_ctx, nonfiniteCounted_det, reported_det]
  · rw [numericEvent_ctx, nonfiniteCounted_count, reported_regs, issued_ctx]
  · rw [numericEvent_count, nonfiniteCounted_log, reported_log, issued_log]

end

end Sys2Proof.Machine
end

section
namespace Sys2Proof

open Machine

/-- Settles O25: RDINFO and PHASE by what an issue leaves, a LOSS report by the three answers of the detector: no finite number, the
first report, and a later one, which is a spike or not. -/
theorem informationPhaseAndLoss : Obligations.InformationPhaseAndLoss := by
  unfold Obligations.InformationPhaseAndLoss
  simp only [exec_rdinfo, exec_phase, exec_loss]
  constructor
  · intro s w t g rd imm h
    have hlevel : t.level ≠ 1 → level2 t = true := decide_eq_true
    refine ⟨fun hi hg => runsTask_issue h (decide_eq_true hi) (by simp [hg]) (goesTo_advance t),
      fun hl hi hg => runsTask_issue h (by simp [hlevel hl, hi]) (by simp [hg]) (goesTo_advance t),
      fun hi => endsParcel_issue h (decide_eq_false (by omega)),
      fun hg => ⟨?item0, ?item2, ?item3, ?item4, ?stamp⟩, fun hbad => endsParcel_issue h ?malformed,
      fun hl hi hg => ⟨_, execPhase_acts h hl hi hg, ?phase⟩⟩
    case item0 | item2 | item3 | item4 =>
      rintro rfl
      exact runsTask_issue h rfl (by simp [hg]) (writesScalar_setS t rd _)
    case stamp =>
      rintro rfl
      exact ⟨_, _, _, execRdinfo_stamp h hg, State.task_setTask_same _ w _, readTimer_le _ (issued w s),
        readTimer_ticks _ (issued w s), writesScalar_setS t rd _, onlyTask_readTimer s w _ _⟩
    case malformed =>
      rcases hbad with hl | hi
      · simp [level2, hl]
      · simp [Nat.not_le.mpr hi]
    case phase =>
      refine ⟨State.task_setTask_same _ w _, fun x hx => (State.task_setTask_other _ hx _).trans (issued_task w x s),
        ?_, ?_, rfl⟩
      · simpa using Nat.mod_eq_of_lt (by omega : imm.toNat < 6)
      · rw [State.core_modCore_same]
        rfl
  · rintro s w t g rd ra imm x d h rfl rfl
    refine ⟨fun hbad => endsParcel_issue h ?malformed,
      fun hl ha hk hi hg => runsTask_issue h ((lossFormed_iff t imm).mpr ⟨hl, ha, hk, hi⟩) (by simp [hg]) (goesTo_advance t),
      fun hl ha hk hi hg => ?report⟩
    case malformed =>
      rw [Bool.eq_false_iff, Ne, lossFormed_iff]
      rintro ⟨hl, ha, hk, hi⟩
      exact hbad.elim hl fun hb => by omega
    case report =>
      have hok := (lossFormed_iff t imm).mpr ⟨hl, ha, hk, hi⟩
      by_cases hn : nonfin ((t.sreg ra).truncate 32) = true
      · have hr := detect_nonfinite hn (s.ctx t.ctx).det imm.toNat
        obtain ⟨s', hrun, htask, hdet, hcount, hlog, hrest⟩ := execLoss_nonfinite_leaves h hok hg hr rfl
        exact ⟨s', _, hrun, htask, fun _ => ⟨Verdict.word_nonfinite ▸ writesScalar_setS t rd _, hdet, hcount, hlog⟩,
          fun h0 => absurd hn (by simp [h0]), fun h0 => absurd hn (by simp [h0]), hrest⟩
      · have hf : nonfin ((t.sreg ra).truncate 32) = false := Bool.eq_false_iff.mpr hn
        by_cases hc : (s.ctx t.ctx).det.count = 0
        · have hrun := execLoss_quiet (rd := rd) h hok hg (detect_first hf hc _) rfl rfl
          exact ⟨_, _, hrun, reported_task _ _ _ _ _, fun h1 => absurd h1 hn,
            fun _ _ => ⟨Verdict.word_first ▸ writesScalar_setS t rd _, reported_det _ _ _ _ _, rfl⟩, fun _ h1 => absurd hc h1,
            onlyReport_reported _ _ _ _ _⟩
        · obtain ⟨hz, hwarming, hfinite, hspike⟩ := detect_later hf hc imm.toNat
          obtain ⟨s', hrun, htask, hdet, hlog, hrest⟩ := execLoss_finite_leaves h hok hg rfl hfinite
          refine ⟨s', _, hrun, htask, fun h1 => absurd h1 hn, fun _ h1 => absurd h1 hc, ?_, hrest⟩
          rintro _ _ v rfl
          exact ⟨writesScalar_setS t rd _, hdet, hz, hwarming, hfinite, hspike, hlog⟩

end Sys2Proof
end

section
/-! SUPPORT. Host accesses that take effect, and the writes to CT_RING_CONSUMED (03_headgate_host.md R76). -/

namespace Sys2Proof.Machine

open Sys2Proof

theorem exec_ringConsumedWrite (c : Nat) (v : W32) (s : State) :
    exec (.ringConsumedWrite c v) s = hostCommand (.ringConsumedWrite c v) (writeConsumed c v) s := rfl

/-- What the host does to a unit that is powered in Drowse as well takes effect where nothing is held before it. -/
theorem hostCommand_ready {s : State} (h : HostReady s) (i : Instr) (f : State → State) :
    hostCommand i f s = .next (f s) := by
  obtain ⟨hact, hlink, hheld⟩ := h
  simp [hostCommand, hostUp, hact, hlink, hheld, go]

/-- A write to CT_RING_CONSUMED that is accepted (R76). -/
theorem writeConsumed_accepted {s : State} {c : Nat} {v : W32} (hc : c ≠ 0)
    (h : (s.ctx c).isOpen = true →
      (v - (s.ctx c).regs.consumed).toNat ≤ ((s.ctx c).regs.lastWritten - (s.ctx c).regs.consumed).toNat) :
    writeConsumed c v s = s.modRegs c fun r => { r with consumed := v, consumedRefused := false } := by
  have hok : ((s.ctx c).isOpen && decide
      (((s.ctx c).regs.lastWritten - (s.ctx c).regs.consumed).toNat < (v - (s.ctx c).regs.consumed).toNat)) = false := by
    rw [Bool.and_eq_false_imp]
    exact fun ho => decide_eq_false (Nat.not_lt.mpr (h ho))
  simp only [writeConsumed, hc, hok, if_false, Bool.false_eq_true]

/-- One that is ignored (R76). -/
theorem writeConsumed_refused {s : State} {c : Nat} {v : W32} (hc : c ≠ 0) (ho : (s.ctx c).isOpen = true)
    (h : ((s.ctx c).regs.lastWritten - (s.ctx c).regs.consumed).toNat < (v - (s.ctx c).regs.consumed).toNat) :
    writeConsumed c v s = s.modRegs c fun r => { r with consumedRefused := true } := by
  simp only [writeConsumed, hc, ho, h, if_false, if_true, decide_true, Bool.and_self]

theorem not_isOpen_closed {x : Ctx} (h : x.phase = .closed) : x.isOpen ≠ true := by simp [Ctx.isOpen, h]

end Sys2Proof.Machine
end

section

namespace Sys2Proof

open Machine

/-- Settles O50: an accepted write, a refused one, and one to a closed context, each by what the register's write does. -/
theorem ringConsumedWritesAreJudged : Obligations.RingConsumedWritesAreJudged := by
  unfold Obligations.RingConsumedWritesAreJudged
  rintro s c x held last value hr h1 - rfl rfl rfl
  have hc : c ≠ 0 := Nat.one_le_iff_ne_zero.mp h1
  simp only [exec_ringConsumedWrite, hostCommand_ready hr]
  refine ⟨fun _ h => ?accepted, fun ho h => ?refused, fun hp => ?closed⟩
  case accepted => exact congrArg _ (writeConsumed_accepted hc fun _ => h)
  case refused => exact congrArg _ (writeConsumed_refused hc ho h)
  case closed => exact congrArg _ (writeConsumed_accepted hc fun ho => absurd ho (not_isOpen_closed hp))

end Sys2Proof
end

section
/-! SUPPORT. The issue of the stream, sampling and sparsity instructions (03_headgate_host.md R82; 04_selod_isa.md R90, R93;
05_graph_sampling.md R152). -/

namespace Sys2Proof.Machine

open Sys2Proof

/-- What a stream instruction's level asks of its task. -/
def streamLevel (second : Bool) : Task → Bool := if second then level2 else anyLevel

/-- The sampler queue of a core's die is full. -/
def queueFull (s : State) (w : Who) : Bool := decide (64 ≤ (samplerQueue s (w.core / 64)).length)

section
variable {s s1 : State} {w : Who} {t : Task} {g : Guard} {grp : Fin 8} {ok : Task → Bool} {held : Bool}
  {f : Nat → Task → State → State × Except Bad AsyncOp}

theorem samplerOp_ready (h : Ready s w t) :
    samplerOp w g grp f s = waiting (t.acts g && queueFull s w) s (async w g grp anyLevel f s) := by
  obtain ⟨ht, he, -⟩ := h
  simp only [samplerOp, ht, he, Bool.true_and]
  rfl

/-- Each of the twelve is an asynchronous instruction of its level, which waits for its die's queue where it joins one. -/
theorem exec_stream (h : Ready s w t) (d : Fin 16) (func : BitVec 2) :
    ∀ i ∈ streamInstrs w g grp d func, exec i.1 s =
      waiting (i.2.2.1 && (t.acts g && queueFull s w)) s (async w g grp (streamLevel i.2.1) i.2.2.2 s) := by
  have hshuf : exec (.shuf w g grp d) s = samplerOp w g grp (plainOp w grp "SHUF" (shufNamed d) (shufEffect w d)) s := rfl
  have hsample : exec (.sample w g grp d) s = samplerOp w g grp (sampleEffect w grp d) s := rfl
  have hdedup : exec (.dedup w g grp d) s = samplerOp w g grp (plainOp w grp "DEDUP" (dedupNamed d) (dedupEffect w d)) s := rfl
  simp only [streamInstrs, List.forall_mem_cons, hshuf, hsample, hdedup, samplerOp_ready h]
  exact ⟨rfl, rfl, rfl, rfl, rfl, rfl, rfl, rfl, rfl, rfl, rfl, rfl, List.forall_mem_nil _⟩

/-- No instruction of level 2 joins a sampler queue. -/
theorem streamInstrs_unqueued (w : Who) (g : Guard) (grp : Fin 8) (d : Fin 16) (func : BitVec 2) :
    ∀ i ∈ streamInstrs w g grp d func, i.2.1 = true → i.2.2.1 = false := by simp [streamInstrs]

/-- A guarded-off asynchronous instruction moves its task on and does nothing else (R93). -/
theorem async_off (h : Ready s w t) (hok : ok t = true) (hg : t.acts g = false) :
    RunsTask (async w g grp ok f s) s w (GoesTo t (t.pc + 8)) := by
  unfold async
  simp only [h.1, hg, Bool.and_false, Bool.false_and, Bool.false_eq_true, if_false]
  exact runsTask_issue h hok (by simp [hg]) (goesTo_advance t)

/-- One whose group counter stands at 255 waits (R90). -/
theorem async_full (h : Ready s w t) (hok : ok t = true) (hg : t.acts g = true) (hr : 255 ≤ t.groups.get 0 grp.val) :
    async w g grp ok f s = .next s := by
  obtain ⟨ht, he, -⟩ := h
  simp [async, ht, he, hok, hg, hr, go]

/-- One that its task's level shuts out is malformed (R96). -/
theorem async_malformed (h : Ready s w t) (hok : ok t = false) :
    EndsParcel (async w g grp ok f s) s w t (.violation 2 4 t.pc.toNat) := by
  unfold async
  simp only [h.1, hok, Bool.and_false, Bool.false_and, Bool.false_eq_true, if_false]
  exact endsParcel_issue h hok

end

theorem streamLevel_fails {second : Bool} {t : Task} (h : second = true) (hl : t.level = 1) :
    streamLevel second t = false := by simp [streamLevel, h, level2, hl]

theorem streamLevel_ok {second : Bool} {t : Task} (h : second = false ∨ t.level ≠ 1) : streamLevel second t = true := by
  cases second
  · rfl
  · exact decide_eq_true (h.resolve_left Bool.noConfusion)

@[simp] theorem waiting_false (s : State) (out : Out) : waiting false s out = out := rfl

theorem waiting_cases (held : Bool) {s : State} {out : Out} (h : out = .next s) : waiting held s out = .next s := by
  cases held
  · exact h
  · rfl

end Sys2Proof.Machine
end

section

namespace Sys2Proof

open Machine

/-- Settles O18: each of the twelve is an asynchronous instruction behind its die's queue (`exec_stream`), so what it does is what
`async` does with its effect. -/
theorem streamInstructionsIssue : Obligations.StreamInstructionsIssue := by
  unfold Obligations.StreamInstructionsIssue
  rintro s w t g grp d func h ⟨i, second, queued, f⟩ hi start s1 rfl
  have hexec := exec_stream h d func _ hi
  dsimp only at hexec ⊢
  rw [hexec]
  refine ⟨fun h2 hl => ?level, fun hlevel => ?issues⟩
  case level =>
    have hq : queued = false := streamInstrs_unqueued w g grp d func _ hi h2
    rw [hq, Bool.false_and, waiting_false]
    exact async_malformed h (streamLevel_fails h2 hl)
  case issues =>
    have hok := streamLevel_ok hlevel
    refine ⟨fun hg hr hq => ?accepted, fun hg => ?off, fun hg hfull => ?waits⟩
    case accepted =>
      have hfree : (queued && (t.acts g && queueFull s w)) = false := by
        cases hqd : queued
        · rfl
        · simp [hg, queueFull, Nat.not_le.mpr (hq hqd)]
      rw [hfree, waiting_false]
      exact ⟨fun _ hf => async_ready h hok hg hr hf, fun _ hb hf => async_fails h hok hg hr hb hf,
        fun hf => async_waits h hok hg hr hf⟩
    case off =>
      rw [hg, Bool.false_and, Bool.and_false, waiting_false]
      exact async_off h hok hg
    case waits =>
      rcases hfull with hr | ⟨hqd, hq⟩
      · exact waiting_cases _ (async_full h hok hg hr)
      · rw [hqd, hg, show queueFull s w = true from decide_eq_true hq]
        rfl

end Sys2Proof
end

section
/-! SUPPORT. A finish that leaves a halted task in its slot (04_selod_isa.md R90, R104). -/

namespace Sys2Proof.Machine

open Sys2Proof

/-- A task that has executed HALT and waits for one instruction of group 3. Its counters stand out of key order, a form that no
`Tab.put` leaves. -/
def haltingTask : Task :=
  { ctx := 1, hostSeq := 1, taskIndex := 0, ordinal := 0, pc := 0x1000, entered := true, level := 1, width := .l64,
    footprint := 65536, step := 0, status := .haltPending, waitTally := 0, sregs := [], vregs := [], preds := [],
    tiles := [], descs := [], keySeed := 0, keyStream := 0, rng := [], rngFree := 0, groups := [(5, 0), (3, 1)] }

/-- The last instruction that it waits for. -/
def lastOp : AsyncOp := AsyncOp.of 0 ⟨0, 0⟩ haltingTask 3 "SCOPY"

/-- An active module with that task and that instruction alone. -/
def haltingState : State :=
  { State.reset with power := { Power.reset with phase := .active }, tasks := [(0, haltingTask)], ops := [lastOp] }

/-- The instruction leaves its group: the counter is written in front of its old entry, which stays in the table. -/
theorem haltingState_finishes : exec (.asyncInstructionFinish 0) haltingState = .next
    { haltingState with ops := [], tasks := [(0, { haltingTask with groups := [(3, 0), (5, 0), (3, 1)] })] } := by
  rfl

end Sys2Proof.Machine
end

section

namespace Sys2Proof

open Machine

/-- Refutes O48: its finish clause asks nothing of the order of a group table's keys. -/
theorem not_asynchronousWorkEnds : ¬ Obligations.AsynchronousWorkEnds := by
  unfold Obligations.AsynchronousWorkEnds
  rintro ⟨-, hops, -⟩
  obtain ⟨-, -, -, -, hfinish⟩ := hops haltingState 0 lastOp rfl rfl
  obtain ⟨-, hlast⟩ := hfinish haltingTask (by decide) (by decide) (by decide) (by decide) (by decide) rfl rfl (.inl rfl) rfl
  obtain ⟨s', hs, -, hnone⟩ := hlast rfl (by decide) rfl
  rw [haltingState_finishes] at hs
  cases hs
  exact absurd hnone (by decide)

end Sys2Proof
end

section
/-! SUPPORT. How a parcel starts, and the tasks of a RUN (03_headgate_host.md R69, R70, R82; 04_selod_isa.md R92, R253). -/

namespace Sys2Proof.Machine

open Sys2Proof

/-! ### Parcels of a context -/

/-- A change that keeps every host sequence changes what a lookup finds. -/
theorem find_map_hostSeq (l : List Parcel) (h : W32) {f : Parcel → Parcel} (hf : ∀ q, (f q).hostSeq = q.hostSeq) :
    (l.map fun p => if p.hostSeq = h then f p else p).find? (fun p => decide (p.hostSeq = h))
      = (l.find? fun p => decide (p.hostSeq = h)).map f := by
  induction l with
  | nil => rfl
  | cons p r ih => by_cases hp : p.hostSeq = h <;> simp [hp, hf, ih]

theorem parcel_modParcel (s : State) (c : Nat) (h : W32) {f : Parcel → Parcel} (hf : ∀ q, (f q).hostSeq = q.hostSeq) :
    (s.modParcel c h f).parcel c h = (s.parcel c h).map f := by
  simp only [State.parcel, State.modParcel, State.ctx_modCtx_same]
  exact find_map_hostSeq _ h hf

/-- The parcel that starts next is one of its context's. -/
theorem nextParcel_mem {s : State} {c : Nat} {p : Parcel} (h : nextParcel s c = some p) : p ∈ (s.ctx c).parcels := by
  have hfind : ∀ {f : Parcel → Bool} {q : Parcel}, ((s.ctx c).parcels.filter queued).find? f = some q →
      q ∈ (s.ctx c).parcels := fun hq => List.mem_of_mem_filter (List.mem_of_find?_eq_some hq)
  unfold nextParcel at h
  dsimp only at h
  split at h
  next q hq =>
    split at h
    · cases h; exact hfind hq
    · cases h
  next =>
    split at h
    · cases h
    next q hq =>
      split at h
      · cases h; exact hfind hq
      · cases h

theorem parcel_of_mem {s : State} {c : Nat} {p : Parcel} (h : p ∈ (s.ctx c).parcels) :
    ∃ q, s.parcel c p.hostSeq = some q :=
  Option.isSome_iff_exists.mp (List.find?_isSome.mpr ⟨p, h, decide_eq_true rfl⟩)

/-! ### Starts -/

/-- The state in which the next parcel's checks are made. -/
def started (s : State) (c : Nat) (p : Parcel) : State := s.modParcel c p.hostSeq fun q => { q with progress := .started }

section
variable {s : State} {c : Nat} {p : Parcel} {kind : Byte} {f : Parcel → State → Except Bad State}

/-- A parcel that starts has the effect of its kind (R69). -/
theorem starting_ok {s' : State} (ha : s.active = true) (hn : nextParcel s c = some p) (hk : p.kind = kind)
    (hf : f p (started s c p) = .ok s') : starting c kind f s = .next s' := by
  unfold started at hf
  simp only [starting, ha, hn, hk, hf, Bool.not_true, Bool.false_eq_true, if_false, if_true]
  rfl

/-- One that fails its checks ends, and one that a missing part of the flash map holds waits (R82, R315). -/
theorem starting_stops {b : Bad} (ha : s.active = true) (hn : nextParcel s c = some p) (hk : p.kind = kind)
    (hf : f p (started s c p) = .error b) : StopsAtStart (starting c kind f s) s (started s c p) c p b := by
  unfold started at hf ⊢
  simp only [StopsAtStart, starting, ha, hn, hk, hf, Bool.not_true, Bool.false_eq_true, if_false, if_true]
  by_cases hb : b = .wait
  · subst hb; rfl
  · rw [if_neg hb]
    cases b with
    | wait => exact absurd rfl hb
    | _ => rfl

end

/-- What a sequence does once its first part has failed. -/
theorem bind_error {α β : Type} {x : Except Bad α} {f : α → Except Bad β} {b : Bad} (h : x = .error b) :
    x.bind f = .error b := by
  subst h; rfl

/-! ### The tasks of an ordinal (R92, R253) -/

/-- One task of an ordinal starts in its slot. -/
def startTask (c : Nat) (h : W32) (w ordinal core : Nat) (x : State) (k : Nat) : State :=
  { x.setTask ⟨core, k⟩ (newTask c h w ordinal k x.freeCount) with freeCount := x.freeCount + 1 }

/-- Core `core` as a RUN finds it: unmarked, with no footprint. -/
def unmark (core : Nat) (s : State) : State := s.modCore core fun x => { x with mark := none, footprint := none }

theorem placeOrdinal_eq (c : Nat) (h : W32) (w ordinal core : Nat) (s : State) :
    placeOrdinal c h w ordinal core s = (List.range (runTasks w)).foldl (startTask c h w ordinal core) (unmark core s) := rfl

section
variable (c : Nat) (h : W32) (w ordinal core : Nat)

theorem task_startTask_same (x : State) (k : Nat) : (startTask c h w ordinal core x k).task ⟨core, k⟩
    = some (newTask c h w ordinal k x.freeCount) := State.task_setTask_same x ⟨core, k⟩ _

theorem task_startTask_other (x : State) (k : Nat) {u : Who} (hu : Who.key u ≠ 4 * core + k) :
    (startTask c h w ordinal core x k).task u = x.task u := State.task_setTask_other x (w := ⟨core, k⟩) hu _

theorem task_startTasks_outside (x : State) (n : Nat) {u : Who} (hu : ∀ k, k < n → Who.key u ≠ 4 * core + k) :
    ((List.range n).foldl (startTask c h w ordinal core) x).task u = x.task u := by
  induction n with
  | zero => rfl
  | succ n ih =>
    rw [List.range_succ, List.foldl_append]
    exact (task_startTask_other c h w ordinal core _ n (hu n (Nat.lt_succ_self n))).trans
      (ih fun k hk => hu k (Nat.lt_succ_of_lt hk))

theorem task_startTasks_inside (x : State) {n k : Nat} (hk : k < n) :
    ∃ free, ((List.range n).foldl (startTask c h w ordinal core) x).task ⟨core, k⟩
      = some (newTask c h w ordinal k free) := by
  induction n with
  | zero => omega
  | succ n ih =>
    rw [List.range_succ, List.foldl_append]
    rcases Nat.lt_succ_iff_lt_or_eq.mp hk with hlt | rfl
    · obtain ⟨free, hfree⟩ := ih hlt
      exact ⟨free, (task_startTask_other c h w ordinal core _ n (by simp only [Who.key]; omega)).trans hfree⟩
    · exact ⟨_, task_startTask_same c h w ordinal core _ k⟩

/-- The slots of the ordinal hold its tasks. -/
theorem task_placeOrdinal_inside (s : State) {k : Nat} (hk : k < runTasks w) :
    ∃ free, (placeOrdinal c h w ordinal core s).task ⟨core, k⟩ = some (newTask c h w ordinal k free) := by
  rw [placeOrdinal_eq]
  exact task_startTasks_inside c h w ordinal core _ hk

/-- Slots of another core keep their tasks. -/
theorem task_placeOrdinal_other (s : State) {u : Who} (hw : runTasks w ≤ 4) (hu : u.core ≠ core) (hs : u.slot < 4) :
    (placeOrdinal c h w ordinal core s).task u = s.task u := by
  rw [placeOrdinal_eq]
  exact task_startTasks_outside c h w ordinal core _ _ fun k hk => by simp only [Who.key]; omega

/-- Every context is as it was, and so is every byte. -/
structure KeepsBytes (s s' : State) : Prop where
  ctxs : s'.ctxs = s.ctxs
  mem : s'.mem = s.mem
  cis : ∀ k, (s'.core k).cistern = (s.core k).cistern

theorem KeepsBytes.refl (s : State) : KeepsBytes s s := ⟨rfl, rfl, fun _ => rfl⟩

theorem KeepsBytes.trans {s s' s'' : State} (h : KeepsBytes s s') (h' : KeepsBytes s' s'') : KeepsBytes s s'' :=
  ⟨h'.ctxs.trans h.ctxs, h'.mem.trans h.mem, fun k => (h'.cis k).trans (h.cis k)⟩

theorem KeepsBytes.sameBytes {s s' : State} (h : KeepsBytes s s') : SameBytes s s' :=
  ⟨fun t a => by simp only [State.byteAt, h.mem], fun k a => by simp only [State.cisByte, h.cis]⟩

theorem KeepsBytes.parcel {s s' : State} (h : KeepsBytes s s') (c : Nat) (x : W32) : s'.parcel c x = s.parcel c x := by
  simp only [State.parcel, State.ctx, h.ctxs]

/-- A list of steps that each keep the bytes keeps them. -/
theorem KeepsBytes.foldl {α : Type} {f : State → α → State} (hf : ∀ x a, KeepsBytes x (f x a)) (l : List α) (s : State) :
    KeepsBytes s (l.foldl f s) := by
  induction l generalizing s with
  | nil => exact .refl s
  | cons a r ih => exact (hf s a).trans (ih (f s a))

theorem unmark_keepsBytes (s : State) : KeepsBytes s (unmark core s) := by
  refine ⟨rfl, rfl, fun k => ?_⟩
  by_cases hk : k = core
  · subst hk; simp [unmark]
  · simp [unmark, hk]

theorem startTask_keepsBytes (x : State) (k : Nat) : KeepsBytes x (startTask c h w ordinal core x k) :=
  ⟨rfl, rfl, fun _ => rfl⟩

theorem placeOrdinal_keepsBytes (s : State) : KeepsBytes s (placeOrdinal c h w ordinal core s) := by
  rw [placeOrdinal_eq]
  exact (unmark_keepsBytes core s).trans (.foldl (fun x k => startTask_keepsBytes c h w ordinal core x k) _ _)

end

/-! ### The start of a RUN (R69, R70, R92) -/

/-- The ordinals below n of a RUN are placed, each on its core. -/
def placeOrdinals (c : Nat) (h : W32) (w n : Nat) (s : State) : State :=
  (List.range n).foldl (fun x o => placeOrdinal c h w o (runFirst w + o) x) s

theorem placeOrdinals_succ (c : Nat) (h : W32) (w n : Nat) (s : State) : placeOrdinals c h w (n + 1) s
    = placeOrdinal c h w n (runFirst w + n) (placeOrdinals c h w n s) := by
  simp [placeOrdinals, List.range_succ]

theorem placeOrdinals_keepsBytes (c : Nat) (h : W32) (w n : Nat) (s : State) :
    KeepsBytes s (placeOrdinals c h w n s) := .foldl (fun x _ => placeOrdinal_keepsBytes c h w _ _ x) _ s

theorem task_placeOrdinals (c : Nat) (h : W32) {w n o k : Nat} (s : State) (hw : runTasks w ≤ 4) (ho : o < n)
    (hk : k < runTasks w) :
    ∃ free, (placeOrdinals c h w n s).task ⟨runFirst w + o, k⟩ = some (newTask c h w o k free) := by
  induction n with
  | zero => omega
  | succ n ih =>
    rw [placeOrdinals_succ]
    rcases Nat.lt_succ_iff_lt_or_eq.mp ho with hlt | rfl
    · obtain ⟨free, hfree⟩ := ih hlt
      have hcore : runFirst w + o ≠ runFirst w + n := by omega
      have hslot : k < 4 := by omega
      exact ⟨free, (task_placeOrdinal_other c h w n _ _ hw hcore hslot).trans hfree⟩
    · exact task_placeOrdinal_inside c h w o _ _ hk

/-- The ordinals of a RUN with the cores that their RUN names for them. -/
def runPairs (w : Nat) : List (Nat × Nat) := (List.range (runCount w)).map fun o => (o, runFirst w + o)

theorem zip_runCores (w : Nat) : (List.range (runCount w)).zip (runCores w) = runPairs w := by
  rw [runCores, runPairs, ← List.map_prod_left_eq_zip]

section
variable {s : State} {w : Nat} (hg : ∀ k ∈ runCores w, coreGone s k = false)
include hg

theorem runPairs_inService : ∀ e ∈ runPairs w, coreGone s e.2 = false := by
  simpa [runPairs, runCores] using hg

theorem filter_coreGone : (runPairs w).filter (fun e => coreGone s e.2) = [] :=
  List.filter_eq_nil_iff.mpr fun e he => by simp [runPairs_inService hg e he]

theorem filter_coreFit : (runPairs w).filter (fun e => !coreGone s e.2) = runPairs w :=
  List.filter_eq_self.mpr fun e he => by simp [runPairs_inService hg e he]

end

/-- With every core of its range in service, a RUN whose header is accepted places each ordinal on its own core. -/
theorem startRun_ok {s : State} {c : Nat} {p : Parcel} {h : RunHeader} (hh : readRunHeader s c p.unit = .ok h)
    (hg : ∀ k ∈ runCores p.unit, coreGone s k = false) :
    startRun c p s = .ok ((placeOrdinals c p.hostSeq p.unit (runCount p.unit) s).modParcel c p.hostSeq fun q =>
      { q with header := some h, running := runCount p.unit * runTasks p.unit, capped := s.weir.unattainable, unplaced := [] }) := by
  refine (bind_ok hh).trans ?_
  simp only [zip_runCores, filter_coreGone hg, filter_coreFit hg]
  simp only [runPairs, List.foldl_map]
  rfl

end Sys2Proof.Machine
end

section
/-! SUPPORT. What goes with a write to memory beside its bytes (R120, R203, R266, R424). -/

namespace Sys2Proof.Machine

open Sys2Proof

/-! ### What goes with a write (R120, R203, R266, R424) -/

/-- Nothing differs but accumulator tiles and the count of free values. -/
structure OnlyTiles (s s' : State) : Prop where
  tasks : ∀ x : Who, (s'.task x).map Task.untiled = (s.task x).map Task.untiled
  rest : { s' with tasks := s.tasks, freeCount := s.freeCount } = s

theorem OnlyTiles.refl (s : State) : OnlyTiles s s := ⟨fun _ => rfl, rfl⟩

theorem OnlyTiles.trans {s s' s'' : State} (h : OnlyTiles s s') (h' : OnlyTiles s' s'') : OnlyTiles s s'' :=
  ⟨fun x => (h'.tasks x).trans (h.tasks x), by
    have hrest := congrArg (fun y : State => { y with tasks := s.tasks, freeCount := s.freeCount }) h'.rest
    exact hrest.trans h.rest⟩

theorem OnlyTiles.foldl {α : Type} {f : State → α → State} (hf : ∀ x a, OnlyTiles x (f x a)) (l : List α) (s : State) :
    OnlyTiles s (l.foldl f s) := by
  induction l generalizing s with
  | nil => exact .refl s
  | cons a r ih => exact (hf s a).trans (ih (f s a))

theorem setTile_onlyTiles {s : State} {w : Who} {t : Task} (ht : s.task w = some t) (k : Nat)
    (f : Nat → Nat → Option W32) : OnlyTiles s (s.setTask w (t.setTile k f)) := by
  refine ⟨fun x => ?_, rfl⟩
  by_cases hx : Who.key x = Who.key w
  · have hxt : s.task x = some t := by rw [← ht]; simp only [State.task, hx]
    have hnew : (s.setTask w (t.setTile k f)).task x = some (t.setTile k f) := by
      simp only [State.task, hx]; exact State.task_setTask_same s w _
    rw [hxt, hnew]
    rfl
  · rw [State.task_setTask_other s hx]

theorem freeTile_onlyTiles (o : AsyncOp) (on : Nat → Nat → Bool) (s : State) : OnlyTiles s (freeTile o on s) := by
  unfold freeTile State.modTask
  split
  · exact .refl s
  · split
    next t ht => exact ⟨(setTile_onlyTiles ht _ _).tasks, rfl⟩
    next => exact ⟨fun _ => rfl, rfl⟩

/-- What a write marks: operations that read what it reaches, and tiles whose operands it reaches. -/
structure Spoils (s s' : State) : Prop where
  ops : unspoiled s'.ops = unspoiled s.ops
  loose : s'.loose.Sublist s.loose
  tasks : ∀ x : Who, (s'.task x).map Task.untiled = (s.task x).map Task.untiled
  rest : { s' with tasks := s.tasks, ops := s.ops, loose := s.loose, freeCount := s.freeCount } = s

theorem unspoiled_map {f : AsyncOp → AsyncOp} (hf : ∀ o, { f o with spoiled := false, cells := [], reach := [], before := [] }
    = { o with spoiled := false, cells := [], reach := [], before := [] }) (l : List AsyncOp) :
    unspoiled (l.map f) = unspoiled l := by
  simp only [unspoiled, List.map_map]
  exact List.map_congr_left fun o _ => hf o

theorem spoil_spoils (own core : Option Nat) (t : Option Tier) (a n : Nat) (s : State) :
    Spoils s (spoil own core t a n s) := by
  have h := OnlyTiles.foldl (fun x (o : AsyncOp) => freeTile_onlyTiles o o.holds x)
    (s.loose.filter fun o => own ≠ some o.id && disturbs s core t a n o)
    { s with ops := s.ops.map fun o => if own ≠ some o.id && disturbs s core t a n o then { o with spoiled := true } else o
             loose := s.loose.filter fun o => !(own ≠ some o.id && disturbs s core t a n o) }
  refine ⟨(congrArg (fun x : State => unspoiled x.ops) h.rest).trans (unspoiled_map (fun o => ?_) _),
    ?_, h.tasks, congrArg (fun y : State => { y with ops := s.ops, loose := s.loose }) h.rest⟩
  · split <;> rfl
  · exact (congrArg State.loose h.rest : _) ▸ List.filter_sublist

/-- A write of one range to a tier, but for the notes of its page. -/
structure RawWrites (s s' : State) (t : Tier) (a n : Nat) (cs : List Host.Cell) : Prop where
  mem : s'.mem = s.mem.setTier t (Memory.blit (s.mem.tier t) a n cs)
  errs : ClearsErrs s s' (tierSource t) (tierGranule t) a n
  ops : unspoiled s'.ops = unspoiled s.ops
  loose : s'.loose.Sublist s.loose
  tasks : ∀ x : Who, (s'.task x).map Task.untiled = (s.task x).map Task.untiled
  rest : { s' with tasks := s.tasks, mem := s.mem, ops := s.ops, loose := s.loose, errs := s.errs, freeCount := s.freeCount } = s

theorem clearsErrs_filter (l : List Err) (source g a n : Nat) (e : Err) (he : e ∈ l) :
    e ∉ l.filter (fun e => !(decide (e.source = source) && true && decide (a ≤ e.place * g) && decide (e.place * g + g ≤ a + n)))
      ↔ e.source = source ∧ a ≤ e.place * g ∧ e.place * g + g ≤ a + n := by
  simp [he, and_assoc]

theorem rawWriteOf_writes (own : Option Nat) (t : Tier) (a n : Nat) (cs : List Host.Cell) (s : State) :
    RawWrites s (rawWriteOf own t a n cs s) t a n cs := by
  have h := spoil_spoils own none (some t) a n s
  have herrs : (spoil own none (some t) a n s).errs = s.errs := (congrArg (fun x : State => x.errs) h.rest :)
  refine ⟨rfl, ⟨?_, ?_⟩, ?_, h.loose, h.tasks,
    congrArg (fun y : State => { y with mem := s.mem, errs := s.errs }) h.rest⟩
  · exact herrs ▸ List.filter_sublist
  · rw [← herrs]
    exact clearsErrs_filter _ _ _ _ _
  · refine (unspoiled_map (fun o => ?_) _).trans h.ops
    split <;> rfl

end Sys2Proof.Machine
end

section
/-! SUPPORT. Slices of a memory, writes to the host tier, and COPY (03_headgate_host.md R71). -/

namespace Sys2Proof.Machine

open Sys2Proof

/-! ### Slices of a memory -/

/-- A slice of a canonical memory is canonical. -/
theorem slice_wf {lo : Nat} {m : List Host.Cell} (a n : Nat) (h : cellsWf lo m = true) :
    cellsWf (lo - a) (Memory.slice m a n) = true := by
  induction m generalizing lo with
  | nil => rfl
  | cons e r ih =>
    obtain ⟨k, b⟩ := e
    simp only [cellsWf, Bool.and_eq_true, decide_eq_true_eq] at h
    obtain ⟨⟨hk, hb⟩, hr⟩ := h
    simp only [Memory.slice]
    split
    · exact cellsWf_mono (ih hr) (by omega)
    · split
      · simp only [cellsWf, Bool.and_eq_true, decide_eq_true_eq]
        exact ⟨⟨by omega, hb⟩, cellsWf_mono (ih hr) (by omega)⟩
      · rfl

/-- A slice reads as the range that it was taken from. -/
theorem get_slice {lo a n j : Nat} {m : List Host.Cell} (h : cellsWf lo m = true) (hj : j < n) :
    Tab.get unlisted (Memory.slice m a n) j = Tab.get unlisted m (a + j) := by
  induction m generalizing lo with
  | nil => rfl
  | cons e r ih =>
    obtain ⟨k, b⟩ := e
    simp only [cellsWf, Bool.and_eq_true, decide_eq_true_eq] at h
    obtain ⟨-, hr⟩ := h
    by_cases hka : k < a
    · have hne : k ≠ a + j := by omega
      simp only [Memory.slice, hka, if_true, Tab.get, hne, if_false]
      exact ih hr
    · by_cases hkn : k < a + n
      · have hiff : k - a = j ↔ k = a + j := by omega
        simp only [Memory.slice, hka, hkn, if_true, if_false, Tab.get, hiff, ih hr]
      · have hne : k ≠ a + j := by omega
        simp only [Memory.slice, hka, hkn, if_false, Tab.get, hne]
        exact (get_below_lo hr (by omega)).symm

theorem memory_slice_wf {m : List Host.Cell} (a n : Nat) (h : Memory.wf m = true) :
    Memory.wf (Memory.slice m a n) = true := by
  have hs := slice_wf a n h
  rwa [Nat.zero_sub] at hs

theorem byte_slice {m : List Host.Cell} {a n j : Nat} (h : Memory.wf m = true) (hj : j < n) :
    Memory.byte (Memory.slice m a n) j = Memory.byte m (a + j) := get_slice h hj

@[simp] theorem bytes_length (m : List Host.Cell) (a n : Nat) : (Memory.bytes m a n).length = n := by simp [Memory.bytes]

theorem bytes_getD {m : List Host.Cell} {a n i : Nat} (hi : i < n) (d : Byte) :
    (Memory.bytes m a n).getD i d = Memory.byte m (a + i) := by
  simp [Memory.bytes, hi]

/-- The cells of one piece, as a copy takes them up, are canonical. -/
theorem piece_wf (m : Mem) (t : Tier) (a n : Nat) : Memory.wf (readPieces m [(t, a, n)] 0) = true := by
  rw [readPieces, readPieces, List.append_nil]
  exact cellsShift_wf 0 n 0 _

theorem byte_piece {m : Mem} {t : Tier} {a n j : Nat} (h : m.wf = true) (hj : j < n) :
    Memory.byte (readPieces m [(t, a, n)] 0) j = Memory.byte (m.tier t) (a + j) := by
  have hs := get_cellsShift (a := 0) (memory_slice_wf a n (tier_wf h t)) hj
  rw [Nat.zero_add] at hs
  rw [readPieces, readPieces, List.append_nil]
  exact hs.trans (get_slice (tier_wf h t) hj)

/-! ### Writes to the host tier (R424) -/

theorem tier_setTier_same (m : Mem) (t : Tier) (c : List Host.Cell) : (m.setTier t c).tier t = c := by cases t <;> rfl

theorem tier_setTier_other (m : Mem) {t u : Tier} (h : u ≠ t) (c : List Host.Cell) : (m.setTier t c).tier u = m.tier u := by
  
  cases t <;> cases u <;> simp_all [Mem.setTier, Mem.tier]

/-- A step notes the page once; nothing else differs. -/
theorem noteWrote_cases (c : Nat) (t : Tier) (frame : Nat) (s : State) : noteWrote c t frame s = s
    ∨ noteWrote c t frame s = s.modSeal c fun x => { x with wrote := x.wrote ++ [(t, frame)] } := by
  unfold noteWrote
  split
  · exact .inl rfl
  · exact .inr rfl

theorem noteWrote_rest (c : Nat) (t : Tier) (frame : Nat) (s : State) :
    noteWrote c t frame s = { s with ctxs := (noteWrote c t frame s).ctxs } := by
  rcases noteWrote_cases c t frame s with h | h <;> rw [h]
  rfl

theorem noteWrote_other (c : Nat) (t : Tier) (frame : Nat) (s : State) {j : Nat} (hj : j ≠ c) :
    (noteWrote c t frame s).ctx j = s.ctx j := by
  rcases noteWrote_cases c t frame s with h | h <;> rw [h]
  exact State.ctx_modCtx_other s hj _

theorem noteWrote_same (c : Nat) (t : Tier) (frame : Nat) (s : State) : ∃ l : List (Tier × Nat), (∀ e ∈ l, e.1 = t)
    ∧ (noteWrote c t frame s).ctx c
      = { s.ctx c with sealed := { (s.ctx c).sealed with wrote := (s.ctx c).sealed.wrote ++ l } } := by
  rcases noteWrote_cases c t frame s with h | h <;> rw [h]
  · exact ⟨[], by simp, by simp⟩
  · exact ⟨[(t, frame)], by simp, State.ctx_modCtx_same s c _⟩

/-- The bytes of a write are read back, and no others differ. -/
theorem RawWrites.writesTier {s s' : State} {t : Tier} {a n : Nat} {cs : List Host.Cell} {bs : List Byte}
    (h : RawWrites s s' t a n cs) (hwf : s.mem.wf = true) (hcs : Memory.wf cs = true) (hn : bs.length = n)
    (hbs : ∀ i, i < n → Memory.byte cs i = bs.getD i 0) : WritesTier s s' t a bs := by
  have hcores : s'.cores = s.cores := (congrArg (fun x : State => x.cores) h.rest :)
  subst hn
  refine ⟨fun i hi => ?_, fun u k hk => ?_, fun c k => ?_⟩
  · rw [State.byteAt, h.mem, tier_setTier_same, byte_blit_inside (tier_wf hwf t) hcs hi, hbs i hi]
  · rw [State.byteAt, State.byteAt, h.mem]
    by_cases hu : u = t
    · subst hu
      rw [tier_setTier_same]
      exact byte_blit_outside _ (tier_wf hwf u) (hk.resolve_left (fun hne => hne rfl))
    · rw [tier_setTier_other _ hu]
  · rw [State.cisByte, State.cisByte, State.core, State.core, hcores]

/-- A raw write after its page has been noted. -/
theorem RawWrites.writesHost {s s' : State} {c frame a n : Nat} {cs : List Host.Cell} {bs : List Byte}
    (h : RawWrites (noteWrote c .host frame s) s' .host a n cs) (hwf : s.mem.wf = true) (hcs : Memory.wf cs = true)
    (hn : bs.length = n) (hbs : ∀ i, i < n → Memory.byte cs i = bs.getD i 0) : WritesHost s s s' c a bs := by
  have hctx : ∀ j, s'.ctx j = (noteWrote c .host frame s).ctx j := fun j => (congrArg (fun x : State => x.ctx j) h.rest :)
  obtain ⟨l, hl, hsame⟩ := noteWrote_same c .host frame s
  rw [noteWrote_rest] at h
  subst hn
  exact ⟨h.writesTier hwf hcs rfl hbs, h.ops, h.loose, h.tasks, h.errs,
    fun j hj => (hctx j).trans (noteWrote_other c .host frame s hj), ⟨l, hl, (hctx c).trans hsame⟩,
    (congrArg (fun x : State => { x with ctxs := s.ctxs }) h.rest :)⟩

/-- A write to the host tier writes its bytes and does nothing else but what goes with a write. -/
theorem memWrite_host_writes {s : State} (w : Writer) {a n : Nat} {cs : List Host.Cell} {bs : List Byte}
    (hwf : s.mem.wf = true) (hcs : Memory.wf cs = true) (hn : bs.length = n)
    (hbs : ∀ i, i < n → Memory.byte cs i = bs.getD i 0) : WritesHost s s (memWrite w .host a n cs s) w.ctx a bs :=
  (rawWriteOf_writes w.op .host a n cs _).writesHost hwf hcs hn hbs

/-! ### COPY (R71) -/

/-- A host range needs no channel. -/
theorem checkClocks_host (s : State) (va a n : Nat) : checkClocks s va [(.host, a, n)] = .ok () := rfl

theorem startCopy_ok {s : State} {c : Nat} {p : Parcel} {t : Tier} {a1 a2 n : Nat}
    (hsrc : range s c useRead (bitsN p.unit 63 0) (bitsN p.unit 167 128) = .ok [(t, a1, n)])
    (hsound : checkPieces s (bitsN p.unit 63 0) [(t, a1, n)] = .ok ())
    (hdst : range s c useWrite (bitsN p.unit 127 64) (bitsN p.unit 167 128) = .ok [(.host, a2, n)]) :
    startCopy c p s = .ok (memWrite (parcelWriter c p.hostSeq) .host a2 n
      (Memory.slice (readPieces s.mem [(t, a1, n)] 0) 0 n) s) :=
  (bind_ok hsrc).trans ((bind_ok hdst).trans ((bind_ok hsound).trans ((bind_ok (checkClocks_host s _ a2 n)).trans rfl)))

theorem startCopy_writes {s : State} (c : Nat) (p : Parcel) (t : Tier) (a1 a2 n : Nat) (hwf : s.mem.wf = true) :
    WritesHost s s (memWrite (parcelWriter c p.hostSeq) .host a2 n (Memory.slice (readPieces s.mem [(t, a1, n)] 0) 0 n) s)
      c a2 (Memory.bytes (s.mem.tier t) a1 n) := by
  have hpiece := piece_wf s.mem t a1 n
  refine memWrite_host_writes _ hwf (memory_slice_wf 0 n hpiece) (bytes_length _ a1 n) fun i hi => ?_
  rw [byte_slice hpiece hi, Nat.zero_add, byte_piece hwf hi, bytes_getD hi]

end Sys2Proof.Machine
end

section
/-! SUPPORT. What a write leaves of a seal, and SEAL (16_faults_recovery.md R433 to R436). -/

namespace Sys2Proof.Machine

open Sys2Proof

/-! ### What a write leaves of a seal (R424, R435, R437) -/

/-- The seal of context c stands but for its state and the frames that its step has written, and the module's steps are counted
as they were. -/
structure KeepsSeal (c : Nat) (s s' : State) : Prop where
  sealed : { (s'.ctx c).sealed with state := (s.ctx c).sealed.state, wrote := (s.ctx c).sealed.wrote } = (s.ctx c).sealed
  steps : s'.dg.steps = s.dg.steps

theorem KeepsSeal.of_eq {c : Nat} {s s' : State} (hc : s'.ctxs = s.ctxs) (hd : s'.dg.steps = s.dg.steps) : KeepsSeal c s s' :=
  ⟨by simp only [State.ctx, hc], hd⟩

theorem KeepsSeal.trans {c : Nat} {s s' s'' : State} (h : KeepsSeal c s s') (h' : KeepsSeal c s' s'') : KeepsSeal c s s'' :=
  ⟨(congrArg (fun x : SealCtx => { x with state := (s.ctx c).sealed.state, wrote := (s.ctx c).sealed.wrote }) h'.sealed).trans
    h.sealed, h'.steps.trans h.steps⟩

/-- A change of a seal's state or of its written frames. -/
theorem keepsSeal_modSeal (c j : Nat) (s : State) {f : SealCtx → SealCtx}
    (hf : ∀ x, { f x with state := x.state, wrote := x.wrote } = x) : KeepsSeal c s (s.modSeal j f) := by
  refine ⟨?_, rfl⟩
  by_cases hj : c = j
  · subst hj
    have hsame : ((s.modSeal c f).ctx c).sealed = f (s.ctx c).sealed :=
      congrArg Ctx.sealed (State.ctx_modCtx_same s c _)
    rw [hsame]
    exact hf _
  · have hother : (s.modSeal j f).ctx c = s.ctx c := State.ctx_modCtx_other s hj _
    rw [hother]

theorem noteWrote_keepsSeal (c j : Nat) (t : Tier) (frame : Nat) (s : State) : KeepsSeal c s (noteWrote j t frame s) := by
  rcases noteWrote_cases j t frame s with h | h <;> rw [h]
  · exact .of_eq rfl rfl
  · exact keepsSeal_modSeal c j s fun _ => rfl

theorem touch_keepsSeal (c : Nat) (w : Writer) (t : Tier) (frame : Nat) (s : State) : KeepsSeal c s (touch w t frame s) := by
  have hnote := noteWrote_keepsSeal c w.ctx t frame s
  unfold touch
  dsimp only
  split
  · exact hnote
  · split
    · exact hnote
    · exact hnote.trans (.of_eq rfl rfl)

theorem lapse_keepsSeal (c j cause frame : Nat) (s : State) : KeepsSeal c s (lapse j cause frame s) :=
  (keepsSeal_modSeal c j s (f := fun x => { x with state := .lapsed }) fun _ => rfl).trans (.of_eq rfl rfl)

theorem rawWriteOf_keepsSeal (c : Nat) (own : Option Nat) (t : Tier) (a n : Nat) (cs : List Host.Cell) (s : State) :
    KeepsSeal c s (rawWriteOf own t a n cs s) :=
  have h := (rawWriteOf_writes own t a n cs s).rest
  .of_eq (congrArg (fun x : State => x.ctxs) h :) (congrArg (fun x : State => x.dg.steps) h :)

theorem memWrite_keepsSeal (c : Nat) (w : Writer) (t : Tier) (a n : Nat) (cs : List Host.Cell) (s : State) :
    KeepsSeal c s (memWrite w t a n cs s) := by
  have htouch := touch_keepsSeal c w t (a / 65536) s
  unfold memWrite
  split
  · exact (noteWrote_keepsSeal c w.ctx t _ s).trans (rawWriteOf_keepsSeal c _ _ _ _ _ _)
  · dsimp only
    split
    · exact htouch.trans (rawWriteOf_keepsSeal c _ _ _ _ _ _)
    · split
      · exact htouch.trans (.of_eq rfl rfl)
      · split
        · exact htouch.trans ((lapse_keepsSeal c _ _ _ _).trans (rawWriteOf_keepsSeal c _ _ _ _ _ _))
        · exact htouch.trans (.of_eq rfl rfl)

theorem writePieces_keepsSeal (c : Nat) (w : Writer) (ps : List Piece) (cs : List Host.Cell) (off : Nat) (s : State) :
    KeepsSeal c s (writePieces w ps cs off s) := by
  induction ps generalizing off s with
  | nil => exact .of_eq rfl rfl
  | cons e r ih =>
    obtain ⟨t, a, n⟩ := e
    exact (memWrite_keepsSeal c w t a n _ s).trans (ih _ _)

theorem devWrite_keepsSeal {c : Nat} {w : Writer} {u : Use} {a : Nat} {bs : List Byte} {s s' : State}
    (h : devWrite s w u a bs = .ok s') : KeepsSeal c s s' := by
  obtain ⟨ps, -, -, rfl⟩ := devWrite_range h
  exact writePieces_keepsSeal c w ps _ 0 s

/-! ### SEAL (R433 to R436) -/

/-- The seal that a SEAL commits: none of its frames is copied yet. -/
def newSeal (p : Parcel) (set : List SealFrame) (old : SealCtx) : SealCtx :=
  let h := p.sealHeader
  { SealCtx.reset with
    state := .sealed, generation := old.generation + 1, step := BitVec.ofNat 32 (bitsN h 63 32)
    record := BitVec.ofNat 64 (bitsN h 127 64), snap := bitsN h 191 128, snapFrames := bitsN h 231 192
    index := bitsN h 319 256, ledger := bitsN h 383 320, ledgerUnits := bitsN h 423 384, frames := set }

/-- The state of a SEAL before it writes its record: sealed, and one step further. -/
def sealing (c : Nat) (p : Parcel) (set : List SealFrame) (s : State) : State :=
  nextStep (s.modSeal c fun _ => newSeal p set (s.ctx c).sealed)

theorem sealing_sealed (c : Nat) (p : Parcel) (set : List SealFrame) (s : State) :
    ((sealing c p set s).ctx c).sealed = newSeal p set (s.ctx c).sealed :=
  congrArg Ctx.sealed (State.ctx_modCtx_same s c fun x => { x with sealed := newSeal p set (s.ctx c).sealed })

theorem commitSeal_keeps {c : Nat} {p : Parcel} {set : List SealFrame} {s s' : State} (h : commitSeal c p set s = .ok s') :
    KeepsSeal c (sealing c p set s) s' := devWrite_keepsSeal h

/-- What stands once a SEAL has committed. -/
theorem commitSeal_sealed {c : Nat} {p : Parcel} {set : List SealFrame} {s s' : State} (h : commitSeal c p set s = .ok s') :
    (s'.ctx c).sealed.frames = set ∧ (s'.ctx c).sealed.copied = 0 ∧ (s'.ctx c).sealed.used = 0
      ∧ (s'.ctx c).sealed.generation = (s.ctx c).sealed.generation + 1
      ∧ s'.dg.steps = min (2 ^ 48 - 1) (s.dg.steps + 1) := by
  obtain ⟨hseal, hsteps⟩ := commitSeal_keeps h
  rw [sealing_sealed] at hseal
  exact ⟨(congrArg SealCtx.frames hseal :), (congrArg SealCtx.copied hseal :), (congrArg SealCtx.used hseal :),
    (congrArg SealCtx.generation hseal :), hsteps⟩

end Sys2Proof.Machine
end

section
/-! SUPPORT. What leaves the tasks in their slots, and what an ABORT leaves in them (03_headgate_host.md R85 to R88). -/

namespace Sys2Proof.Machine

open Sys2Proof

/-! ### Entries of a table -/

theorem Tab.mem_of_find {α : Type} {t : Tab α} {k : Nat} {v : α} (h : t.find k = some v) : (k, v) ∈ t := by
  induction t with
  | nil => cases h
  | cons e r ih =>
    simp only [Tab.find] at h
    split at h
    next hk => cases h; exact hk ▸ List.mem_cons_self
    next => exact List.mem_cons_of_mem _ (ih h)

theorem Tab.mem_put {α : Type} {t : Tab α} {k : Nat} {v : α} {e : Nat × α} (h : e ∈ t.put k v) : e = (k, v) ∨ e ∈ t := by
  induction t with
  | nil => exact .inl (List.mem_singleton.mp h)
  | cons a r ih =>
    simp only [Tab.put] at h
    split at h
    · exact List.mem_cons.mp h
    · split at h
      · exact (List.mem_cons.mp h).imp_right (List.mem_cons_of_mem a)
      · rcases List.mem_cons.mp h with rfl | hr
        · exact .inr List.mem_cons_self
        · exact (ih hr).imp_right (List.mem_cons_of_mem a)

/-! ### What leaves every task in its slot -/

theorem tasks_lapse (c cause frame : Nat) (s : State) : (lapse c cause frame s).tasks = s.tasks := rfl

theorem tasks_noteWrote (c : Nat) (t : Tier) (frame : Nat) (s : State) : (noteWrote c t frame s).tasks = s.tasks := by
  rcases noteWrote_cases c t frame s with h | h <;> rw [h]
  rfl

theorem tasks_touch (w : Writer) (t : Tier) (frame : Nat) (s : State) : (touch w t frame s).tasks = s.tasks := by
  have hnote := tasks_noteWrote w.ctx t frame s
  unfold touch
  dsimp only
  split
  · exact hnote
  · split <;> exact hnote

theorem tasks_countErr (e : DataErr) (s : State) : (countErr e s).tasks = s.tasks := by
  unfold countErr; split <;> rfl

theorem tasks_addCharge (kind index : Nat) (s : State) : (addCharge kind index s).tasks = s.tasks := by
  unfold addCharge; split <;> rfl

theorem tasks_chargeErr (e : DataErr) (s : State) : (chargeErr e s).tasks = s.tasks := by
  unfold chargeErr
  split
  · split
    · rfl
    · exact tasks_addCharge _ _ _
  · split <;> exact tasks_addCharge _ _ s

theorem tasks_makeDirty (c : Nat) (noReplay : Bool) (s : State) : (makeDirty c noReplay s).tasks = s.tasks := by
  unfold makeDirty
  dsimp only
  split <;> rfl

/-- A list of steps that each leave the tasks leaves them. -/
theorem tasks_foldl {α : Type} {f : State → α → State} (hf : ∀ x a, (f x a).tasks = x.tasks) (l : List α) (s : State) :
    (l.foldl f s).tasks = s.tasks := by
  induction l generalizing s with
  | nil => rfl
  | cons a r ih => exact (ih (f s a)).trans (hf s a)

theorem tasks_foundError (c : Nat) (h : W32) (e : DataErr) (s : State) : (foundError c h e s).tasks = s.tasks := by
  have hcharge : (chargeErr e (dropFound e (dataRecord (some c) h e 2 (countErr e s)))).tasks = s.tasks :=
    (tasks_chargeErr _ _).trans (tasks_countErr e s)
  unfold foundError
  refine (tasks_foldl (fun x k => tasks_makeDirty k false x) _ _).trans ((tasks_makeDirty _ _ _).trans ?_)
  split
  · split <;> exact hcharge
  · exact hcharge

theorem tasks_noteBad (ctx die : Nat) (b : Bad) (s : State) : (noteBad ctx die b s).tasks = s.tasks := by
  unfold noteBad; split <;> rfl

theorem tasks_unitFails (ctx : Nat) (b : Bad) (s : State) : (unitFails ctx b s).tasks = s.tasks := by
  unfold unitFails
  split
  · exact tasks_foundError _ _ _ s
  · exact tasks_noteBad _ _ _ s

theorem tasks_sendCredit (p channel n : Nat) (s : State) : (sendCredit p channel n s).tasks = s.tasks := by
  unfold sendCredit; split <;> rfl

theorem tasks_freeHeld (fs : List Flit) (s : State) : (freeHeld fs s).tasks = s.tasks := by
  refine tasks_foldl (fun x f => ?_) fs s
  split
  · exact tasks_sendCredit _ _ _ x
  · rfl

theorem tasks_drainPort (p : Nat) (s : State) : (drainPort p s).tasks = s.tasks := by
  unfold drainPort
  dsimp only
  split
  · rfl
  · exact tasks_freeHeld _ _

theorem tasks_handTo (p : Nat) (f : Flit) (s : State) : (handTo p f s).tasks = s.tasks := tasks_drainPort p _

theorem tasks_sendBundle {b : Nat} {f : Flit} {s s' : State} (h : sendBundle b f s = some s') : s'.tasks = s.tasks := by
  unfold sendBundle at h
  split at h
  · cases h
  · split at h
    · cases h; rfl
    · cases h; exact tasks_handTo _ f s

theorem tasks_unroutable (f : Flit) (s : State) : (unroutable f s).tasks = s.tasks := tasks_freeHeld _ _

theorem tasks_sendFlit (f : Flit) (s : State) : (sendFlit f s).1.tasks = s.tasks := by
  unfold sendFlit
  split
  · rfl
  · split
    · split
      next hb => exact tasks_sendBundle hb
      next => exact tasks_unroutable f s
    · exact tasks_unroutable f s

theorem tasks_sendCheck (slot port wave : Nat) (s : State) : (sendCheck slot port wave s).tasks = s.tasks := by
  unfold sendCheck
  dsimp only
  split
  · exact tasks_handTo _ _ s
  · rfl

theorem tasks_sendWithdrawal (ctx : Nat) (acc : State × Bool) (k : Nat × Word × Nat × Nat) :
    (sendWithdrawal ctx acc k).1.tasks = acc.1.tasks := by
  unfold sendWithdrawal
  split
  · exact tasks_unitFails _ _ _
  · dsimp only
    split <;> exact tasks_sendFlit _ _

/-- A slot that breaks by an ABORT or a reset of its own context ends no task (R342). -/
theorem tasks_breakSlot (slot : Nat) (came : Option Nat) (s : State) : (breakSlot slot came true s).tasks = s.tasks := by
  unfold breakSlot
  dsimp only
  split
  · rfl
  · exact tasks_foldl (fun x p => tasks_sendCheck slot p 5 x) _ s

theorem tasks_breakSlots (sel : CheckSlot → Bool) (came : Option Nat) (s : State) :
    (breakSlots sel came true s).tasks = s.tasks := tasks_foldl (fun x n => tasks_breakSlot n came x) _ s

/-! ### Parcels without a task (R82, R86) -/

/-- No task of a parcel that `gone` picks is in a slot. -/
def Without (gone : Nat → W32 → Bool) (s : State) : Prop := ∀ e ∈ s.tasks, gone e.2.ctx e.2.hostSeq = false

section
variable {gone : Nat → W32 → Bool}

theorem Without.of_tasks {s s' : State} (h : Without gone s) (ht : s'.tasks = s.tasks) : Without gone s' := by
  rw [Without, ht]; exact h

theorem Without.foldl {α : Type} {f : State → α → State} (hf : ∀ x a, Without gone x → Without gone (f x a)) (l : List α)
    {s : State} (h : Without gone s) : Without gone (l.foldl f s) :=
  List.foldlRecOn l f h fun x hx a _ => hf x a hx

theorem Without.task {s : State} (h : Without gone s) {w : Who} {t : Task} (ht : s.task w = some t) :
    gone t.ctx t.hostSeq = false := h _ (Tab.mem_of_find ht)

/-- The work of the parcels ends, their tasks with it. -/
theorem without_endWork (gone : Nat → W32 → Bool) (s : State) : Without gone (endWork gone s) := fun e he => by
  have hkeep := (List.mem_filter.mp he).2
  simpa using hkeep

theorem Without.endWork {s : State} (h : Without gone s) (other : Nat → W32 → Bool) : Without gone (endWork other s) :=
  fun e he => h e (List.mem_of_mem_filter he)

theorem Without.endParcel {s : State} (h : Without gone s) (c : Nat) (x : W32) (status addr : Nat) :
    Without gone (endParcel c x status addr s) := fun e he => h e (List.mem_of_mem_filter he)

theorem Without.modTask {s : State} (h : Without gone s) (w : Who) {f : Task → Task}
    (hf : ∀ t, (f t).ctx = t.ctx ∧ (f t).hostSeq = t.hostSeq) : Without gone (s.modTask w f) := by
  unfold State.modTask
  split
  next t ht =>
    intro e he
    rcases Tab.mem_put he with rfl | hold
    · obtain ⟨hctx, hseq⟩ := hf t
      exact (congrArg₂ gone hctx hseq).trans (h.task ht)
    · exact h e hold
  next => exact h

theorem Without.freeTile {s : State} (h : Without gone s) (o : AsyncOp) (on : Nat → Nat → Bool) :
    Without gone (freeTile o on s) := by
  have hset : ∀ k f, Without gone (s.modTask o.who fun t => t.setTile k f) := fun k f =>
    h.modTask o.who fun _ => ⟨rfl, rfl⟩
  unfold Machine.freeTile
  split
  · exact h
  · exact (hset _ _).of_tasks rfl

theorem Without.rawWriteOf {s : State} (h : Without gone s) (own : Option Nat) (t : Tier) (a n : Nat)
    (cs : List Host.Cell) : Without gone (rawWriteOf own t a n cs s) := by
  refine Without.of_tasks (s := spoil own none (some t) a n s) ?_ rfl
  exact Without.foldl (fun x o hx => hx.freeTile o o.holds) _ h

theorem Without.memWrite {s : State} (h : Without gone s) (w : Writer) (t : Tier) (a n : Nat) (cs : List Host.Cell) :
    Without gone (memWrite w t a n cs s) := by
  have htouch := h.of_tasks (tasks_touch w t (a / 65536) s)
  unfold Machine.memWrite
  split
  · exact (h.of_tasks (tasks_noteWrote _ _ _ s)).rawWriteOf _ _ _ _ _
  · dsimp only
    split
    · exact htouch.rawWriteOf _ _ _ _ _
    · split
      · exact htouch
      · split
        · exact Without.rawWriteOf (htouch.of_tasks (tasks_lapse _ _ _ _)) _ _ _ _ _
        · exact htouch

theorem Without.writePieces {s : State} (h : Without gone s) (w : Writer) (ps : List Piece) (cs : List Host.Cell)
    (off : Nat) : Without gone (writePieces w ps cs off s) := by
  induction ps generalizing off s with
  | nil => exact h
  | cons e r ih =>
    obtain ⟨t, a, n⟩ := e
    exact ih (h.memWrite w t a n _) _

theorem Without.undefinedPages {s : State} (h : Without gone s) (pages : Nat → W32 → Bool) :
    Without gone (undefinedPages pages s) := by
  refine Without.of_tasks (s := (s.touched.filter fun t => pages t.ctx t.hostSeq).foldl _ s) (Without.foldl (fun x t hx => ?_) _ h) rfl
  split
  · exact hx
  · exact hx.rawWriteOf _ _ _ _ _

theorem Without.pageWrite {s s' : State} (h : Without gone s) {w : Writer} {u : Use} {a : Nat} {bs : List Byte}
    (hw : pageWrite s w u a bs = .ok s') : Without gone s' := by
  obtain ⟨ps, -, hps⟩ := ok_of_bind hw
  obtain ⟨-, -, hput⟩ := ok_of_bind hps
  cases hput
  exact h.writePieces w ps _ 0

theorem Without.deleteRank {s s' : State} (h : Without gone s) {n rank : Nat} (hd : deleteRank n rank s = .ok s') :
    Without gone s' := by
  obtain ⟨e, -, he⟩ := ok_of_bind hd
  obtain ⟨log, -, hlog⟩ := ok_of_bind he
  obtain ⟨s1, hs1, hrest⟩ := ok_of_bind hlog
  cases hrest
  exact (h.pageWrite hs1).of_tasks rfl

theorem Without.withdrawHere {acc : State × Bool} (h : Without gone acc.1) (ctx : Nat) (r : Nat × Round) :
    Without gone (withdrawHere ctx acc r).1 := by
  unfold Machine.withdrawHere
  dsimp only
  split
  next hok =>
    obtain ⟨e, -, hdel⟩ := ok_of_bind hok
    exact h.deleteRank hdel
  next => exact h.of_tasks (tasks_unitFails _ _ _)

theorem Without.leaveRounds {s : State} (h : Without gone s) (ctx : Nat) : Without gone (leaveRounds ctx s) := by
  have hhere : Without gone ((s.merge.rounds.filter fun r => r.2.isOpen && r.2.ctx = ctx).foldl
      (Machine.withdrawHere ctx) (s, true)).1 :=
    List.foldlRecOn (motive := fun acc : State × Bool => Without gone acc.1) _ _ h fun acc hacc r _ => hacc.withdrawHere ctx r
  refine Without.of_tasks (s := (withdrawAll ctx s).1) ?_ rfl
  exact List.foldlRecOn (motive := fun acc : State × Bool => Without gone acc.1) _ _ hhere fun acc hacc k _ =>
    hacc.of_tasks (tasks_sendWithdrawal ctx acc k)

theorem Without.loseOwner {s : State} (h : Without gone s) (n cause : Nat) : Without gone (loseOwner n cause s) := by
  unfold Machine.loseOwner
  dsimp only
  split
  · exact h
  · exact Without.foldl (fun x (q : Waiter) hx => hx.endParcel q.ctx q.hostSeq 7 0) _ h

theorem Without.loseContext {s : State} (h : Without gone s) (c cause : Nat) : Without gone (loseContext c cause s) :=
  Without.foldl (fun _ n hx => hx.loseOwner n cause) _ h

end

/-! ### ABORT (R86) -/

/-- The parcels of context c that an ABORT has claimed. -/
def AbortRun.claims (a : AbortRun) (c : Nat) : Nat → W32 → Bool :=
  fun x h => decide (x = c) && a.claimed.any fun e => e.1 = h

/-- The state of an ABORT once the work of its parcels has ended (R86). -/
def abortEnded (c : Nat) (a : AbortRun) (s : State) : State :=
  freeCores (endWork (a.claims c) (cutMoves (a.claims c) (stopReplay c s)))

/-- The pages that they were writing. -/
def AbortRun.pages (a : AbortRun) (c : Nat) : Nat → W32 → Bool :=
  fun x h => decide (x = c) && a.claimed.any fun e => e.1 = h && writesPages e.2

theorem runAbort_tasks (c : Nat) (a : AbortRun) (s : State) : (runAbort c a s).tasks =
    (loseContext c 2 (breakSlots (fun k => k.ctx.toNat = c) none true (leaveRounds c (undefinedPages (a.pages c)
      (if abortDirties s c a then (abortEnded c a s).modSeal c fun y => { y with state := .dirty }
        else abortEnded c a s))))).tasks := by
  unfold runAbort abortEnded AbortRun.claims AbortRun.pages
  rw [State.modCtx_tasks]

/-- No task of a claimed parcel is left once an ABORT has begun. -/
theorem runAbort_without (c : Nat) (a : AbortRun) (s : State) : Without (a.claims c) (runAbort c a s) := by
  have hend : Without (a.claims c) (abortEnded c a s) := without_endWork (a.claims c) _
  refine Without.of_tasks (Without.loseContext ?_ c 2) (runAbort_tasks c a s)
  refine Without.of_tasks (Without.leaveRounds (Without.undefinedPages ?_ _) c) (tasks_breakSlots _ none _)
  split <;> exact hend

theorem tasks_modAbort (c : Nat) (h : W32) (f : AbortRun → AbortRun) (s : State) : (modAbort c h f s).tasks = s.tasks := rfl

/-- An ABORT that has not begun begins: no task of its parcels is left. -/
theorem execAbort_begins {s : State} {c : Nat} {a : AbortRun} (ha : s.active = true)
    (hfind : (s.ctx c).aborts.find? (fun a => !a.begun) = some a) :
    ∃ s', execAbort c s = .next s' ∧ Without (a.claims c) s' := by
  refine ⟨modAbort c a.hostSeq (fun x => { x with begun := true }) (runAbort c a s), ?_,
    (runAbort_without c a s).of_tasks (tasks_modAbort _ _ _ _)⟩
  simp only [execAbort, hfind, ha, if_true, go]

/-- So none is found in a slot. -/
theorem not_claimed_of_without {s : State} {c : Nat} {a : AbortRun} (h : Without (a.claims c) s) {w : Who} {t : Task}
    (ht : s.task w = some t) (hc : t.ctx = c) : ∀ e ∈ a.claimed, e.1 ≠ t.hostSeq := by
  have hclaims := h.task ht
  simpa [AbortRun.claims, hc] using hclaims

end Sys2Proof.Machine
end

section
/-! SUPPORT. The starts of the kinds of parcel, one lemma each, and the finish of an ABORT (03_headgate_host.md R69 to R72, R86;
12_tallies_sync.md R347; 16_faults_recovery.md R445, R456). -/

namespace Sys2Proof.Machine

open Sys2Proof

/-! ### Commands of the parcels -/

theorem exec_run (c : Nat) (s : State) : exec (.run c) s = execRun c s := rfl
theorem exec_copy (c : Nat) (s : State) : exec (.copy c) s = starting c kCopy (startCopy c) s := rfl
theorem exec_fence (c : Nat) (s : State) :
    exec (.fence c) s = starting c kFence (fun p x => .ok (concludeParcel c p x)) s := rfl
theorem exec_tallyDump (c : Nat) (s : State) : exec (.tallyDump c) s = execTallyDump c s := rfl
theorem exec_hotset (c : Nat) (s : State) : exec (.hotset c) s = startMoves c kHotset s := rfl
theorem exec_migrate (c : Nat) (s : State) : exec (.migrate c) s = startMoves c kMigrate s := rfl
theorem exec_sealStep (c : Nat) (s : State) : exec (.sealStep c) s
    = starting c kSeal (fun p x => (sealCheck x c p).bind fun set => commitSeal c p set x) s := rfl
theorem exec_replayRestoreReexecute (c : Nat) (s : State) :
    exec (.replayRestoreReexecute c) s = execReplayRestoreReexecute c s := rfl
theorem exec_replayRestoreOnly (c : Nat) (s : State) : exec (.replayRestoreOnly c) s = startReplay c 1 s := rfl
theorem exec_replayCheckOnly (c : Nat) (s : State) : exec (.replayCheckOnly c) s = startReplay c 2 s := rfl
theorem exec_ordinalPlacement (c : Nat) (h : W32) (ordinal core : Nat) (s : State) :
    exec (.ordinalPlacement c h ordinal core) s = execOrdinalPlacement c h ordinal core s := rfl
theorem exec_querySequenceState (c : Nat) (s : State) : exec (.querySequenceState c) s = queryOf c 1 s := rfl
theorem exec_queryContextCounters (c : Nat) (s : State) : exec (.queryContextCounters c) s = queryOf c 2 s := rfl
theorem exec_queryModuleIdentity (c : Nat) (s : State) : exec (.queryModuleIdentity c) s = queryOf c 3 s := rfl
theorem exec_abort (c : Nat) (s : State) : exec (.abort c) s = execAbort c s := rfl
theorem exec_abortFinish (c : Nat) (s : State) : exec (.abortFinish c) s = execAbortFinish c s := rfl

/-! ### The start of each kind -/

section
variable {s : State} {c : Nat} {p : Parcel}

theorem parcel_started (hn : nextParcel s c = some p) :
    ∃ q, (started s c p).parcel c p.hostSeq = some q ∧ q.progress = .started := by
  obtain ⟨q, hq⟩ := parcel_of_mem (nextParcel_mem hn)
  rw [started, parcel_modParcel s c p.hostSeq (by exact fun _ => rfl), hq]
  exact ⟨_, rfl, rfl⟩

theorem started_sealed (s : State) (c : Nat) (p : Parcel) : ((started s c p).ctx c).sealed = (s.ctx c).sealed := by
  rw [started, State.modParcel, State.ctx_modCtx_same]

/-- What a start writes to the host, it writes of the state before it: the start changes the parcel alone. -/
theorem writesHost_of_started {f s' : State} {a : Nat} {bs : List Byte} (h : WritesHost (started s c p) f s' c a bs) :
    WritesHost s f s' c a bs := h

/-- A RUN whose cores are free starts (R69, R456). -/
theorem execRun_starting (hn : nextParcel s c = some p) (hk : p.kind = kRun) (hfree : coresFree s p.unit = true) :
    execRun c s = starting c kRun (startRun c) s := by
  simp [execRun, hn, hk, hfree]

/-- What its tasks start with (Table 4.3). -/
theorem newTask_starts (c : Nat) (h : W32) (w ordinal slot free : Nat) (t : Task) (ht : t = newTask c h w ordinal slot free) :
    t.ctx = c ∧ t.hostSeq = h ∧ t.pc = BitVec.ofNat 64 (runEntry w) ∧ t.entered = false ∧ t.status = .ready
      ∧ t.sreg 0 = BitVec.ofNat 64 (runArgs w)
      ∧ t.sreg 1 = BitVec.ofNat 64 (ordinal * runTasks w + slot + runCount w * runTasks w * 2 ^ 12 + c * 2 ^ 32)
      ∧ (∀ r : Fin 64, 2 ≤ r.val → t.sreg r = 0) ∧ t.vregs = [] ∧ t.tiles = [] ∧ t.descs = [] := by
  subst ht
  refine ⟨rfl, rfl, rfl, rfl, rfl, rfl, rfl, fun r hr => ?_, rfl, rfl, rfl⟩
  have h0 : 0 ≠ r.val := by omega
  have h1 : 1 ≠ r.val := by omega
  simp [newTask, Task.sreg, Tab.get, h0, h1]

/-- A RUN whose header is accepted and whose cores are in service (R70, R92, R111). -/
theorem run_starts {h : RunHeader} (ha : s.active = true) (hn : nextParcel s c = some p) (hk : p.kind = kRun)
    (hfree : coresFree s p.unit = true) (hh : readRunHeader (started s c p) c p.unit = .ok h) (h4 : runTasks p.unit ≤ 4)
    (hg : ∀ k ∈ runCores p.unit, coreGone s k = false) :
    ∃ s', execRun c s = .next s'
      ∧ (∀ o k, o < runCount p.unit → k < runTasks p.unit → ∃ free, s'.task ⟨runFirst p.unit + o, k⟩
        = some (newTask c p.hostSeq p.unit o k free))
      ∧ (∃ q, s'.parcel c p.hostSeq = some q ∧ q.header = some h ∧ q.running = runCount p.unit * runTasks p.unit
        ∧ q.unplaced = [] ∧ q.progress = .started) ∧ SameBytes s s' := by
  have hplaced := placeOrdinals_keepsBytes c p.hostSeq p.unit (runCount p.unit) (started s c p)
  refine ⟨_, (execRun_starting hn hk hfree).trans (starting_ok ha hn hk (startRun_ok hh hg)),
    fun o k ho hk => task_placeOrdinals c p.hostSeq _ h4 ho hk, ?_, hplaced.sameBytes⟩
  obtain ⟨q, hq, hstarted⟩ := parcel_started hn
  rw [parcel_modParcel _ c p.hostSeq (by exact fun _ => rfl)]
  rw [hplaced.parcel, hq]
  exact ⟨_, rfl, rfl, rfl, rfl, hstarted⟩

/-- The next parcel is no TALLY_DUMP, so a dump under way goes on; or it is one, and starts (R347). -/
theorem execTallyDump_starting (hn : nextParcel s c = some p) (hk : p.kind = kTallyDump) :
    execTallyDump c s = starting c kTallyDump (dumpNext c) s := by
  simp [execTallyDump, hn, hk]

theorem dumpNext_ok {s1 : State} (h : devWrite s (parcelWriter c p.hostSeq) useWrite (bitsN p.unit 63 0 + 64 * p.entriesDone)
    (tallyRecord s p.entriesDone) = .ok s1) :
    dumpNext c p s = .ok (s1.modParcel c p.hostSeq fun q => { q with entriesDone := p.entriesDone + 1 }) := bind_ok h

theorem execTallyDump_ok {s1 : State} (ha : s.active = true)
    (hnot : ((nextParcel s c).any fun p => decide (p.kind = kTallyDump)) = false)
    (hd : (s.ctx c).parcels.find? dumping = some p) (h : dumpNext c p s = .ok s1) : execTallyDump c s = .next s1 := by
  simp [execTallyDump, hnot, hd, ha, h, go]

theorem execTallyDump_fails {b : Bad} (ha : s.active = true)
    (hnot : ((nextParcel s c).any fun p => decide (p.kind = kTallyDump)) = false)
    (hd : (s.ctx c).parcels.find? dumping = some p) (h : dumpNext c p s = .error b) :
    execTallyDump c s = .next (parcelFault c p b s) := by
  simp [execTallyDump, hnot, hd, ha, h, go]

/-- A REPLAY of the mode that its command names. -/
theorem startReplay_starting (mode : Nat) (hn : nextParcel s c = some p) (hm : p.replayMode = mode) :
    startReplay c mode s = starting c kReplay (runReplay c) s := by
  simp [startReplay, hn, hm]

theorem execReplayRestoreReexecute_starting (hn : nextParcel s c = some p) (hm : p.replayMode = 0)
    (hnone : replayParcel s c = none) : execReplayRestoreReexecute c s = starting c kReplay (runReplay c) s := by
  rw [execReplayRestoreReexecute, hnone]
  exact startReplay_starting 0 hn hm

end

/-! ### QUERY (R72) -/

/-- A QUERY of a code that has its result and nothing against it. -/
def querying (code : Nat) (q : Parcel) : Bool :=
  decide (q.kind = kQuery) && !q.sample.isEmpty && q.failure.isNone && q.claimed.isNone && decide (bitsN q.unit 7 0 = code)

section
variable {s : State} {c code : Nat} {q : Parcel} (ha : s.active = true) (hq : (s.ctx c).parcels.find? (querying code) = some q)
include ha hq

theorem queryOf_ok {s1 : State} (h : devWrite s (parcelWriter c q.hostSeq) useWrite (bitsN q.unit 127 64) q.sample = .ok s1) :
    queryOf c code s = .next (s1.modParcel c q.hostSeq fun x => { x with sample := [] }) := by
  unfold querying at hq
  simp [queryOf, hq, ha, h, go]

theorem queryOf_fails {b : Bad} (h : devWrite s (parcelWriter c q.hostSeq) useWrite (bitsN q.unit 127 64) q.sample = .error b) :
    queryOf c code s = .next (parcelFault c q b s) := by
  unfold querying at hq
  simp [queryOf, hq, ha, h, go]

end

/-! ### ORDINAL_PLACEMENT (R456) -/

/-- An ordinal that waits for a core goes to a free one. -/
theorem execOrdinalPlacement_places {s : State} {c ordinal core : Nat} {q : Parcel} (ha : s.active = true)
    (hq : s.parcel c q.hostSeq = some q) (hk : q.kind = kRun) (hfail : q.failure = none) (hclaim : q.claimed = none)
    (hwaits : q.unplaced.contains ordinal = true) (hfree : coreFree s core = true) :
    execOrdinalPlacement c q.hostSeq ordinal core s
      = .next ((placeOrdinal c q.hostSeq q.unit ordinal core s).modParcel c q.hostSeq fun x =>
        { x with unplaced := x.unplaced.filter fun o => decide (o ≠ ordinal) }) := by
  simp only [execOrdinalPlacement, hq, ha, hk, hfail, hclaim, hwaits, hfree]
  rfl

/-! ### ABORT_FINISH (R86) -/

/-- The tasks and the phase of context c are as they were. -/
structure KeepsPhase (c : Nat) (s s' : State) : Prop where
  tasks : s'.tasks = s.tasks
  phase : (s'.ctx c).phase = (s.ctx c).phase

theorem KeepsPhase.trans {c : Nat} {s s' s'' : State} (h : KeepsPhase c s s') (h' : KeepsPhase c s' s'') : KeepsPhase c s s'' :=
  ⟨h'.tasks.trans h.tasks, h'.phase.trans h.phase⟩

theorem keepsPhase_modCtx (c : Nat) (s : State) {f : Ctx → Ctx} (hf : ∀ x, (f x).phase = x.phase) :
    KeepsPhase c s (s.modCtx c f) := ⟨rfl, by rw [State.ctx_modCtx_same]; exact hf _⟩

theorem modParcel_keepsPhase (c : Nat) (h : W32) (f : Parcel → Parcel) (s : State) : KeepsPhase c s (s.modParcel c h f) :=
  keepsPhase_modCtx c s fun _ => rfl

theorem queueRecord_keepsPhase (c : Nat) (r : QRecord) (s : State) : KeepsPhase c s (queueRecord c r s) :=
  keepsPhase_modCtx c s fun _ => rfl

theorem advanceExecuted_keepsPhase (c : Nat) (s : State) : KeepsPhase c s (advanceExecuted c s) :=
  keepsPhase_modCtx c s fun _ => rfl

theorem finishParcel_keepsPhase (c : Nat) (h : W32) (s : State) : KeepsPhase c s (finishParcel c h s) := by
  have hdrop : KeepsPhase c s (s.modCtx c fun x => { x with parcels := x.parcels.filter fun p => p.hostSeq ≠ h }) :=
    keepsPhase_modCtx c s fun _ => rfl
  have hpages : KeepsPhase c s { s.modCtx c (fun x => { x with parcels := x.parcels.filter fun p => p.hostSeq ≠ h }) with
      touched := s.touched.filter fun t => !(decide (t.ctx = c) && decide (t.hostSeq = h)) } := ⟨hdrop.tasks, hdrop.phase⟩
  exact hpages.trans (advanceExecuted_keepsPhase c _)

theorem abortedRecord_keepsPhase (c : Nat) (s : State) (e : W32 × Byte) : KeepsPhase c s (abortedRecord c s e) := by
  unfold abortedRecord
  split
  · exact (modParcel_keepsPhase c e.1 _ s).trans (queueRecord_keepsPhase c _ _)
  · exact ⟨rfl, rfl⟩

theorem abortRecord_keepsPhase (c : Nat) (a : AbortRun) (s : State) : KeepsPhase c s (abortRecord c a s) := by
  unfold abortRecord
  extract_lets status
  split
  · exact finishParcel_keepsPhase c _ s
  · exact (modParcel_keepsPhase c a.hostSeq _ s).trans (queueRecord_keepsPhase c _ _)

theorem abortedRecords_keepsPhase (c : Nat) (l : List (W32 × Byte)) (s : State) :
    KeepsPhase c s (l.foldl (abortedRecord c) s) :=
  List.foldlRecOn l (abortedRecord c) ⟨rfl, rfl⟩ fun x hx e _ => hx.trans (abortedRecord_keepsPhase c x e)

/-- The state once an ABORT's records have been queued. -/
def abortRecorded (c : Nat) (a : AbortRun) (s : State) : State := abortRecord c a (a.claimed.foldl (abortedRecord c) s)

/-- An ABORT that has begun finishes: it leaves the list, and the context opens after its last. -/
theorem execAbortFinish_next {s : State} {c : Nat} {a : AbortRun} {r : List AbortRun} (ha : s.active = true)
    (haborts : (s.ctx c).aborts = a :: r) (hbegun : a.begun = true) :
    execAbortFinish c s = .next ((abortRecorded c a s).modCtx c fun x => { x with
      aborts := r, phase := if r.isEmpty && x.phase = .aborting then .opened else x.phase }) := by
  simp only [execAbortFinish, haborts, hbegun, ha, Bool.not_true, Bool.or_self, Bool.false_eq_true, if_false, go, abortRecorded]

theorem execAbortFinish_finishes {s : State} {c : Nat} {a : AbortRun} {r : List AbortRun} (ha : s.active = true)
    (haborts : (s.ctx c).aborts = a :: r) (hbegun : a.begun = true) :
    ∃ s', execAbortFinish c s = .next s' ∧ (s'.ctx c).aborts = r ∧ s'.tasks = s.tasks
      ∧ (s'.ctx c).phase = if r = [] ∧ (s.ctx c).phase = .aborting then .opened else (s.ctx c).phase := by
  have hkept : KeepsPhase c s (abortRecorded c a s) :=
    (abortedRecords_keepsPhase c a.claimed s).trans (abortRecord_keepsPhase c a _)
  refine ⟨_, execAbortFinish_next ha haborts hbegun, ?_, hkept.tasks, ?_⟩
  · rw [State.ctx_modCtx_same]
  · rw [State.ctx_modCtx_same, ← hkept.phase]
    simp

end Sys2Proof.Machine
end

section

namespace Sys2Proof

open Machine

/-- Settles O52: each kind of parcel by the lemma about its start, an ABORT by `runAbort_without`, and its finish by what its records
leave of the context's phase. -/
theorem parcelsStart : Obligations.ParcelsStart := by
  unfold Obligations.ParcelsStart
  refine ⟨?starts, fun s c ha => ⟨?dumps, ?places, ?queries, ?abort, ?finish⟩⟩
  case starts =>
    rintro s s0 c w p ha hn rfl hs0
    obtain rfl : s0 = started s c p := hs0
    refine ⟨fun hk hfree => ⟨fun b hb => ?runStops, fun h hh h4 hg => ?runs⟩, fun hk => ⟨fun b hb => ?copyStops, ?copies⟩,
      fun hk => ?fence, fun hk r n hn' hr => ?dump, ?moves, fun hk => ?commits, ?replay⟩
    case runStops =>
      rw [exec_run, execRun_starting hn hk hfree]
      exact starting_stops ha hn hk (bind_error hb)
    case runs =>
      rw [exec_run]
      obtain ⟨s', hrun, htasks, hparcel, hbytes⟩ := run_starts ha hn hk hfree hh h4 hg
      refine ⟨s', hrun, fun o k ho hk => ?_, hparcel, hbytes⟩
      obtain ⟨free, ht⟩ := htasks o k ho hk
      exact ⟨_, ht, newTask_starts c p.hostSeq p.unit o k free _ rfl⟩
    case copyStops =>
      rw [exec_copy]
      exact starting_stops ha hn hk hb
    case copies =>
      intro t a1 a2 n hsrc hsound hdst hwf
      rw [exec_copy]
      have hmem : s.mem.wf = true := (Bool.and_eq_true_iff.mp hwf).1
      exact ⟨_, starting_ok ha hn hk (startCopy_ok hsrc hsound hdst),
        writesHost_of_started (startCopy_writes (s := started s c p) c p t a1 a2 n hmem)⟩
    case fence =>
      rw [exec_fence]
      exact starting_ok ha hn hk rfl
    case dump =>
      subst hn' hr
      rw [exec_tallyDump, execTallyDump_starting hn hk]
      exact ⟨fun s1 h1 => starting_ok ha hn hk (dumpNext_ok h1), fun b hb => starting_stops ha hn hk (bind_error hb)⟩
    case moves =>
      have hmoves : ∀ kind, p.kind = kind →
          (moveCheck (started s c p) c p = .ok () →
            startMoves c kind s = .next (noteRecord c p.moveRecord (started s c p)))
          ∧ ∀ b, moveCheck (started s c p) c p = .error b → StopsAtStart (startMoves c kind s) s (started s c p) c p b :=
        fun kind hk => ⟨fun hc => starting_ok ha hn hk (bind_ok hc), fun b hb => starting_stops ha hn hk (bind_error hb)⟩
      simpa only [List.forall_mem_cons, exec_hotset, exec_migrate] using
        ⟨hmoves kHotset, hmoves kMigrate, List.forall_mem_nil _⟩
    case commits =>
      rw [exec_sealStep]
      refine ⟨fun b hb => starting_stops ha hn hk (bind_error hb), fun set s1 hc h1 => ?_⟩
      have hsealed := commitSeal_sealed h1
      rw [started_sealed] at hsealed
      exact ⟨starting_ok ha hn hk ((bind_ok hc).trans h1), hsealed⟩
    case replay =>
      have hreplay : ∀ o : Out, p.kind = kReplay → o = starting c kReplay (runReplay c) s →
          (∀ s1, runReplay c p (started s c p) = .ok s1 → o = .next s1)
          ∧ ∀ b, runReplay c p (started s c p) = .error b → StopsAtStart o s (started s c p) c p b := fun o hk ho =>
        ho ▸ ⟨fun s1 h1 => starting_ok ha hn hk h1, fun b hb => starting_stops ha hn hk hb⟩
      simp only [List.forall_mem_cons, exec_replayRestoreReexecute, exec_replayRestoreOnly, exec_replayCheckOnly]
      exact ⟨fun hk hm hnone => hreplay _ hk (execReplayRestoreReexecute_starting hn hm hnone),
        fun hk hm _ => hreplay _ hk (startReplay_starting 1 hn hm),
        fun hk hm _ => hreplay _ hk (startReplay_starting 2 hn hm), List.forall_mem_nil _⟩
  case dumps =>
    rintro q hnot hq r n rfl rfl
    rw [exec_tallyDump]
    exact ⟨fun s1 h1 => execTallyDump_ok ha hnot hq (dumpNext_ok h1),
      fun b hb => execTallyDump_fails ha hnot hq (bind_error hb)⟩
  case places =>
    intro ordinal core q hq hk hfail hclaim hwaits hfree h4
    rw [exec_ordinalPlacement]
    refine ⟨_, execOrdinalPlacement_places ha hq hk hfail hclaim hwaits hfree, fun k hk => ?_, ?_⟩
    · obtain ⟨free, ht⟩ := task_placeOrdinal_inside c q.hostSeq q.unit ordinal core s hk
      exact ⟨_, ht, rfl, rfl, rfl, rfl⟩
    · rw [parcel_modParcel _ c q.hostSeq (by exact fun _ => rfl), (placeOrdinal_keepsBytes c _ _ _ _ s).parcel, hq]
      rfl
  case queries =>
    have hquery : ∀ code q, (s.ctx c).parcels.find? (querying code) = some q →
        ∀ r, r = devWrite s (parcelWriter c q.hostSeq) useWrite (bitsN q.unit 127 64) q.sample →
        (∀ s1, r = .ok s1 → queryOf c code s = .next (s1.modParcel c q.hostSeq fun x => { x with sample := [] }))
        ∧ ∀ b, r = .error b → queryOf c code s = .next (parcelFault c q b s) := by
      rintro code q hq r rfl
      exact ⟨fun s1 h1 => queryOf_ok ha hq h1, fun b hb => queryOf_fails ha hq hb⟩
    simp only [List.forall_mem_cons, exec_querySequenceState, exec_queryContextCounters, exec_queryModuleIdentity]
    exact ⟨hquery 1, hquery 2, hquery 3, List.forall_mem_nil _⟩
  case abort =>
    intro a hfind
    rw [exec_abort]
    obtain ⟨s', habort, hnone⟩ := execAbort_begins ha hfind
    exact ⟨s', habort, fun w t ht hc => not_claimed_of_without hnone ht hc⟩
  case finish =>
    rw [exec_abortFinish]
    exact fun a r haborts hbegun => execAbortFinish_finishes ha haborts hbegun

end Sys2Proof
end

section
/-! SUPPORT. Instructions on the registers of their task alone (04_selod_isa.md R93, R101, Tables 4.7 and 4.8): what a scalar and a
lane instruction leaves, and the integer operations by the numbers of their operands. -/

namespace Sys2Proof.Machine

open Sys2Proof

/-! ### The integer operations (R101) -/

section
variable {n : Nat} (a b : BitVec n)

theorem aluMin_eq : aluMin a b = if a.toInt < b.toInt then a else b := by simp [aluMin, sMin, BitVec.slt]

theorem aluMax_eq : aluMax a b = if a.toInt < b.toInt then b else a := by simp [aluMax, sMax, BitVec.slt]

theorem aluSlt_eq : aluSlt a b = if a.toInt < b.toInt then 1 else 0 := by simp [aluSlt, boolWord, BitVec.slt]

theorem aluSltu_eq : aluSltu a b = if a.toNat < b.toNat then 1 else 0 := by simp [aluSltu, boolWord, BitVec.ult]

theorem aluSeq_eq : aluSeq a b = if a = b then 1 else 0 := by simp [aluSeq, boolWord]

theorem popCount_eq : popCount a = (List.range n).countP fun i => a.getLsbD i := List.countP_eq_length_filter.symm

end

/-! ### Scalar and lane instructions -/

theorem writesLanes_setVec (t : Task) (g : Guard) (vd : Fin 32) (f : Nat → W32) :
    WritesLanes t g vd f (t.setVec g vd f).advance :=
  ⟨t.lane_setVec_same g vd f, fun _ l hr => t.lane_setVec_other g hr f l, rfl⟩

section
variable {s : State} {w : Who} {t : Task} {g : Guard}

/-- A scalar instruction whose guard acts writes rd alone. -/
theorem scalarOp_writes {rd : Fin 64} {f : Task → Word} {v : Word} (h : Ready s w t) (hg : t.acts g = true) (hv : f t = v) :
    RunsTask (scalarOp w g rd f s) s w (WritesScalar t rd v) := by
  refine runsTask_onTask h rfl ?_
  rw [if_pos hg, hv]
  exact writesScalar_setS t rd v

/-- A lane instruction writes the lanes of vd that the guard admits. -/
theorem laneOp_writes {vd : Fin 32} {f : Task → Nat → W32} {v : Nat → W32} (h : Ready s w t) (hv : ∀ l, f t l = v l) :
    RunsTask (laneOp w g anyLevel vd f s) s w (WritesLanes t g vd v) := by
  refine runsTask_onTask h rfl ?_
  rw [funext hv]
  exact writesLanes_setVec t g vd v

end

end Sys2Proof.Machine
end

section

namespace Sys2Proof

open Machine

/-- Settles O1: each instruction is the scalar one of its integer operation (`scalarOp_writes`), on two registers or on a register and
the immediate. -/
theorem scalarIntegerResults : Obligations.ScalarIntegerResults := by
  unfold Obligations.ScalarIntegerResults
  refine ⟨fun op hop s w t g rd ra rb h hg => ?registers, fun op hop s w t g rd ra imm h hg => ?immediates,
    fun s w t g rd ra imm h hg => ⟨scalarOp_writes h hg rfl, scalarOp_writes h hg (congrArg _ (popCount_eq _))⟩⟩
  case registers =>
    suffices ∃ f, exec (op.1 w g rd ra rb) s = scalarOp w g rd f s ∧ f t = op.2 (t.sreg ra) (t.sreg rb) by
      obtain ⟨f, hexec, hf⟩ := this
      exact hexec ▸ scalarOp_writes h hg hf
    revert op
    simp only [List.forall_mem_cons]
    exact ⟨⟨_, rfl, rfl⟩, ⟨_, rfl, rfl⟩, ⟨_, rfl, rfl⟩, ⟨_, rfl, rfl⟩, ⟨_, rfl, rfl⟩, ⟨_, rfl, rfl⟩, ⟨_, rfl, rfl⟩, ⟨_, rfl, rfl⟩,
      ⟨_, rfl, rfl⟩, ⟨_, rfl, rfl⟩, ⟨_, rfl, aluMin_eq _ _⟩, ⟨_, rfl, aluMax_eq _ _⟩, ⟨_, rfl, aluSlt_eq _ _⟩,
      ⟨_, rfl, aluSltu_eq _ _⟩, ⟨_, rfl, aluSeq_eq _ _⟩, List.forall_mem_nil _⟩
  case immediates =>
    suffices ∃ f, exec (op.1 w g rd ra imm) s = scalarOp w g rd f s ∧ f t = op.2 (t.sreg ra) (imm.signExtend 64) by
      obtain ⟨f, hexec, hf⟩ := this
      exact hexec ▸ scalarOp_writes h hg hf
    revert op
    simp only [List.forall_mem_cons]
    exact ⟨⟨_, rfl, rfl⟩, ⟨_, rfl, rfl⟩, ⟨_, rfl, rfl⟩, ⟨_, rfl, rfl⟩, ⟨_, rfl, rfl⟩, ⟨_, rfl, rfl⟩, ⟨_, rfl, rfl⟩, ⟨_, rfl, rfl⟩,
      ⟨_, rfl, rfl⟩, ⟨_, rfl, rfl⟩, ⟨_, rfl, aluMin_eq _ _⟩, ⟨_, rfl, aluMax_eq _ _⟩, ⟨_, rfl, aluSlt_eq _ _⟩,
      ⟨_, rfl, aluSltu_eq _ _⟩, ⟨_, rfl, aluSeq_eq _ _⟩, List.forall_mem_nil _⟩

end Sys2Proof
end

section
/-! SUPPORT. Instructions that bit 0 of their guard guards, and the fetch of an instruction (04_selod_isa.md R93, R96, R97, R102,
R104). -/

namespace Sys2Proof.Machine

open Sys2Proof

/-! ### Guarded by bit 0 (R93) -/

/-- The outcome of an instruction that issues at either level, and whose task only goes on where the guard does not act. -/
def IssuesGuarded (w : Who) (g : Guard) (s : State) (o : Out) : Prop :=
  ∃ body : Task → State → State, o = issue w anyLevel body s ∧ ∀ t x, t.acts g = false → body t x = x.setTask w t.advance

section
variable {w : Who} {g : Guard} {s : State}

theorem onTask_issuesGuarded {f : Task → Task} (hf : ∀ t, t.acts g = false → f t = t) :
    IssuesGuarded w g s (onTask w anyLevel f s) :=
  ⟨fun t x => x.setTask w (f t).advance, rfl, fun t _ hg => by simp only [hf t hg]⟩

theorem scalarOp_issuesGuarded {rd : Fin 64} {f : Task → Word} : IssuesGuarded w g s (scalarOp w g rd f s) :=
  onTask_issuesGuarded fun t hg => by simp [hg]

theorem branchOp_issuesGuarded {ra rb : Fin 64} {offset : W32} {c : Word → Word → Bool} :
    IssuesGuarded w g s (branchOp w g ra rb offset c s) :=
  onTask_issuesGuarded fun t hg => by simp [hg]

theorem countNum_zero (c : Nat) (h : W32) (die : Nat) (s : State) : countNum c h die Counts.zero s = s := rfl

theorem scalarFp_issuesGuarded {rd : Fin 64} {f : Task → W32} : IssuesGuarded w g s (scalarFp w g rd f s) :=
  ⟨fun t x =>
    let y := if t.acts g then (t.setS rd ((f t).zeroExtend 64), ⟨0, b2n (nonfin (f t))⟩) else (t, Counts.zero)
    countNum t.ctx t.hostSeq (Who.die w) y.2 (x.setTask w y.1.advance),
    rfl, fun t x hg => by simp [hg, countNum_zero]⟩

theorem guarded_issuesGuarded {f : Task → State → Except Bad State} : IssuesGuarded w g s (guarded w g anyLevel f s) :=
  ⟨_, rfl, fun t x hg => by simp [hg]⟩

section
variable {rd ra rb : Fin 64} {d : Fin 16} {imm : W32} {n : Nat}

theorem loadOp_issuesGuarded : IssuesGuarded w g s (loadOp w g rd ra imm n s) := guarded_issuesGuarded
theorem storeOp_issuesGuarded : IssuesGuarded w g s (storeOp w g rd ra imm n s) := guarded_issuesGuarded
theorem cisLoad_issuesGuarded : IssuesGuarded w g s (cisLoad w g rd ra imm n s) := guarded_issuesGuarded
theorem cisStore_issuesGuarded : IssuesGuarded w g s (cisStore w g rd ra imm n s) := guarded_issuesGuarded
theorem execDld_issuesGuarded : IssuesGuarded w g s (execDld w g d ra s) := guarded_issuesGuarded
theorem execDst_issuesGuarded : IssuesGuarded w g s (execDst w g d ra s) := guarded_issuesGuarded
theorem execBge_issuesGuarded : IssuesGuarded w g s (execBge w g ra rb imm s) := branchOp_issuesGuarded
theorem execBgeu_issuesGuarded : IssuesGuarded w g s (execBgeu w g ra rb imm s) := branchOp_issuesGuarded
theorem execFcvtfi_issuesGuarded : IssuesGuarded w g s (execFcvtfi w g rd ra s) := ⟨_, rfl, fun t x hg => by simp [hg]⟩
theorem execWait_issuesGuarded : IssuesGuarded w g s (execWait w g ra s) := ⟨_, rfl, fun t x hg => by simp [hg]⟩
theorem execHalt_issuesGuarded : IssuesGuarded w g s (execHalt w g s) := ⟨_, rfl, fun t x hg => by simp [hg]⟩
theorem execYield_issuesGuarded : IssuesGuarded w g s (execYield w g s) := ⟨_, rfl, fun t x hg => by simp [hg]⟩

end

end

/-- Every instruction that bit 0 guards is one of these. -/
theorem exec_issuesGuarded {i : Instr} {w : Who} {g : Guard} (h : bit0Guarded i = some (w, g)) (s : State) :
    IssuesGuarded w g s (exec i s) := by
  cases i <;> cases h
  case add | sub | mul | mulh | and | or | xor | shl | shr | sra | min | max | slt | sltu | seq | popc | addi | subi | muli
      | mulhi | andi | ori | xori | shli | shri | srai | mini | maxi | slti | sltui | seqi | movh =>
    exact scalarOp_issuesGuarded
  case ld8 | ld16 | ld32 | ld64 => exact loadOp_issuesGuarded
  case st8 | st16 | st32 | st64 => exact storeOp_issuesGuarded
  case cld8 | cld16 | cld32 | cld64 => exact cisLoad_issuesGuarded
  case cst8 | cst16 | cst32 | cst64 => exact cisStore_issuesGuarded
  case dld => exact execDld_issuesGuarded
  case dst => exact execDst_issuesGuarded
  case beq | bne | blt | bltu => exact branchOp_issuesGuarded
  case bge => exact execBge_issuesGuarded
  case bgeu => exact execBgeu_issuesGuarded
  case fadd | fsub | fmul | ffma | fmin | fmax | fcvtif => exact scalarFp_issuesGuarded
  case jal | jr | dinv => exact onTask_issuesGuarded fun t hg => by simp [hg]
  case mfence | ifence | nop => exact onTask_issuesGuarded fun _ _ => rfl
  case fcvtfi => exact execFcvtfi_issuesGuarded
  case wait => exact execWait_issuesGuarded
  case halt => exact execHalt_issuesGuarded
  case yield => exact execYield_issuesGuarded

end Sys2Proof.Machine
end

section

namespace Sys2Proof

open Machine

/-- Settles O3: each of them issues, and guarded off moves its task on (`exec_issuesGuarded`). -/
theorem guardedOffInstructionsDoNothing : Obligations.GuardedOffInstructionsDoNothing := by
  unfold Obligations.GuardedOffInstructionsDoNothing
  intro i s w g t hi h hg
  obtain ⟨body, hexec, hoff⟩ := exec_issuesGuarded hi s
  exact hexec ▸ runsTask_issue h rfl (hoff t _ hg) (goesTo_advance t)

end Sys2Proof
end

section
/-! SUPPORT. What an access to device memory depends on, and the accesses that lie in one piece (04_selod_isa.md R102;
11_memory_tiers.md R297 to R303, R316). -/

namespace Sys2Proof.Machine

open Sys2Proof

/-! ### The state as an access sees it -/

/-- The state but for the cores, their work and the registers of the engines: no access to device memory is judged by these. -/
def State.bare (s : State) : State := { s with tasks := [], cores := [], ops := [], loose := [], nextOp := 0, sl := Sluice.reset }

@[simp] theorem bare_setTask (s : State) (w : Who) (t : Task) : (s.setTask w t).bare = s.bare := rfl
@[simp] theorem bare_issued (w : Who) (s : State) : (issued w s).bare = s.bare := rfl

section
variable (s : State) (ctx : Nat) (u : Use) (a n : Nat) (t : Tier)

theorem rangeFenced_bare : rangeFenced s.bare t a n = rangeFenced s t a n := rfl
theorem checkStore_bare (b : Nat) : checkStore s.bare a t b n = checkStore s a t b n := rfl
theorem tableEntry_bare (at' : Nat) : tableEntry s.bare a t at' = tableEntry s a t at' := rfl

theorem walk_bare (fuel tab level : Nat) : walk s.bare u a fuel t tab level = walk s u a fuel t tab level := by
  induction fuel generalizing t tab level with
  | zero => rfl
  | succ fuel ih =>
    simp only [walk, tableEntry_bare, ih]
    rfl

theorem walkFrom_bare : walkFrom s.bare ctx u a = walkFrom s ctx u a := by
  unfold walkFrom
  simp only [walk_bare]
  rfl

theorem translatePage_bare : translatePage s.bare ctx u a = translatePage s ctx u a := by
  unfold translatePage
  simp only [walkFrom_bare]
  rfl

theorem stashAddr_bare (log2 rec : Nat) : stashAddr s.bare ctx u a log2 rec = stashAddr s ctx u a log2 rec := by
  unfold stashAddr readAt
  simp only [translatePage_bare]
  rfl

theorem translate_bare : translate s.bare ctx u a = translate s ctx u a := by
  unfold translate
  simp only [walkFrom_bare, stashAddr_bare]
  rfl

theorem translateMem_bare : translateMem s.bare ctx u a = translateMem s ctx u a := by
  unfold translateMem
  rw [translate_bare]

theorem windowOf_bare : windowOf s.bare ctx u a = windowOf s ctx u a := by
  unfold windowOf
  rw [walkFrom_bare]

theorem piecesBy_bare (tr : Nat → Except Bad (Tier × Nat)) (fuel : Nat) :
    piecesBy s.bare tr fuel a n = piecesBy s tr fuel a n := by
  induction fuel generalizing a n with
  | zero => rfl
  | succ fuel ih => simp only [piecesBy, rangeFenced_bare, ih]

theorem range_bare : range s.bare ctx u a n = range s ctx u a n := by
  have htr : translateMem s.bare ctx u = translateMem s ctx u := funext fun b => translateMem_bare s ctx u b
  rw [range, pieces, piecesBy_bare, htr]
  rfl

theorem checkPieces_bare (ps : List Piece) : checkPieces s.bare a ps = checkPieces s a ps := by
  induction ps generalizing a with
  | nil => rfl
  | cons p r ih => simp only [checkPieces, checkStore_bare, ih]

theorem checkClocks_bare (ps : List Piece) : checkClocks s.bare a ps = checkClocks s a ps := by
  induction ps generalizing a with
  | nil => rfl
  | cons p r ih =>
    simp only [checkClocks, ih]
    rfl

theorem devRead_bare : devRead s.bare ctx u a n = devRead s ctx u a n := by
  unfold devRead
  simp only [range_bare, checkPieces_bare]
  rfl

end

/-! ### Where a translation ends -/

section
variable {s : State} {ctx : Nat} {u : Use} {a : Nat}

/-- A check that ends well has not met its condition. -/
theorem else_of_ok {α : Type} {c : Prop} [Decidable c] {b : Bad} {x : Except Bad α} {v : α}
    (h : (if c then .error b else x) = .ok v) : ¬ c ∧ x = .ok v := by
  by_cases hc : c
  · rw [if_pos hc] at h
    cases h
  · exact ⟨hc, by rwa [if_neg hc] at h⟩

/-- A page that a walk finds lies in one of the tiers of its use. -/
theorem walk_tier {fuel : Nat} {t pt : Tier} {tab level b : Nat} {ats : Bool}
    (h : walk s u a fuel t tab level = .ok (.page pt b ats)) : pt ∈ u.tiers := by
  induction fuel generalizing t tab level with
  | zero => cases h
  | succ fuel ih =>
    simp only [walk] at h
    obtain ⟨e, -, h⟩ := ok_of_bind h
    obtain ⟨-, h⟩ := else_of_ok h
    split at h
    case h_1 =>
      obtain ⟨-, h⟩ := else_of_ok h
      obtain ⟨-, h⟩ := else_of_ok h
      obtain ⟨-, h⟩ := else_of_ok h
      exact ih h
    case h_2 =>
      obtain ⟨-, h⟩ := else_of_ok h
      obtain ⟨-, h⟩ := else_of_ok h
      obtain ⟨-, h⟩ := else_of_ok h
      obtain ⟨-, h⟩ := else_of_ok h
      obtain ⟨htier, h⟩ := else_of_ok h
      cases h
      simpa using htier
    case h_3 =>
      obtain ⟨-, h⟩ := else_of_ok h
      obtain ⟨-, h⟩ := else_of_ok h
      obtain ⟨-, h⟩ := else_of_ok h
      obtain ⟨-, h⟩ := else_of_ok h
      cases h

theorem atsAddr_tier {t t' : Tier} {b b' : Nat} {ats : Bool} (h : atsAddr s u t b ats = .ok (t', b')) : t' = t := by
  unfold atsAddr at h
  split at h
  · split at h
    · cases h; rfl
    · cases h
  · cases h; rfl

/-- A page that an access reaches lies in a tier of its use and outside the fenced memory. -/
def Reaches (s : State) (u : Use) (r : Tier × Nat) : Prop := r.1 ∈ u.tiers ∧ memFenced s r.1 r.2 = false

theorem translatePage_reaches {r : Tier × Nat} (h : translatePage s ctx u a = .ok r) : Reaches s u r := by
  unfold translatePage at h
  split at h
  · cases h
  · cases h
  next t b ats hwalk =>
    unfold walkFrom at hwalk
    split at h
    · cases h
    next t' b' hats =>
      obtain ⟨hfence, h⟩ := else_of_ok h
      obtain ⟨-, hwalk⟩ := else_of_ok hwalk
      cases h
      exact ⟨atsAddr_tier hats ▸ walk_tier hwalk, Bool.eq_false_iff.mpr hfence⟩

theorem stashAddr_reaches {log2 rec : Nat} {r : Tier × Nat} (h : stashAddr s ctx u a log2 rec = .ok r) : Reaches s u r := by
  unfold stashAddr at h
  extract_lets bad win found at h
  have hfound : ∀ bs, found bs = .ok r → Reaches s u r := by
    intro bs h
    obtain ⟨-, h⟩ := else_of_ok h
    dsimp only at h
    split at h
    · exact translatePage_reaches h
    · split at h <;> cases h
  split at h
  · obtain ⟨bs, -, h⟩ := ok_of_bind h
    exact hfound bs h
  · obtain ⟨bs, -, h⟩ := ok_of_bind h
    exact hfound bs h

theorem translateMem_reaches {r : Tier × Nat} (h : translateMem s ctx u a = .ok r) : Reaches s u r := by
  unfold translateMem at h
  obtain ⟨p, hp, h⟩ := ok_of_bind h
  split at h
  case h_2 => cases h
  case h_1 t b =>
    cases h
    unfold translate at hp
    split at hp
    case h_1 => cases hp
    case h_4 => cases hp
    case h_2 t' b' ats hwalk =>
      unfold walkFrom at hwalk
      split at hp
      · cases hp
      next hats =>
        obtain ⟨hfence, hp⟩ := else_of_ok hp
        obtain ⟨-, hwalk⟩ := else_of_ok hwalk
        cases hp
        exact ⟨atsAddr_tier hats ▸ walk_tier hwalk, Bool.eq_false_iff.mpr hfence⟩
    case h_3 =>
      cases hstash : stashAddr s ctx u a _ _ with
      | error e => rw [hstash] at hp; cases hp
      | ok q =>
        rw [hstash] at hp
        cases hp
        exact stashAddr_reaches hstash

/-- Outside the flash tier, what an access reaches lies in no fenced range. -/
theorem rangeFenced_of_reaches {t : Tier} {b n : Nat} (h : Reaches s u (t, b)) (hflash : Tier.flash ∉ u.tiers) :
    rangeFenced s t b n = false := by
  obtain ⟨htier, hfence⟩ := h
  have ht : t ≠ .flash := fun ht => hflash (ht ▸ htier)
  rw [rangeFenced, if_neg ht]
  exact hfence

/-! ### Accesses in one piece -/

/-- An access that no 64 KiB boundary cuts is one piece, where its first byte leads. -/
theorem range_single {n : Nat} {t : Tier} {b : Nat} (hn : 0 < n) (hfit : a % 65536 + n ≤ 65536)
    (hflash : Tier.flash ∉ u.tiers) (h : translateMem s ctx u a = .ok (t, b)) : range s ctx u a n = .ok [(t, b, n)] := by
  have hmin : min n (65536 - a % 65536) = n := by omega
  have hfence := rangeFenced_of_reaches (n := n) (translateMem_reaches h) hflash
  simp only [range, pieces, piecesBy, hmin, hn.ne', if_false, h, Nat.sub_self, bind, Except.bind, hfence, Bool.false_eq_true, if_false]
  rfl

theorem range_fails {n : Nat} {e : Bad} (hn : 0 < n) (h : translateMem s ctx u a = .error e) :
    range s ctx u a n = .error e := by
  simp only [range, pieces, piecesBy, hn.ne', if_false, h]
  rfl

/-- An access naturally aligned to its size is cut by no 64 KiB boundary. -/
theorem aligned_fits {n : Nat} (hn : n ∣ 65536) (ha : a % n = 0) : a % 65536 + n ≤ 65536 := by
  obtain ⟨k, hk⟩ := hn
  have hpos : 0 < 65536 := by decide
  have hmod : a % 65536 % n = 0 := by rw [Nat.mod_mod_of_dvd a ⟨k, hk⟩, ha]
  obtain ⟨j, hj⟩ := Nat.dvd_of_mod_eq_zero hmod
  have hlt : a % 65536 < 65536 := Nat.mod_lt _ hpos
  rw [hj, hk] at hlt
  have hjk : j < k := Nat.lt_of_mul_lt_mul_left hlt
  rw [hj, hk]
  nlinarith

/-- A read in one piece answers the bytes there once they pass their check. -/
theorem devRead_single {n : Nat} {t : Tier} {b : Nat} (hr : range s ctx u a n = .ok [(t, b, n)])
    (hc : checkStore s a t b n = .ok ()) : devRead s ctx u a n = .ok (Memory.bytes (s.mem.tier t) b n) := by
  have hps : checkPieces s a [(t, b, n)] = .ok () := (bind_ok hc).trans rfl
  refine (bind_ok hr).trans ((bind_ok hps).trans ?_)
  simp [piecesBytes]
  rfl

theorem devRead_unsound {n : Nat} {t : Tier} {b : Nat} {e : Bad} (hr : range s ctx u a n = .ok [(t, b, n)])
    (hc : checkStore s a t b n = .error e) : devRead s ctx u a n = .error e := by
  have hps : checkPieces s a [(t, b, n)] = .error e := bind_error hc
  exact (bind_ok hr).trans (bind_error hps)

theorem devRead_fails {n : Nat} {e : Bad} (hr : range s ctx u a n = .error e) : devRead s ctx u a n = .error e := bind_error hr

end

/-! ### The fetch of an instruction (R96, R102) -/

theorem exec_malformedInstruction (w : Who) (word : Word) (s : State) :
    exec (.malformedInstruction w word) s = execMalformedInstruction w word s := rfl

section
variable {s : State} {w : Who} {t : Task} {word : Word}

theorem fetch_misaligned (ht : s.task w = some t) (hc : canIssue s w t = true) (ha : t.pc.toNat % 8 ≠ 0) :
    execMalformedInstruction w word s
      = .next (failParcel t.ctx t.hostSeq (some w) t.pc (w.core / 64) (.violation 2 1 t.pc.toNat) s) := by
  simp [execMalformedInstruction, ht, hc, ha, go, Who.die]

theorem fetch_fails {b : Bad} (ht : s.task w = some t) (hc : canIssue s w t = true) (ha : t.pc.toNat % 8 = 0)
    (hr : devRead s t.ctx (Use.of 2 nearFar) t.pc.toNat 8 = .error b) : execMalformedInstruction w word s
      = .next (failParcel t.ctx t.hostSeq (some w) t.pc (w.core / 64) b s) := by
  simp [execMalformedInstruction, ht, hc, ha, hr, go, Who.die]

/-- A word that is fetched ends the parcel where it spells no instruction of the task's level. -/
theorem fetch_decides {bs : List Byte} (ht : s.task w = some t) (hc : canIssue s w t = true) (ha : t.pc.toNat % 8 = 0)
    (hr : devRead s t.ctx (Use.of 2 nearFar) t.pc.toNat 8 = .ok bs) : execMalformedInstruction w word s
      = .next (if (decodeSelod (decide (t.level ≠ 1)) w word).isSome then s
          else failParcel t.ctx t.hostSeq (some w) t.pc (w.core / 64) (.violation 2 4 t.pc.toNat) s) := by
  simp only [execMalformedInstruction, ht, hc, ha, hr, Bool.not_true, Bool.false_eq_true, ne_eq, not_true, if_false]
  cases decodeSelod (decide (t.level ≠ 1)) w word <;> rfl

/-- The eight bytes of an aligned program counter lie in one piece. -/
theorem fetch_range {tier : Tier} {a : Nat} (ha : t.pc.toNat % 8 = 0)
    (htr : translateMem s t.ctx (Use.of 2 nearFar) t.pc.toNat = .ok (tier, a)) :
    range s t.ctx (Use.of 2 nearFar) t.pc.toNat 8 = .ok [(tier, a, 8)] :=
  range_single (by decide) (aligned_fits (by decide) ha) (by decide) htr

end

end Sys2Proof.Machine
end

section

namespace Sys2Proof

open Machine

/-- Settles O4: what does not issue or is malformed as for every instruction (`exec_issuesGuarded`), and the fetch by its alignment,
its translation, its check and its word. -/
theorem malformedInstructionsEndTheirParcel : Obligations.MalformedInstructionsEndTheirParcel := by
  unfold Obligations.MalformedInstructionsEndTheirParcel
  simp only [exec_malformedInstruction]
  refine ⟨fun i s w g t hi => ?issue, fun s w t word ht hc => ⟨fetch_misaligned ht hc,
    fun b ha htr => fetch_fails ht hc ha (devRead_fails (range_fails (by decide) htr)),
    fun tier a b ha htr hs => fetch_fails ht hc ha (devRead_unsound (fetch_range ha htr) hs), fun tier a ha htr hs => ?word⟩⟩
  case issue =>
    obtain ⟨body, hexec, -⟩ := exec_issuesGuarded hi s
    rw [hexec]
    exact ⟨fun ht hc he => issue_malformed ht hc (.inl he), fun hnone => issue_stays fun u hu => by simp [hnone] at hu,
      fun ht hc => issue_stays fun u hu => by rw [ht] at hu; cases hu; exact hc⟩
  case word =>
    have hword := fetch_decides (word := word) ht hc ha (devRead_single (fetch_range ha htr) hs)
    exact ⟨fun hd => by rw [hd] at hword; exact hword, fun i hd => by rw [hd] at hword; exact hword⟩

end Sys2Proof
end

section
/-! SUPPORT. Counted instructions, predicates and operations across lanes (04_selod_isa.md R91, R93, R98, R101, Tables 4.8 and 4.9;
08_numerics.md R224, R238, R239). -/

namespace Sys2Proof.Machine

open Sys2Proof

/-! ### What is counted (R238, R239) -/

theorem countLanes_eq (t : Task) (g : Guard) (p : Nat → Bool) : t.countLanes g p = admitted t g p :=
  List.countP_eq_length_filter.symm

/-- The registers of a context after a count. -/
def counted (ctx : Nat) (c : Counts) (s : State) : State := s.modRegs ctx fun r =>
  { r with sat := satAdd top48 r.sat c.sat, nonfinite := satAdd top48 r.nonfinite c.nonfin }

/-- The parcel has met a non-finite result. -/
def noted (ctx : Nat) (h : W32) (s : State) : State := s.modParcel ctx h fun p => { p with nonfinite := true }

section
variable {ctx : Nat} {h : W32} {die : Nat} {c : Counts} {s : State}

theorem counted_parcel : (counted ctx c s).parcel ctx h = s.parcel ctx h := by
  simp [counted, State.parcel, State.modRegs]

theorem counted_regs : ((counted ctx c s).ctx ctx).regs = { (s.ctx ctx).regs with
    sat := min (2 ^ 48 - 1) ((s.ctx ctx).regs.sat + c.sat)
    nonfinite := min (2 ^ 48 - 1) ((s.ctx ctx).regs.nonfinite + c.nonfin) } := by
  simp [counted, State.modRegs, satAdd, top48]

theorem noted_regs : ((noted ctx h s).ctx ctx).regs = (s.ctx ctx).regs := by simp [noted, State.modParcel]

/-- Only saturations are counted. -/
theorem countNum_finite (hs : c.sat ≠ 0) (hn : c.nonfin = 0) : countNum ctx h die c s = counted ctx c s := by
  simp [countNum, hs, hn, counted]

/-- The first non-finite result of a parcel raises an event; a later one, or one of no parcel, is only counted. -/
theorem countNum_nonfinite (hn : c.nonfin ≠ 0) : countNum ctx h die c s =
    if (match s.parcel ctx h with | some p => !p.nonfinite | none => false) then
      numericEvent ctx h die 0 6 (noted ctx h (counted ctx c s))
    else noted ctx h (counted ctx c s) := by
  have hp : (counted ctx c s).parcel ctx h = s.parcel ctx h := counted_parcel
  unfold counted at hp
  simp only [countNum, hn, decide_false, Bool.and_false, Bool.false_eq_true, if_false, hp]
  cases s.parcel ctx h with
  | none => rfl
  | some p => cases hf : p.nonfinite <;> simp [hf, noted, counted]

end

/-- What a count leaves alone, and what it adds to. -/
structure Counted (s s' : State) (ctx : Nat) (c : Counts) (raises : Bool) : Prop where
  tasks : s'.tasks = s.tasks
  rest : { s' with ctxs := s.ctxs, log := s.log, dies := s.dies, freeCount := s.freeCount } = s
  others : ∀ j, j ≠ ctx → s'.ctx j = s.ctx j
  quiet : c.sat = 0 → c.nonfin = 0 → s' = s
  regs : c.sat ≠ 0 ∨ c.nonfin ≠ 0 → (s'.ctx ctx).regs = { (s.ctx ctx).regs with
    sat := min (2 ^ 48 - 1) ((s.ctx ctx).regs.sat + c.sat)
    nonfinite := min (2 ^ 48 - 1) ((s.ctx ctx).regs.nonfinite + c.nonfin) }
  event : c.nonfin ≠ 0 → s'.log.classes.get 0 3 =
    if raises then min (2 ^ 48 - 1) (s.log.classes.get 0 3 + 1) else s.log.classes.get 0 3

theorem countNum_counted (ctx : Nat) (h : W32) (die : Nat) (c : Counts) (s : State) :
    Counted s (countNum ctx h die c s) ctx c
      (match s.parcel ctx h with | some p => !p.nonfinite | none => false) := by
  have hctx : ∀ j, j ≠ ctx → (counted ctx c s).ctx j = s.ctx j := fun j hj => State.ctx_modCtx_other s hj _
  have hnoted : ∀ j, j ≠ ctx → (noted ctx h (counted ctx c s)).ctx j = s.ctx j := fun j hj =>
    (State.ctx_modCtx_other _ hj _).trans (hctx j hj)
  by_cases hn : c.nonfin = 0
  · by_cases hs : c.sat = 0
    · have hsame : countNum ctx h die c s = s := by simp [countNum, hs, hn]
      rw [hsame]
      exact ⟨rfl, rfl, fun _ _ => rfl, fun _ _ => rfl, fun hc => absurd hc (by simp [hs, hn]), fun h1 => absurd hn h1⟩
    · rw [countNum_finite hs hn]
      exact ⟨rfl, rfl, hctx, fun h1 => absurd h1 hs, fun _ => counted_regs, fun h1 => absurd hn h1⟩
  · rw [countNum_nonfinite hn]
    generalize (match s.parcel ctx h with | some p => !p.nonfinite | none => false) = raises
    cases raises with
    | true => exact ⟨rfl, rfl, hnoted, fun _ h1 => absurd h1 hn, fun _ => noted_regs.trans counted_regs,
        fun _ => numericEvent_count _ _ _ _ _ _⟩
    | false => exact ⟨rfl, rfl, hnoted, fun _ h1 => absurd h1 hn, fun _ => noted_regs.trans counted_regs, fun _ => rfl⟩

section
variable {s : State} {w : Who} {t t' : Task} {c : Counts}

/-- An instruction that counts conversions changes its task and counts them. -/
theorem countNum_countsTask : CountsTask s (countNum t.ctx t.hostSeq (Who.die w) c ((issued w s).setTask w t')) w t t' c := by
  have hcount := countNum_counted t.ctx t.hostSeq (Who.die w) c ((issued w s).setTask w t')
  have htask : ∀ x : Who, (countNum t.ctx t.hostSeq (Who.die w) c ((issued w s).setTask w t')).task x
      = ((issued w s).setTask w t').task x := fun x => by simp only [State.task, hcount.tasks]
  refine ⟨(htask w).trans (State.task_setTask_same _ w t'), fun x hx => ?_,
    congrArg (fun x : State => { x with tasks := s.tasks }) hcount.rest, hcount.others, fun h1 h2 => ?_, hcount.regs, hcount.event⟩
  · rw [htask, State.task_setTask_other _ hx, issued_task]
  · rw [hcount.quiet h1 h2]
    exact (becomes_setTask s w t').2

theorem countedOp_counts {ok : Task → Bool} {f : Task → Task × Counts} {p : Task → Prop} (h : Ready s w t)
    (hok : ok t = true) (hc : (f t).2 = c) (hp : p (f t).1.advance) : RunsCounted (countedOp w ok f s) s w t c p :=
  ⟨_, _, countedOp_ready h hok, hc ▸ countNum_countsTask, hp⟩

/-- A vector FP32 instruction writes the lanes that the guard admits, and counts every non-finite result among them. -/
theorem laneFp_counts {g : Guard} {vd : Fin 32} {f : Task → Nat → W32} {v : Nat → W32} (h : Ready s w t) (hv : ∀ l, v l = f t l) :
    RunsCounted (laneFp w g vd f s) s w t ⟨0, admitted t g fun l => nonfin (v l)⟩ (WritesLanes t g vd v) := by
  obtain rfl : v = f t := funext hv
  exact countedOp_counts h rfl (congrArg _ (countLanes_eq t g _)) (writesLanes_setVec t g vd _)

end

end Sys2Proof.Machine
end

section

namespace Sys2Proof

open Machine

/-- Settles O6: each instruction is the lane one of its integer operation (`laneOp_writes`). -/
theorem vectorIntegerResults : Obligations.VectorIntegerResults := by
  unfold Obligations.VectorIntegerResults
  refine ⟨fun op hop s w t g vd va vb h => ?_, fun s w t g vd va h => laneOp_writes h fun l => congrArg _ (popCount_eq _)⟩
  suffices ∃ f, exec (op.1 w g vd va vb) s = laneOp w g anyLevel vd f s ∧ ∀ l, f t l = op.2 (t.lane va l) (t.lane vb l) by
    obtain ⟨f, hexec, hf⟩ := this
    exact hexec ▸ laneOp_writes h hf
  revert op
  simp only [List.forall_mem_cons]
  exact ⟨⟨_, rfl, fun _ => rfl⟩, ⟨_, rfl, fun _ => rfl⟩, ⟨_, rfl, fun _ => rfl⟩, ⟨_, rfl, fun _ => rfl⟩, ⟨_, rfl, fun _ => rfl⟩,
    ⟨_, rfl, fun _ => rfl⟩, ⟨_, rfl, fun _ => rfl⟩, ⟨_, rfl, fun _ => rfl⟩, ⟨_, rfl, fun _ => rfl⟩, ⟨_, rfl, fun _ => rfl⟩,
    ⟨_, rfl, fun _ => aluMin_eq _ _⟩, ⟨_, rfl, fun _ => aluMax_eq _ _⟩, ⟨_, rfl, fun _ => aluSlt_eq _ _⟩,
    ⟨_, rfl, fun _ => aluSltu_eq _ _⟩, ⟨_, rfl, fun _ => aluSeq_eq _ _⟩, List.forall_mem_nil _⟩

/-- Settles O7: each instruction is the vector FP32 one of its operation (`laneFp_counts`). -/
theorem vectorFloatResults : Obligations.VectorFloatResults := by
  unfold Obligations.VectorFloatResults
  refine ⟨fun op hop s w t g vd va vb v h hv => ?two, fun op hop s w t g vd va v h hv => ?one,
    fun s w t g vd va vb vc pc v h =>
      ⟨laneFp_counts (f := fun x l => ffma (x.lane va l) (x.lane vb l) (x.lane vc l)) h,
      laneFp_counts (f := fun x l => if (x.pred pc).getLsbD l then x.lane va l else x.lane vb l) h⟩⟩
  case two =>
    suffices ∃ f, exec (op.1 w g vd va vb) s = laneFp w g vd f s ∧ ∀ l, f t l = op.2 (t.lane va l) (t.lane vb l) by
      obtain ⟨f, hexec, hf⟩ := this
      exact hexec ▸ laneFp_counts h fun l => (hv l).trans (hf l).symm
    clear hv
    revert op
    simp only [List.forall_mem_cons]
    exact ⟨⟨_, rfl, fun _ => rfl⟩, ⟨_, rfl, fun _ => rfl⟩, ⟨_, rfl, fun _ => rfl⟩, ⟨_, rfl, fun _ => rfl⟩,
      ⟨_, rfl, fun _ => rfl⟩, List.forall_mem_nil _⟩
  case one =>
    suffices ∃ f, exec (op.1 w g vd va) s = laneFp w g vd f s ∧ ∀ l, f t l = op.2 (t.lane va l) by
      obtain ⟨f, hexec, hf⟩ := this
      exact hexec ▸ laneFp_counts h fun l => (hv l).trans (hf l).symm
    clear hv
    revert op
    simp only [List.forall_mem_cons]
    exact ⟨⟨_, rfl, fun _ => rfl⟩, ⟨_, rfl, fun _ => rfl⟩, ⟨_, rfl, fun _ => rfl⟩, ⟨_, rfl, fun _ => rfl⟩,
      ⟨_, rfl, fun _ => rfl⟩, ⟨_, rfl, fun _ => rfl⟩, List.forall_mem_nil _⟩

end Sys2Proof
end

section
/-! SUPPORT. The bits of predicates (04_selod_isa.md R91, R93, R98). -/

namespace Sys2Proof.Machine

open Sys2Proof

theorem getLsbD_laneMask {n : Nat} (hn : n ≤ 64) (l : Nat) : (laneMask n).getLsbD l = decide (l < n) := by
  simp only [laneMask, BitVec.getLsbD_ofNat, Nat.testBit_two_pow_sub_one]
  grind

/-- A number that is written bit by bit stays below the next bit. -/
theorem sum_two_pow_lt (p : Nat → Bool) (n : Nat) : ((List.range n).map fun l => if p l then 2 ^ l else 0).sum < 2 ^ n := by
  induction n with
  | zero => exact Nat.one_pos
  | succ n ih =>
    simp only [List.range_succ, List.map_append, List.sum_append, List.map_cons, List.map_nil, List.sum_singleton, Nat.pow_succ]
    split <;> omega

theorem testBit_sum_two_pow (p : Nat → Bool) {n l : Nat} (hl : l < n) :
    ((List.range n).map fun l => if p l then 2 ^ l else 0).sum.testBit l = p l := by
  induction n with
  | zero => omega
  | succ n ih =>
    simp only [List.range_succ, List.map_append, List.sum_append, List.map_cons, List.map_nil, List.sum_singleton]
    by_cases hln : l = n
    · subst hln
      have hclear := Nat.testBit_lt_two_pow (sum_two_pow_lt p l)
      cases hp : p l with
      | true => rw [if_pos rfl, Nat.add_comm, Nat.testBit_two_pow_add_eq, hclear]; rfl
      | false => simpa using hclear
    · have hlt : l < n := by omega
      cases hp : p n with
      | true => rw [if_pos rfl, Nat.add_comm, Nat.testBit_two_pow_add_gt hlt, ih hlt]
      | false => simpa using ih hlt

theorem getLsbD_maskOf {n l : Nat} (hn : n ≤ 64) (hl : l < n) (p : Nat → Bool) : (maskOf n p).getLsbD l = p l := by
  rw [maskOf, BitVec.getLsbD_ofNat, testBit_sum_two_pow p hl]
  simp only [show l < 64 by omega, decide_true, Bool.true_and]

/-- The lowest set bit is the one below which none is set. -/
theorem getLsbD_lowestBit (x : Word) {l : Nat} (hl : l < 64) :
    (lowestBit x).getLsbD l = (x.getLsbD l && (List.range l).all fun j => !x.getLsbD j) := by
  rw [lowestBit, show (0 : Word) - x = -x from BitVec.zero_sub x, BitVec.getLsbD_and, BitVec.getLsbD_neg]
  cases hx : x.getLsbD l with
  | false => rfl
  | true =>
    simp only [hl, decide_true, Bool.true_and, Bool.true_bne]
    rw [Bool.eq_iff_iff]
    simp

section
variable (t : Task) (g : Guard) (p : Fin 8) (l : Nat)

theorem Task.getLsbD_pred_high {l : Nat} (hl : t.lanes ≤ l) : (t.pred p).getLsbD l = false := by
  unfold Task.pred
  split
  · simp [getLsbD_laneMask t.lanes_le, hl]
  · simp [getLsbD_laneMask t.lanes_le, hl]

theorem Task.guardBit_high {l : Nat} (hl : t.lanes ≤ l) : t.guardBit g l = false := by simp [Task.guardBit, hl]

theorem Task.getLsbD_guardMask : (t.guardMask g).getLsbD l = t.guardBit g l := by
  have hL := t.lanes_le
  by_cases hl : l < t.lanes
  · simp [Task.guardMask, Task.guardBit, hl]
    cases g.sense <;> simp [getLsbD_laneMask hL, hl, show l < 64 by omega]
  · rw [t.guardBit_high g (by omega)]
    have hp := t.getLsbD_pred_high g.pred (show t.lanes ≤ l by omega)
    cases hs : g.sense <;> simp [Task.guardMask, hs, getLsbD_laneMask hL, hl, hp]

/-- What a predicate reads as after a write. -/
theorem Task.getLsbD_pred_setPred_same (v : Word) {l : Nat} (hl : l < t.lanes) :
    ((t.setPred g p v).pred p).getLsbD l = if p ≠ 0 ∧ t.guardBit g l = true then v.getLsbD l else (t.pred p).getLsbD l := by
  have hL := t.lanes_le
  by_cases hp : p = 0
  · simp [hp, Task.setPred]
  · have hwritten : (t.setPred g p v).pred p =
        ((v &&& t.guardMask g) ||| (t.pred p &&& ~~~ t.guardMask g)) &&& laneMask t.lanes := by
      simp [Task.setPred, hp, Task.pred, Task.lanes]
    simp only [hwritten, BitVec.getLsbD_and, BitVec.getLsbD_or, BitVec.getLsbD_not, t.getLsbD_guardMask, getLsbD_laneMask hL, hl]
    cases t.guardBit g l <;> simp [hp, show l < 64 by omega]

theorem Task.pred_setPred_other {q : Fin 8} (h : q ≠ p) (v : Word) : (t.setPred g p v).pred q = t.pred q := by
  have hv : q.val ≠ p.val := fun e => h (Fin.ext e)
  have hget : ∀ x : Word, (t.preds.put p.val x).get 0 q.val = t.preds.get 0 q.val := fun x => Tab.get_put_other 0 _ _ hv
  unfold Task.setPred
  split
  · rfl
  · simp only [Task.pred, hget]
    rfl

theorem writesPred_setPred {v : Word} {f : Nat → Bool} (hv : ∀ l, l < t.lanes → v.getLsbD l = f l) :
    WritesPred t g p f (t.setPred g p v).advance := by
  refine ⟨fun l hl => ?_, fun l hl => ?_, fun q hq => t.pred_setPred_other g p hq v, ?_⟩
  · rw [← hv l hl]
    exact t.getLsbD_pred_setPred_same g p v hl
  · have hlanes : (t.setPred g p v).lanes = t.lanes := Task.lanes_of_width (by unfold Task.setPred; split <;> rfl)
    exact (t.setPred g p v).getLsbD_pred_high p (hlanes ▸ hl)
  · unfold Task.setPred
    split <;> rfl

/-- PCOUNT counts the lanes that the guard admits. -/
theorem popCount_guarded : popCount (t.pred p &&& t.guardMask g) = admitted t g fun l => (t.pred p).getLsbD l := by
  have hsplit : List.range 64 = List.range t.lanes ++ (List.range (64 - t.lanes)).map (t.lanes + ·) := by
    rw [← List.range_add, Nat.add_sub_of_le t.lanes_le]
  have hhigh : ((List.range (64 - t.lanes)).map (t.lanes + ·)).countP
      (fun l => t.guardBit g l && (t.pred p).getLsbD l) = 0 :=
    List.countP_eq_zero.mpr fun l hl => by
      obtain ⟨j, -, rfl⟩ := List.mem_map.mp hl
      simp [t.guardBit_high g (Nat.le_add_right _ j)]
  simp only [popCount_eq, admitted, hsplit, List.countP_append, BitVec.getLsbD_and, t.getLsbD_guardMask,
    Bool.and_comm ((t.pred p).getLsbD _), hhigh, Nat.add_zero]

end

/-- A predicate instruction writes the bits of pd that the guard admits. -/
theorem predOp_writes {s : State} {w : Who} {t : Task} {g : Guard} {pd : Fin 8} {f : Task → Word} {v : Nat → Bool}
    (h : Ready s w t) (hv : ∀ l, l < t.lanes → (f t).getLsbD l = v l) : RunsTask (predOp w g pd f s) s w (WritesPred t g pd v) :=
  runsTask_onTask h rfl (writesPred_setPred t g pd hv)

/-- An instruction that writes a scalar register whatever its guard. -/
theorem onTask_writesScalar {s : State} {w : Who} {t : Task} {rd : Fin 64} {f : Task → Word} {v : Word} (h : Ready s w t)
    (hv : f t = v) : RunsTask (onTask w anyLevel (fun x => x.setS rd (f x)) s) s w (WritesScalar t rd v) :=
  runsTask_onTask h rfl (hv ▸ writesScalar_setS t rd (f t))

/-! ### Operations across lanes (R93, R101) -/

theorem maxOf_map (f : Nat → W32) (l : Nat) (r : List Nat) :
    maxOf ((l :: r).map f) = r.foldl (fun a j => fmax a (f j)) (fmax (f l) (f l)) := List.foldl_map

theorem nonfin_maxOf_nil : b2n (nonfin (maxOf [])) = 1 := by decide

/-- A reduction writes a scalar register and counts its result. -/
theorem countedOp_writesScalar {s : State} {w : Who} {t : Task} {rd : Fin 64} {f : Task → W32} {v : W32} (h : Ready s w t)
    (hv : f t = v) :
    RunsCounted (countedOp w anyLevel (fun x => (x.setS rd ((f x).zeroExtend 64), ⟨0, b2n (nonfin (f x))⟩)) s) s w t
      ⟨0, if nonfin v then 1 else 0⟩ (WritesScalar t rd (v.zeroExtend 64)) :=
  countedOp_counts h rfl (by rw [hv]; rfl) (hv ▸ writesScalar_setS t rd _)

end Sys2Proof.Machine
end

section

namespace Sys2Proof

open Machine

/-- Settles O8: each instruction is the predicate one of its bits (`predOp_writes`), or reads the bits under the guard's mask. -/
theorem predicateResults : Obligations.PredicateResults := by
  unfold Obligations.PredicateResults
  refine ⟨fun op hop s w t g pd va vb h => ?compare, fun op hop s w t g pd pa pb h => ?logic,
    fun s w t g pd pa rd ra h => ⟨?pnot, predOp_writes h fun _ _ => rfl, ?pfirst, ?pcount, ?ptos⟩⟩
  case compare =>
    suffices ∃ p : Task → Nat → Bool, exec (op.1 w g pd va vb) s = predOp w g pd (fun x => maskOf x.lanes (p x)) s
        ∧ ∀ l, p t l = op.2 (f32 (t.lane va l)) (f32 (t.lane vb l)) by
      obtain ⟨p, hexec, hp⟩ := this
      exact hexec ▸ predOp_writes h fun l hl => (getLsbD_maskOf t.lanes_le hl _).trans (hp l)
    revert op
    simp only [List.forall_mem_cons]
    exact ⟨⟨_, rfl, fun _ => rfl⟩, ⟨_, rfl, fun _ => rfl⟩, List.forall_mem_nil _⟩
  case logic =>
    suffices ∃ f, exec (op.1 w g pd pa pb) s = predOp w g pd f s
        ∧ ∀ l, (f t).getLsbD l = op.2 ((t.pred pa).getLsbD l) ((t.pred pb).getLsbD l) by
      obtain ⟨f, hexec, hf⟩ := this
      exact hexec ▸ predOp_writes h fun l _ => hf l
    revert op
    simp only [List.forall_mem_cons]
    exact ⟨⟨_, rfl, fun _ => BitVec.getLsbD_and⟩, ⟨_, rfl, fun _ => BitVec.getLsbD_or⟩, ⟨_, rfl, fun _ => BitVec.getLsbD_xor⟩,
      List.forall_mem_nil _⟩
  case pnot =>
    refine predOp_writes h fun l hl => ?_
    have hl64 : l < 64 := by have := t.lanes_le; omega
    rw [BitVec.getLsbD_not, decide_eq_true hl64, Bool.true_and]
  case pfirst => exact predOp_writes h fun l hl => getLsbD_lowestBit _ (by have := t.lanes_le; omega)
  case pcount => exact onTask_writesScalar h (congrArg _ (popCount_guarded t g pa))
  case ptos =>
    exact ⟨_, fun l _ => (BitVec.getLsbD_and).trans (congrArg _ (t.getLsbD_guardMask g l)), onTask_writesScalar h rfl⟩

/-- Settles O9: lane instructions (`laneOp_writes`), and reductions to a scalar register (`countedOp_writesScalar`). -/
theorem laneOperationResults : Obligations.LaneOperationResults := by
  unfold Obligations.LaneOperationResults
  intro s w t g vd va vb rd ra rb h
  refine ⟨laneOp_writes h fun _ => rfl, laneOp_writes h fun _ => rfl, laneOp_writes h fun _ => List.foldl_map, fun hin => ?_,
    fun hout => ?_, onTask_writesScalar h ?_, fun v hv => ?_, fun v l r hlanes hv => ?_, fun hlanes => ?_⟩
  · refine runsTask_onTask h rfl ?_
    simp only [hin, if_true]
    exact writesScalar_setS t rd _
  · refine runsTask_onTask h rfl ?_
    simp only [hout, Bool.false_eq_true, if_false]
    exact goesTo_advance t
  · simp only [Task.vecOr, List.map_map, Function.comp_def, apply_ite BitVec.toInt]
    rfl
  · exact countedOp_writesScalar (f := fun x => treeSum 6 (x.vecOr g va 0x80000000)) h hv.symm
  · refine countedOp_writesScalar (f := fun x => maxOf (((List.range x.lanes).filter fun l => x.guardBit g l).map (x.lane va))) h ?_
    rw [hlanes, maxOf_map, hv]
  · refine countedOp_counts h rfl ?_ ?_
    · simp only [hlanes, List.map_nil, nonfin_maxOf_nil]
    · simp only [hlanes]; exact writesScalar_setS t rd _

end Sys2Proof
end

section
/-! SUPPORT. Loads and stores of a task in device memory (04_selod_isa.md Tables 4.7 and 4.11, R102, R105; 11_memory_tiers.md R297 to
R303; 14_failures_recovery.md R424, R437). -/

namespace Sys2Proof.Machine

open Sys2Proof

/-! ### The outcome of a guarded instruction -/

section
variable {s : State} {w : Who} {t : Task} {g : Guard} {ok : Task → Bool} {f : Task → State → Except Bad State}

/-- One that meets a reason to end its parcel ends it. -/
theorem guarded_endsParcel {b : Bad} (h : Ready s w t) (hok : ok t = true) (hg : t.acts g = true)
    (hf : f t ((issued w s).setTask w t.advance) = .error b) : EndsParcel (guarded w g ok f s) s w t b := by
  by_cases hb : b = .wait
  · subst hb
    unfold guarded EndsParcel
    rw [issue_ready h hok]
    simp [hg, hf]
  · exact (guarded_fails h hok hg hf hb).trans (by rw [if_neg hb]; rfl)

theorem TaskBecomes.setTask {s' : State} {t' : Task} (h : TaskBecomes s s' w t') (u : Task) : TaskBecomes s (s'.setTask w u) w u := by
  obtain ⟨-, hothers, hrest⟩ := h
  exact ⟨State.task_setTask_same _ w u, fun x hx => (State.task_setTask_other _ hx u).trans (hothers x hx), hrest⟩

/-- One that changes its own task alone. -/
theorem runsTask_guarded {u : Task → Task} {p : Task → Prop} (h : Ready s w t) (hok : ok t = true) (hg : t.acts g = true)
    (hf : f t ((issued w s).setTask w t.advance) = .ok (((issued w s).setTask w t.advance).modTask w u)) (hp : p (u t.advance)) :
    RunsTask (guarded w g ok f s) s w p := by
  refine ⟨_, _, guarded_ready h hok hg hf, ?_, hp⟩
  rw [State.modTask_of_task u (State.task_setTask_same _ w _)]
  exact (becomes_setTask s w _).setTask _

end

/-! ### Addresses outside the windows -/

section
variable {s : State} {ctx : Nat} {u : Use} {a : Nat}

theorem windowOf_of_mem {r : Tier × Nat} (h : translateMem s ctx u a = .ok r) : windowOf s ctx u a = none := by
  unfold windowOf
  split
  next l rec hwalk =>
    have hrow : translate s ctx u a = .ok (.row rec (a / 2 ^ l * 2 ^ l) a) := by unfold translate; rw [hwalk]
    have hfault : translateMem s ctx u a = .error (.violation u.access 2 a) := bind_ok hrow
    rw [h] at hfault
    cases hfault
  next => rfl

theorem windowOf_of_error {e : Bad} (h : walkFrom s ctx u a = .error e) : windowOf s ctx u a = none := by
  unfold windowOf
  rw [h]

theorem translateMem_of_error {e : Bad} (h : walkFrom s ctx u a = .error e) : translateMem s ctx u a = .error e := by
  have htranslate : translate s ctx u a = .error e := by unfold translate; rw [h]
  exact bind_error htranslate

theorem alignCheck_ok {n access : Nat} (ha : a % n = 0) : alignCheck access a n = .ok () := if_neg (not_not.mpr ha)
theorem alignCheck_fails {n access : Nat} (ha : a % n ≠ 0) : alignCheck access a n = .error (.violation access 1 a) := if_pos ha

end

/-! ### Accesses of a task that moves on -/

section
variable (s : State) (w : Who) (t : Task) (ctx : Nat) (u : Use) (a n : Nat)

theorem windowOf_moved : windowOf ((issued w s).setTask w t) ctx u a = windowOf s ctx u a := by
  rw [← windowOf_bare, bare_setTask, bare_issued, windowOf_bare]

theorem devRead_moved : devRead ((issued w s).setTask w t) ctx u a n = devRead s ctx u a n := by
  rw [← devRead_bare, bare_setTask, bare_issued, devRead_bare]

theorem range_moved : range ((issued w s).setTask w t) ctx u a n = range s ctx u a n := by
  rw [← range_bare, bare_setTask, bare_issued, range_bare]

theorem checkClocks_moved (ps : List Piece) : checkClocks ((issued w s).setTask w t) a ps = checkClocks s a ps := by
  rw [← checkClocks_bare, bare_setTask, bare_issued, checkClocks_bare]

end

/-! ### Loads -/

section
variable {s : State} {w : Who} {t : Task} {rd : Fin 64} {a n : Nat}

theorem devLoad_memory {bs : List Byte} (hw : windowOf s t.ctx (Use.of 0 nearFarHost) a = none)
    (hr : devRead s t.ctx (Use.of 0 nearFarHost) a n = .ok bs) :
    devLoad w t rd a n s = .ok (s.modTask w fun x => x.setS rd (BitVec.ofNat 64 (leNat bs))) := by
  unfold devLoad
  simp only [hw]
  exact bind_ok hr

theorem devLoad_fails {e : Bad} (hw : windowOf s t.ctx (Use.of 0 nearFarHost) a = none)
    (hr : devRead s t.ctx (Use.of 0 nearFarHost) a n = .error e) : devLoad w t rd a n s = .error e := by
  unfold devLoad
  simp only [hw]
  exact bind_error hr

end

section
variable {s : State} {w : Who} {t : Task} {g : Guard} {rd ra : Fin 64} {imm : W32} {n : Nat}

theorem loadOp_reads {bs : List Byte} (h : Ready s w t) (hg : t.acts g = true) (ha : t.addr ra imm % n = 0)
    (hw : windowOf s t.ctx (Use.of 0 nearFarHost) (t.addr ra imm) = none)
    (hr : devRead s t.ctx (Use.of 0 nearFarHost) (t.addr ra imm) n = .ok bs) :
    RunsTask (loadOp w g rd ra imm n s) s w (WritesScalar t rd (BitVec.ofNat 64 (leNat bs))) :=
  runsTask_guarded h rfl hg ((bind_ok (alignCheck_ok ha)).trans
    (devLoad_memory ((windowOf_moved ..).trans hw) ((devRead_moved ..).trans hr))) (writesScalar_setS t rd _)

theorem loadOp_misaligned (h : Ready s w t) (hg : t.acts g = true) (ha : t.addr ra imm % n ≠ 0) :
    EndsParcel (loadOp w g rd ra imm n s) s w t (.violation 0 1 (t.addr ra imm)) :=
  guarded_endsParcel h rfl hg (bind_error (alignCheck_fails ha))

theorem loadOp_fails {e : Bad} (h : Ready s w t) (hg : t.acts g = true) (ha : t.addr ra imm % n = 0)
    (hw : windowOf s t.ctx (Use.of 0 nearFarHost) (t.addr ra imm) = none)
    (hr : devRead s t.ctx (Use.of 0 nearFarHost) (t.addr ra imm) n = .error e) :
    EndsParcel (loadOp w g rd ra imm n s) s w t e :=
  guarded_endsParcel h rfl hg ((bind_ok (alignCheck_ok ha)).trans
    (devLoad_fails ((windowOf_moved ..).trans hw) ((devRead_moved ..).trans hr)))

end

section
variable {s : State} {w : Who} {t : Task} {g : Guard} {d : Fin 16} {ra : Fin 64}

theorem execDld_reads {bs : List Byte} (h : Ready s w t) (hg : t.acts g = true) (ha : (t.sreg ra).toNat % 64 = 0)
    (hr : devRead s t.ctx (Use.of 0 nearFarHost) (t.sreg ra).toNat 64 = .ok bs) :
    RunsTask (execDld w g d ra s) s w fun t' => t'.desc d = BitVec.ofNat 512 (leNat bs) ∧ (∀ e, e ≠ d → t'.desc e = t.desc e)
      ∧ { t' with descs := t.descs } = { t with pc := t.pc + 8, status := .ready } :=
  runsTask_guarded h rfl hg ((bind_ok (alignCheck_ok ha)).trans (bind_ok ((devRead_moved ..).trans hr)))
    ⟨Task.desc_setDesc_same _ d _, fun _ he => Task.desc_setDesc_other _ he _, rfl⟩

theorem execDld_misaligned (h : Ready s w t) (hg : t.acts g = true) (ha : (t.sreg ra).toNat % 64 ≠ 0) :
    EndsParcel (execDld w g d ra s) s w t (.violation 0 1 (t.sreg ra).toNat) :=
  guarded_endsParcel h rfl hg (bind_error (alignCheck_fails ha))

theorem execDld_fails {e : Bad} (h : Ready s w t) (hg : t.acts g = true) (ha : (t.sreg ra).toNat % 64 = 0)
    (hr : devRead s t.ctx (Use.of 0 nearFarHost) (t.sreg ra).toNat 64 = .error e) : EndsParcel (execDld w g d ra s) s w t e :=
  guarded_endsParcel h rfl hg ((bind_ok (alignCheck_ok ha)).trans (bind_error ((devRead_moved ..).trans hr)))

end

/-! ### What a write notes (R88, R424, R437) -/

theorem freeTile_task (o : AsyncOp) (on : Nat → Nat → Bool) (s : State) {x : Who} (h : Who.key o.who ≠ Who.key x) :
    (freeTile o on s).task x = s.task x := by
  unfold freeTile State.modTask
  split
  · rfl
  · split
    next u hu => exact State.task_setTask_other s h.symm _
    next => rfl

/-- A write disturbs only the tiles of tasks with an MXM that no CWAIT has covered. -/
theorem spoil_task (own core : Option Nat) (t : Option Tier) (a n : Nat) (s : State) {x : Who}
    (h : ∀ o ∈ s.loose, Who.key o.who ≠ Who.key x) : (spoil own core t a n s).task x = s.task x := by
  have hfold : ∀ (l : List AsyncOp) (y : State), (∀ o ∈ l, Who.key o.who ≠ Who.key x) →
      (l.foldl (fun z o => freeTile o o.holds z) y).task x = y.task x := by
    intro l
    induction l with
    | nil => exact fun _ _ => rfl
    | cons o r ih =>
      exact fun y hl => (ih _ fun p hp => hl p (List.mem_cons_of_mem o hp)).trans (freeTile_task o _ y (hl o List.mem_cons_self))
  exact hfold _ _ fun o ho => h o (List.mem_of_mem_filter ho)

theorem rawWriteOf_task (own : Option Nat) (t : Tier) (a n : Nat) (cs : List Host.Cell) (s : State) {x : Who}
    (h : ∀ o ∈ s.loose, Who.key o.who ≠ Who.key x) : (rawWriteOf own t a n cs s).task x = s.task x :=
  spoil_task own none (some t) a n s h

/-- What a write notes of its page before it is made. -/
def noting (by' : Writer) (t : Tier) (frame : Nat) (s : State) : State :=
  if t = .host then noteWrote by'.ctx t frame s else touch by' t frame s

theorem noteWrote_notesFrame (c : Nat) (t : Tier) (frame : Nat) (s : State) : NotesFrame s (noteWrote c t frame s) c t frame := by
  refine ⟨fun j hj => noteWrote_other c t frame s hj, ?_⟩
  unfold noteWrote
  simp only [List.contains_iff_mem]
  split
  · rfl
  · exact State.ctx_modCtx_same s c _

/-- A note changes the frames that the writer's step writes, and the pages that its parcel has written. -/
theorem noting_eq (by' : Writer) {h : W32} (hh : by'.hostSeq = some h) (t : Tier) (frame : Nat) (s : State) :
    noting by' t frame s = { s with
      ctxs := (noteWrote by'.ctx t frame s).ctxs
      touched := if t = .host ∨ ⟨by'.ctx, h, t, frame⟩ ∈ s.touched then s.touched else s.touched ++ [⟨by'.ctx, h, t, frame⟩] } := by
  have hrest := noteWrote_rest by'.ctx t frame s
  have htouched : (noteWrote by'.ctx t frame s).touched = s.touched := (congrArg (fun x : State => x.touched) hrest :)
  unfold noting touch
  simp only [hh, List.contains_iff_mem, htouched]
  by_cases ht : t = .host
  · simp only [ht, if_true, true_or]
    exact ht ▸ hrest
  · by_cases hin : (⟨by'.ctx, h, t, frame⟩ : Touched) ∈ s.touched
    · simp only [ht, hin, if_false, if_true, or_true]
      exact hrest
    · simp only [ht, hin, if_false, or_self]
      exact congrArg (fun x : State => { x with touched := s.touched ++ [(⟨by'.ctx, h, t, frame⟩ : Touched)] }) hrest

/-- A frame that waits for no first-touch copy waits for none once a write has noted it. -/
theorem uncopiedOwner_noteWrote {s : State} (c : Nat) (t u : Tier) (frame f : Nat) (h : uncopiedOwner s u f = none) :
    uncopiedOwner (noteWrote c t frame s) u f = none := by
  rcases noteWrote_cases c t frame s with hs | hs
  · rwa [hs]
  · rw [hs]
    simp only [uncopiedOwner, Option.map_eq_none_iff, List.find?_eq_none] at h ⊢
    intro e he
    rcases Tab.mem_put he with rfl | hmem
    · cases hc : s.ctxs.find c with
      | some v =>
        have hv : s.ctx c = v := by rw [State.ctx, Tab.get_eq_find, hc]; rfl
        simpa only [hv] using h (c, v) (Tab.mem_of_find hc)
      | none =>
        have hv : s.ctx c = Ctx.reset := by rw [State.ctx, Tab.get_eq_find, hc]; rfl
        simp [hv, Ctx.reset, SealCtx.reset]
    · exact h e hmem

theorem uncopiedOwner_touch {s : State} (by' : Writer) (t u : Tier) (frame f : Nat) (h : uncopiedOwner s u f = none) :
    uncopiedOwner (touch by' t frame s) u f = none := by
  have hnote := uncopiedOwner_noteWrote by'.ctx t u frame f h
  unfold touch
  dsimp only
  split
  · exact hnote
  · split <;> exact hnote

/-- A write to a frame that waits for no first-touch copy is noted and made. -/
theorem memWrite_copied {s : State} (by' : Writer) {t : Tier} {a : Nat} (n : Nat) (cs : List Host.Cell) (ht : t ≠ .flash)
    (h : uncopiedOwner s t (a / 65536) = none) :
    memWrite by' t a n cs s = rawWriteOf by'.op t a n cs (noting by' t (a / 65536) s) := by
  have htouch := uncopiedOwner_touch by' t t (a / 65536) (a / 65536) h
  unfold memWrite noting
  cases t with
  | flash => exact absurd rfl ht
  | host => rfl
  | near | far => simp only [htouch]; rfl

/-! ### Stores -/

theorem movesOn_setTask {s y : State} {w : Who} {t' : Task} (htasks : ∀ x : Who, (y.task x).map Task.untiled
      = (((issued w s).setTask w t').task x).map Task.untiled)
    (hloose : ∀ x : Who, (∀ o ∈ s.loose, Who.key o.who ≠ Who.key x) → y.task x = ((issued w s).setTask w t').task x) :
    MovesOn s y w t' := by
  intro x
  have hwas : ((issued w s).setTask w t').task x = if Who.key x = Who.key w then some t' else s.task x := by
    split
    next hx => rw [State.task, hx]; exact State.task_setTask_same _ w t'
    next hx => rw [State.task_setTask_other _ hx, issued_task]
  exact ⟨hwas ▸ htasks x, fun h => hwas ▸ hloose x h⟩

/-- The write of a task's instruction does what a store does. -/
theorem memWrite_stores {s : State} {w : Who} {t' : Task} {by' : Writer} {t : Tier} {a n : Nat} {cs : List Host.Cell}
    {bs : List Byte} (hctx : by'.ctx = t'.ctx) (hseq : by'.hostSeq = some t'.hostSeq) (hwf : s.mem.wf = true)
    (hcs : Memory.wf cs = true) (hn : bs.length = n) (hbs : ∀ i, i < n → Memory.byte cs i = bs.getD i 0) (ht : t ≠ .flash)
    (hu : uncopiedOwner s t (a / 65536) = none) :
    StoresToTier s (memWrite by' t a n cs ((issued w s).setTask w t')) w t' t a bs := by
  have hframe := noteWrote_notesFrame by'.ctx t (a / 65536) ((issued w s).setTask w t')
  rw [memWrite_copied (s := (issued w s).setTask w t') by' n cs ht hu, noting_eq by' hseq]
  generalize hz : ({ (issued w s).setTask w t' with ctxs := _, touched := _ } : State) = z
  have hraw := rawWriteOf_writes by'.op t a n cs z
  have htask := fun x hx => rawWriteOf_task by'.op t a n cs z (x := x) hx
  generalize rawWriteOf by'.op t a n cs z = s' at hraw htask
  subst hz
  obtain ⟨hin, hout, hcis⟩ := hraw.writesTier hwf hcs hn hbs
  have hctxs : ∀ j, s'.ctx j = _ := fun j => (congrArg (fun x : State => x.ctx j) hraw.rest :)
  refine ⟨movesOn_setTask hraw.tasks htask, ⟨hin, hout, fun c k => (hcis c k).trans ?_⟩, ?_, hraw.ops, hraw.loose, ?_, ?_, ?_⟩
  · exact congrArg (Memory.byte · k) (issued_cis w s c)
  · exact (congrArg (fun x : State => { x with tasks := s.tasks, touched := s.touched, ctxs := s.ctxs }) hraw.rest :)
  · rw [← hctx]
    exact ⟨fun j hj => (hctxs j).trans (hframe.1 j hj), (hctxs _).trans hframe.2⟩
  · exact hn ▸ hraw.errs
  · rw [← hctx]
    exact (congrArg (fun x : State => x.touched) hraw.rest :)

/-- A write of a task in one piece, whose frame waits for no copy, is made and holds nothing back. -/
theorem devWrite_stores {s : State} {w : Who} {t : Task} {tier : Tier} {a b n : Nat} {bs : List Byte} (hn : bs.length = n)
    (hwf : s.memoriesOk = true) (hr : range s t.ctx useWrite a n = .ok [(tier, b, n)]) (hdown : rangeDown s tier b n = none)
    (ht : tier ≠ .flash) (hu : uncopiedOwner s tier (b / 65536) = none) (hheld : heldBy s w = false) :
    ∃ s', devWrite ((issued w s).setTask w t.advance) (t.writer w) useWrite a bs = .ok s' ∧ holdIfHeld w s' = s'
      ∧ StoresToTier s s' w t.advance tier b bs := by
  have hclocks : checkClocks s a [(tier, b, n)] = .ok () := by simp only [checkClocks, hdown]
  have hcells := cellsOf_wf 0 bs
  have hmem : s.mem.wf = true := (Bool.and_eq_true_iff.mp hwf).1
  have hstores := memWrite_stores (s := s) (w := w) (t' := t.advance) (by' := t.writer w) (t := tier) (a := b)
    (cs := Memory.slice (cellsOf 0 bs) 0 n) rfl rfl hmem (memory_slice_wf 0 n hcells) hn
    (fun i hi => (byte_slice hcells hi).trans (get_cellsOf 0 bs i)) ht hu
  obtain ⟨-, -, hrest, -⟩ := id hstores
  have hheld' : heldBy _ w = heldBy s w := (congrArg (fun x : State => heldBy x w) hrest :)
  refine ⟨_, devWrite_ok hn ((range_moved ..).trans hr) ((checkClocks_moved ..).trans hclocks), ?_, hstores⟩
  exact if_neg (Bool.eq_false_iff.mp (hheld'.trans hheld))

/-- One whose channel has no clock is a detected error (R47). -/
theorem devWrite_unclocked {s : State} {w : Who} {t : Task} {tier : Tier} {a b n i : Nat} {bs : List Byte} (hn : bs.length = n)
    (hr : range s t.ctx useWrite a n = .ok [(tier, b, n)]) (hdown : rangeDown s tier b n = some i) :
    devWrite ((issued w s).setTask w t.advance) (t.writer w) useWrite a bs = .error (.detected (clockErr i a)) := by
  have hclocks : checkClocks s a [(tier, b, n)] = .error (.detected (clockErr i a)) := by simp only [checkClocks, hdown]
  subst hn
  exact (bind_ok ((range_moved ..).trans hr)).trans (bind_error ((checkClocks_moved ..).trans hclocks))

theorem devWrite_fails {s : State} {w : Who} {t : Task} {a n : Nat} {bs : List Byte} {e : Bad} (hn : bs.length = n)
    (hr : range s t.ctx useWrite a n = .error e) :
    devWrite ((issued w s).setTask w t.advance) (t.writer w) useWrite a bs = .error e := by
  subst hn
  exact bind_error ((range_moved ..).trans hr)

section
variable {s s' : State} {w : Who} {t : Task} {g : Guard} {rd ra : Fin 64} {d : Fin 16} {imm : W32} {n : Nat} {e : Bad}

theorem devStore_memory {a : Nat} {bs : List Byte} (hw : windowOf s t.ctx useWrite a = none)
    (hwrite : devWrite s (t.writer w) useWrite a bs = .ok s') : devStore w t a bs s = .ok (holdIfHeld w s') := by
  unfold devStore
  simp only [hw]
  exact bind_ok hwrite

theorem devStore_fails {a : Nat} {bs : List Byte} (hw : windowOf s t.ctx useWrite a = none)
    (hwrite : devWrite s (t.writer w) useWrite a bs = .error e) : devStore w t a bs s = .error e := by
  unfold devStore
  simp only [hw]
  exact bind_error hwrite

theorem storeOp_ready (h : Ready s w t) (hg : t.acts g = true) (ha : t.addr ra imm % n = 0)
    (hw : windowOf s t.ctx useWrite (t.addr ra imm) = none)
    (hwrite : devWrite ((issued w s).setTask w t.advance) (t.writer w) useWrite (t.addr ra imm) (leBytes n (t.sreg rd).toNat) = .ok s') :
    storeOp w g rd ra imm n s = .next (holdIfHeld w s') :=
  guarded_ready h rfl hg ((bind_ok (alignCheck_ok ha)).trans (devStore_memory ((windowOf_moved ..).trans hw) hwrite))

theorem storeOp_misaligned (h : Ready s w t) (hg : t.acts g = true) (ha : t.addr ra imm % n ≠ 0) :
    EndsParcel (storeOp w g rd ra imm n s) s w t (.violation 1 1 (t.addr ra imm)) :=
  guarded_endsParcel h rfl hg (bind_error (alignCheck_fails ha))

theorem storeOp_fails (h : Ready s w t) (hg : t.acts g = true) (ha : t.addr ra imm % n = 0)
    (hw : windowOf s t.ctx useWrite (t.addr ra imm) = none)
    (hwrite : devWrite ((issued w s).setTask w t.advance) (t.writer w) useWrite (t.addr ra imm) (leBytes n (t.sreg rd).toNat) = .error e) :
    EndsParcel (storeOp w g rd ra imm n s) s w t e :=
  guarded_endsParcel h rfl hg ((bind_ok (alignCheck_ok ha)).trans (devStore_fails ((windowOf_moved ..).trans hw) hwrite))

theorem execDst_ready (h : Ready s w t) (hg : t.acts g = true) (ha : (t.sreg ra).toNat % 64 = 0)
    (hwrite : devWrite ((issued w s).setTask w t.advance) (t.writer w) useWrite (t.sreg ra).toNat (recBytes (t.desc d)) = .ok s') :
    execDst w g d ra s = .next (holdIfHeld w s') :=
  guarded_ready h rfl hg ((bind_ok (alignCheck_ok ha)).trans (bind_ok hwrite))

theorem execDst_misaligned (h : Ready s w t) (hg : t.acts g = true) (ha : (t.sreg ra).toNat % 64 ≠ 0) :
    EndsParcel (execDst w g d ra s) s w t (.violation 1 1 (t.sreg ra).toNat) :=
  guarded_endsParcel h rfl hg (bind_error (alignCheck_fails ha))

theorem execDst_fails (h : Ready s w t) (hg : t.acts g = true) (ha : (t.sreg ra).toNat % 64 = 0)
    (hwrite : devWrite ((issued w s).setTask w t.advance) (t.writer w) useWrite (t.sreg ra).toNat (recBytes (t.desc d)) = .error e) :
    EndsParcel (execDst w g d ra s) s w t e :=
  guarded_endsParcel h rfl hg ((bind_ok (alignCheck_ok ha)).trans (bind_error hwrite))

end

section
variable {s : State} {ctx : Nat} {a n b : Nat} {tier : Tier}

/-- An aligned access outside the flash tier is one piece. -/
theorem range_aligned {u : Use} (hn : n ∣ 65536) (ha : a % n = 0) (hflash : Tier.flash ∉ u.tiers)
    (h : translateMem s ctx u a = .ok (tier, b)) : range s ctx u a n = .ok [(tier, b, n)] :=
  range_single (Nat.pos_of_dvd_of_pos hn (by decide)) (aligned_fits hn ha) hflash h

theorem ne_flash_of_translateMem {u : Use} (hflash : Tier.flash ∉ u.tiers) (h : translateMem s ctx u a = .ok (tier, b)) :
    tier ≠ .flash := fun ht => hflash (ht ▸ (translateMem_reaches h).1)

end

end Sys2Proof.Machine
end

section

namespace Sys2Proof

open Machine

/-- Settles O10: a load's address lies in no window, so that it reads its one piece (`loadOp_reads`) or fails as that does. -/
theorem loadsReadDeviceMemory : Obligations.LoadsReadDeviceMemory := by
  unfold Obligations.LoadsReadDeviceMemory
  intro op hop s w t g rd ra imm a h hg ha
  have hop' : exec (op.1 w g rd ra imm) s = loadOp w g rd ra imm op.2 s ∧ op.2 ∣ 65536 := by
    revert op
    simp only [List.forall_mem_cons]
    exact ⟨⟨rfl, by decide⟩, ⟨rfl, by decide⟩, ⟨rfl, by decide⟩, ⟨rfl, by decide⟩, List.forall_mem_nil _⟩
  obtain ⟨hexec, hn⟩ := hop'
  obtain rfl : a = t.addr ra imm := ha
  rw [hexec]
  refine ⟨fun tier b hal htr => ?_, loadOp_misaligned h hg, fun e hal hwalk => ?_⟩
  · have hr := range_aligned hn hal (by decide) htr
    have hw := windowOf_of_mem htr
    exact ⟨fun hc => loadOp_reads h hg hal hw (devRead_single hr hc), fun e hc => loadOp_fails h hg hal hw (devRead_unsound hr hc)⟩
  · exact loadOp_fails h hg hal (windowOf_of_error hwalk)
      (devRead_fails (range_fails (Nat.pos_of_dvd_of_pos hn (by decide)) (translateMem_of_error hwalk)))

/-- Settles O11: a store's address lies in no window, so that it writes its one piece (`devWrite_stores`) or fails as that does. -/
theorem storesWriteDeviceMemory : Obligations.StoresWriteDeviceMemory := by
  unfold Obligations.StoresWriteDeviceMemory
  intro op hop s w t g rd ra imm a h hg ha hwf
  have hop' : exec (op.1 w g rd ra imm) s = storeOp w g rd ra imm op.2 s ∧ op.2 ∣ 65536 := by
    revert op
    simp only [List.forall_mem_cons]
    exact ⟨⟨rfl, by decide⟩, ⟨rfl, by decide⟩, ⟨rfl, by decide⟩, ⟨rfl, by decide⟩, List.forall_mem_nil _⟩
  obtain ⟨hexec, hn⟩ := hop'
  obtain rfl : a = t.addr ra imm := ha
  have hlen : (leBytes op.2 (t.sreg rd).toNat).length = op.2 := leBytes_length _ _
  rw [hexec]
  refine ⟨fun tier b hal htr => ?_, storeOp_misaligned h hg, fun e hal hwalk => ?_⟩
  · have hr := range_aligned hn hal (by decide) htr
    have hw := windowOf_of_mem htr
    refine ⟨fun hdown hu hheld => ?_, fun i hdown => storeOp_fails h hg hal hw (devWrite_unclocked hlen hr hdown)⟩
    obtain ⟨s', hwrite, hhold, hstores⟩ := devWrite_stores hlen hwf hr hdown (ne_flash_of_translateMem (by decide) htr) hu hheld
    exact ⟨s', hhold ▸ storeOp_ready h hg hal hw hwrite, hstores⟩
  · exact storeOp_fails h hg hal (windowOf_of_error hwalk) (devWrite_fails hlen
      (range_fails (Nat.pos_of_dvd_of_pos hn (by decide)) (translateMem_of_error hwalk)))

/-- Settles O12: DLD and DST are a load and a store of the 64 bytes of a descriptor register. -/
theorem descriptorMoves : Obligations.DescriptorMoves := by
  unfold Obligations.DescriptorMoves
  intro s w t g d ra a h hg ha
  obtain rfl : a = (t.sreg ra).toNat := ha
  have hdld : exec (.dld w g d ra) s = execDld w g d ra s := rfl
  have hdst : exec (.dst w g d ra) s = execDst w g d ra s := rfl
  have hlen : (recBytes (t.desc d)).length = 64 := recBytes_length _
  rw [hdld, hdst]
  refine ⟨fun tier b hal htr => ?load, fun tier b hal hwf htr => ?store, fun hal => ⟨execDld_misaligned h hg hal, execDst_misaligned h hg hal⟩,
    fun e hal htr => execDld_fails h hg hal (devRead_fails (range_fails (by decide) htr)),
    fun e hal htr => execDst_fails h hg hal (devWrite_fails hlen (range_fails (by decide) htr)), ?clear⟩
  case load =>
    have hr := range_aligned (by decide) hal (by decide) htr
    exact ⟨fun hc => execDld_reads h hg hal (devRead_single hr hc), fun e hc => execDld_fails h hg hal (devRead_unsound hr hc)⟩
  case store =>
    have hr := range_aligned (by decide) hal (by decide) htr
    refine ⟨fun hdown hu hheld => ?_, fun i hdown => execDst_fails h hg hal (devWrite_unclocked hlen hr hdown)⟩
    obtain ⟨s', hwrite, hhold, hstores⟩ := devWrite_stores hlen hwf hr hdown (ne_flash_of_translateMem (by decide) htr) hu hheld
    exact ⟨s', hhold ▸ execDst_ready h hg hal hwrite, hstores⟩
  case clear =>
    refine runsTask_onTask h rfl ?_
    rw [if_pos hg]
    exact ⟨Task.desc_setDesc_same t d 0, fun e he => Task.desc_setDesc_other t he 0, rfl⟩

end Sys2Proof
end

section
/-! SUPPORT. Loads and stores of a task in the cistern of its core (04_selod_isa.md Tables 4.7 and 4.9, R93, R99, R102;
11_memory_tiers.md R316). -/

namespace Sys2Proof.Machine

open Sys2Proof

/-! ### What a write to a cistern does -/

theorem core_cis_wf {s : State} (h : s.memoriesOk = true) (core : Nat) : Memory.wf (s.cis core) = true := by
  have hcores := (Bool.and_eq_true_iff.mp h).2
  rw [State.cis, State.core, Tab.get_eq_find]
  cases hf : s.cores.find core with
  | none => rfl
  | some c => exact List.all_eq_true.mp hcores _ (Tab.mem_of_find hf)

/-- The bytes of the cistern of a core read as `f` says, and nothing else changes but what goes with a write to it. -/
structure PutsInCistern (s s' : State) (core : Nat) (f : Nat → Byte) : Prop where
  bytes : ∀ k, s'.cisByte core k = f k
  wf : Memory.wf (s'.cis core) = true
  own : { s'.core core with cistern := [] } = { s.core core with cistern := [] }
  others : ∀ c, c ≠ core → s'.core c = s.core c
  ops : unspoiled s'.ops = unspoiled s.ops
  marks : CisternMarks s s' core
  tasks : ∀ x : Who, (s'.task x).map Task.untiled = (s.task x).map Task.untiled
  still : ∀ x : Who, (∀ o ∈ s.loose, Who.key o.who ≠ Who.key x) → s'.task x = s.task x
  rest : { s' with tasks := s.tasks, cores := s.cores, ops := s.ops, loose := s.loose, errs := s.errs, freeCount := s.freeCount } = s

theorem PutsInCistern.refl {s : State} {core : Nat} (h : Memory.wf (s.cis core) = true) :
    PutsInCistern s s core (s.cisByte core) :=
  ⟨fun _ => rfl, h, rfl, fun _ _ => rfl, rfl, ⟨.refl _, .refl _, fun _ he hne => absurd he hne⟩, fun _ => rfl, fun _ _ => rfl, rfl⟩

theorem mem_clearErrs {source g a n : Nat} {unit : Nat → Bool} {s : State} {e : Err} (he : e ∈ s.errs)
    (hne : e ∉ (clearErrs source unit g a n s).errs) : e.source = source ∧ unit e.unit = true := by
  by_contra hno
  refine hne (List.mem_filter.mpr ⟨he, ?_⟩)
  by_cases hs : e.source = source
  · have hu : unit e.unit = false := Bool.eq_false_iff.mpr fun hu => hno ⟨hs, hu⟩
    simp [hu]
  · simp [hs]

/-- Writes cells to a core's cistern. -/
def cisBlit (core a n : Nat) (cs : List Host.Cell) (s : State) : State :=
  (clearErrs 5 (· = core) 4 a n (spoil none (some core) none a n s)).modCore core fun c =>
    { c with cistern := Memory.blit c.cistern a n cs }

theorem cisPut_eq_blit (core a : Nat) (bs : List Byte) (s : State) : cisPut core a bs s = cisBlit core a bs.length (cellsOf 0 bs) s := rfl

/-- One more write, of cells. -/
theorem PutsInCistern.blit {s s' : State} {core n : Nat} {f : Nat → Byte} {cs : List Host.Cell} {bs : List Byte}
    (h : PutsInCistern s s' core f) (a : Nat) (hcs : Memory.wf cs = true) (hn : bs.length = n)
    (hbs : ∀ i, i < n → Memory.byte cs i = bs.getD i 0) :
    PutsInCistern s (cisBlit core a n cs s') core (bytesOver f a bs) := by
  have hspoil := spoil_spoils none (some core) none a n s'
  have hstill := fun x hx => spoil_task none (some core) none a n s' (x := x) hx
  unfold cisBlit
  generalize spoil none (some core) none a n s' = z at hspoil hstill
  have hcores : z.cores = s'.cores := (congrArg (fun x : State => x.cores) hspoil.rest :)
  have herrs : z.errs = s'.errs := (congrArg (fun x : State => x.errs) hspoil.rest :)
  have hcore : ∀ c, z.core c = s'.core c := fun c => by rw [State.core, State.core, hcores]
  have hsame : (State.modCore (clearErrs 5 (fun x => decide (x = core)) 4 a n z) core fun c =>
      { c with cistern := Memory.blit c.cistern a n cs }).core core
        = { s'.core core with cistern := Memory.blit (s'.cis core) a n cs } := by
    rw [State.core_modCore_same]
    exact congrArg (fun c : Core => { c with cistern := Memory.blit c.cistern a n cs }) (hcore core)
  have hcis := congrArg Core.cistern hsame
  obtain ⟨hloose, herrs', hcleared⟩ := h.marks
  refine ⟨fun k => ?bytes, ?wf, ?own, fun c hc => ?others, hspoil.ops.trans h.ops, ⟨hspoil.loose.trans hloose, ?errs, ?cleared⟩,
    fun x => (hspoil.tasks x).trans (h.tasks x), fun x hx => (hstill x fun o ho => hx o (hloose.subset ho)).trans (h.still x hx), ?rest⟩
  case bytes =>
    rw [State.cisByte, hcis, bytesOver]
    split
    next hk =>
      obtain ⟨j, rfl⟩ := Nat.exists_eq_add_of_le hk.1
      rw [Nat.add_sub_cancel_left]
      exact (byte_blit_inside h.wf hcs (by omega)).trans (hbs j (by omega))
    next hk => rw [← h.bytes k]; exact byte_blit_outside cs h.wf (by omega)
  case wf => rw [State.cis, hcis]; exact blit_wf a n cs h.wf
  case own => rw [hsame]; exact h.own
  case others => rw [State.core_modCore_other _ hc]; exact (hcore c).trans (h.others c hc)
  case errs =>
    have hfewer : (clearErrs 5 (fun x => decide (x = core)) 4 a n z).errs.Sublist z.errs := List.filter_sublist
    rw [herrs] at hfewer
    exact hfewer.trans herrs'
  case cleared =>
    intro e he hne
    by_cases hold : e ∈ s'.errs
    · obtain ⟨hsource, hunit⟩ := mem_clearErrs (source := 5) (g := 4) (a := a) (n := n)
        (unit := fun x => decide (x = core)) (s := z) (herrs ▸ hold) hne
      exact ⟨hsource, of_decide_eq_true hunit⟩
    · exact hcleared e he hold
  case rest =>
    have hrest := congrArg (fun x : State => { x with
      tasks := s.tasks, cores := s.cores, ops := s.ops, loose := s.loose, errs := s.errs, freeCount := s.freeCount }) hspoil.rest
    exact hrest.trans h.rest

theorem byte_cellsOf (bs : List Byte) (i : Nat) : Memory.byte (cellsOf 0 bs) i = bs.getD i 0 := by
  have h := get_cellsOf 0 bs i
  rw [Nat.zero_add] at h
  exact h

/-- One more write, of bytes. -/
theorem PutsInCistern.put {s s' : State} {core : Nat} {f : Nat → Byte} (h : PutsInCistern s s' core f) (a : Nat) (bs : List Byte) :
    PutsInCistern s (cisPut core a bs s') core (bytesOver f a bs) := by
  rw [cisPut_eq_blit]
  exact h.blit a (cellsOf_wf 0 bs) rfl fun i _ => byte_cellsOf bs i

/-- A store to the cistern by the instruction of slot w. -/
theorem PutsInCistern.stores {s s' : State} {w : Who} {t' : Task} {f : Nat → Byte}
    (h : PutsInCistern ((issued w s).setTask w t') s' w.core f) : StoresToCistern s s' w t' f := by
  refine ⟨movesOn_setTask h.tasks h.still, h.bytes, fun c hc => (h.others c hc).trans (issued_other w s hc), h.own, ?_, h.ops, h.marks⟩
  exact (congrArg (fun x : State => { x with tasks := s.tasks, cores := s.cores }) h.rest :)

/-- Nothing is written yet where a task has only moved on. -/
theorem putsInCistern_moved {s : State} (w : Who) (t' : Task) (h : s.memoriesOk = true) :
    PutsInCistern ((issued w s).setTask w t') ((issued w s).setTask w t') w.core (s.cisByte w.core) := by
  have hcis : ((issued w s).setTask w t').cis w.core = s.cis w.core := issued_cis w s w.core
  have hrefl := PutsInCistern.refl (s := (issued w s).setTask w t') (core := w.core) (hcis ▸ core_cis_wf h w.core)
  exact ⟨fun k => congrArg (Memory.byte · k) hcis, hrefl.wf, hrefl.own, hrefl.others, hrefl.ops, hrefl.marks, hrefl.tasks, hrefl.still, hrefl.rest⟩

/-! ### Checks and parity -/

section
variable {s : State} {w : Who} {t : Task} {foot access a n align : Nat}

theorem cisCheck_ok (hin : a + n ≤ foot) (hal : a % align = 0) : cisCheck foot access a n align = .ok () := by
  rw [cisCheck, if_neg (by omega), if_neg (not_not.mpr hal)]

theorem cisCheck_outside (hout : foot < a + n) :
    cisCheck foot access a n align = .error (.violation access 0 (0xC000000000000000 + a)) := if_pos hout

theorem cisCheck_misaligned (hin : a + n ≤ foot) (hal : a % align ≠ 0) :
    cisCheck foot access a n align = .error (.violation access 1 (0xC000000000000000 + a)) := by
  rw [cisCheck, if_neg (by omega), if_pos hal]
  rfl

theorem cisParity_ok {core : Nat} (h : wordErr s core a n = false) : cisParity s core a n = .ok () := by
  rw [cisParity, h]
  rfl

theorem cisParity_fails {core : Nat} (h : wordErr s core a n = true) :
    cisParity s core a n = .error (.detected (coreErr 5 core)) := by
  rw [cisParity, h]
  rfl

theorem cisRead_ok (hcheck : cisCheck t.footprint 0 a n align = .ok ()) (h : wordErr s w.core a n = false) :
    cisRead s w t a n align = .ok (Memory.bytes (s.cis w.core) a n) :=
  (bind_ok hcheck).trans ((bind_ok (cisParity_ok h)).trans rfl)

theorem cisRead_unsound (hcheck : cisCheck t.footprint 0 a n align = .ok ()) (h : wordErr s w.core a n = true) :
    cisRead s w t a n align = .error (.detected (coreErr 5 w.core)) :=
  (bind_ok hcheck).trans (bind_error (cisParity_fails h))

end

/-! ### Scalar accesses -/

section
variable {s : State} {w : Who} {t : Task} {g : Guard} {rd ra : Fin 64} {imm : W32} {n : Nat} {e : Bad}

theorem cisLoad_reads (h : Ready s w t) (hg : t.acts g = true) (hin : t.addr ra imm + n ≤ t.footprint) (hal : t.addr ra imm % n = 0)
    (hw : wordErr s w.core (t.addr ra imm) n = false) : RunsTask (cisLoad w g rd ra imm n s) s w (WritesScalar t rd
      (BitVec.ofNat 64 (leNat ((List.range n).map fun i => s.cisByte w.core (t.addr ra imm + i))))) := by
  have hbytes : Memory.bytes (((issued w s).setTask w t.advance).cis w.core) (t.addr ra imm) n
      = (List.range n).map fun i => s.cisByte w.core (t.addr ra imm + i) :=
    congrArg (Memory.bytes · _ n) (issued_cis w s w.core)
  have hread : cisRead ((issued w s).setTask w t.advance) w t (t.addr ra imm) n n
      = .ok ((List.range n).map fun i => s.cisByte w.core (t.addr ra imm + i)) :=
    hbytes ▸ cisRead_ok (cisCheck_ok hin hal) hw
  exact runsTask_guarded h rfl hg (bind_ok hread) (writesScalar_setS t rd _)

theorem cisLoad_unsound (h : Ready s w t) (hg : t.acts g = true) (hin : t.addr ra imm + n ≤ t.footprint)
    (hal : t.addr ra imm % n = 0) (hw : wordErr s w.core (t.addr ra imm) n = true) :
    EndsParcel (cisLoad w g rd ra imm n s) s w t (.detected (coreErr 5 w.core)) :=
  guarded_endsParcel h rfl hg (bind_error (cisRead_unsound (cisCheck_ok hin hal) hw))

theorem cisLoad_fails (h : Ready s w t) (hg : t.acts g = true) (hcheck : cisCheck t.footprint 0 (t.addr ra imm) n n = .error e) :
    EndsParcel (cisLoad w g rd ra imm n s) s w t e :=
  guarded_endsParcel h rfl hg (bind_error (bind_error hcheck))

theorem cisStore_writes (h : Ready s w t) (hg : t.acts g = true) (hin : t.addr ra imm + n ≤ t.footprint)
    (hal : t.addr ra imm % n = 0) (hwf : s.memoriesOk = true) : ∃ s', cisStore w g rd ra imm n s = .next s' ∧
      StoresToCistern s s' w t.advance (bytesOver (s.cisByte w.core) (t.addr ra imm) (leBytes n (t.sreg rd).toNat)) := by
  have hlen : (leBytes n (t.sreg rd).toNat).length = n := leBytes_length _ _
  exact ⟨_, guarded_ready h rfl hg ((bind_ok (cisCheck_ok (hlen.symm ▸ hin) hal)).trans rfl),
    ((putsInCistern_moved w t.advance hwf).put _ _).stores⟩

theorem cisStore_fails (h : Ready s w t) (hg : t.acts g = true) (hcheck : cisCheck t.footprint 1 (t.addr ra imm) n n = .error e) :
    EndsParcel (cisStore w g rd ra imm n s) s w t e :=
  guarded_endsParcel h rfl hg (bind_error ((leBytes_length n (t.sreg rd).toNat).symm ▸ hcheck))

end

/-! ### Vector accesses -/

section
variable {s : State} {core foot access : Nat} {addr : Nat → Nat}

/-- The check of one lane. -/
def laneCheck (s : State) (core foot access : Nat) (addr : Nat → Nat) (l : Nat) : Except Bad Unit := do
  cisCheck foot access (addr l) 4 4
  if access = 0 then cisParity s core (addr l) 4 else .ok ()

theorem laneChecks_cons (l : Nat) (r : List Nat) : laneChecks s core foot access addr (l :: r)
    = (laneCheck s core foot access addr l).bind fun _ => laneChecks s core foot access addr r := by
  cases hcheck : cisCheck foot access (addr l) 4 4 with
  | error e =>
    have hl : laneCheck s core foot access addr l = .error e := bind_error hcheck
    rw [hl]
    exact bind_error hcheck
  | ok u =>
    have hl : laneCheck s core foot access addr l = if access = 0 then cisParity s core (addr l) 4 else .ok () := bind_ok hcheck
    rw [hl]
    refine (bind_ok hcheck).trans ?_
    dsimp only
    split <;> rfl

theorem laneChecks_issued (w : Who) (ls : List Nat) :
    laneChecks (issued w s) core foot access addr ls = laneChecks s core foot access addr ls := by
  induction ls with
  | nil => rfl
  | cons l r ih =>
    rw [laneChecks_cons, laneChecks_cons, ih]
    rfl

theorem laneChecks_ok {ls : List Nat} (h : ∀ l ∈ ls, laneCheck s core foot access addr l = .ok ()) :
    laneChecks s core foot access addr ls = .ok () := by
  induction ls with
  | nil => rfl
  | cons l r ih =>
    rw [laneChecks_cons, h l List.mem_cons_self]
    exact ih fun m hm => h m (List.mem_cons_of_mem l hm)

/-- The first lane that fails decides. -/
theorem laneChecks_fails {pre post : List Nat} {l : Nat} {e : Bad} (h : ∀ j ∈ pre, laneCheck s core foot access addr j = .ok ())
    (hl : laneCheck s core foot access addr l = .error e) : laneChecks s core foot access addr (pre ++ l :: post) = .error e := by
  induction pre with
  | nil => rw [List.nil_append, laneChecks_cons, hl]; rfl
  | cons j r ih =>
    rw [List.cons_append, laneChecks_cons, h j List.mem_cons_self]
    exact ih fun m hm => h m (List.mem_cons_of_mem j hm)

theorem laneCheck_load {l : Nat} (hcheck : cisCheck foot 0 (addr l) 4 4 = .ok ()) (hw : wordErr s core (addr l) 4 = false) :
    laneCheck s core foot 0 addr l = .ok () := (bind_ok hcheck).trans (cisParity_ok hw)

theorem laneCheck_store {l : Nat} (hcheck : cisCheck foot 1 (addr l) 4 4 = .ok ()) : laneCheck s core foot 1 addr l = .ok () :=
  (bind_ok hcheck).trans rfl

theorem laneCheck_fails {l : Nat} {e : Bad} (hcheck : cisCheck foot access (addr l) 4 4 = .error e) :
    laneCheck s core foot access addr l = .error e := bind_error hcheck

end

/-- The admitted lanes are those before a lane, the lane, and those after it. -/
theorem Task.onLanes_split (t : Task) (g : Guard) {l : Nat} (hl : t.guardBit g l = true) :
    ∃ post, t.onLanes g = (List.range l).filter (t.guardBit g) ++ l :: post := by
  have hlt : l < t.lanes := by
    by_contra hge
    rw [t.guardBit_high g (by omega)] at hl
    cases hl
  obtain ⟨k, hk⟩ := Nat.exists_eq_add_of_lt hlt
  refine ⟨(((List.range k).map Nat.succ).map (l + ·)).filter (t.guardBit g), ?_⟩
  rw [Task.onLanes, hk, Nat.add_assoc, List.range_add, List.range_succ_eq_map, List.filter_append, List.map_cons,
    List.filter_cons_of_pos (by exact hl)]
  rfl

theorem Task.mem_onLanes {t : Task} {g : Guard} {l : Nat} (h : l ∈ t.onLanes g) : t.guardBit g l = true := (List.mem_filter.mp h).2

section
variable {s : State} {w : Who} {t : Task} {g : Guard} {vd : Fin 32} {addr : Task → Nat → Nat}

theorem laneMem_ready {access : Nat} {f : Task → State → State} (h : Ready s w t)
    (hc : laneChecks s w.core t.footprint access (addr t) (t.onLanes g) = .ok ()) :
    laneMem w g access addr f s = .next (f t ((issued w s).setTask w t.advance)) := by
  have hc' : laneChecks (issued w s) w.core t.footprint access (addr t) (t.onLanes g) = .ok () :=
    (laneChecks_issued w _).trans hc
  rw [laneMem, issue_ready h rfl, hc']

theorem laneMem_fails {access : Nat} {f : Task → State → State} {b : Bad} (h : Ready s w t) (hb : b ≠ .wait)
    (hc : laneChecks s w.core t.footprint access (addr t) (t.onLanes g) = .error b) :
    EndsParcel (laneMem w g access addr f s) s w t b := by
  have hc' : laneChecks (issued w s) w.core t.footprint access (addr t) (t.onLanes g) = .error b :=
    (laneChecks_issued w _).trans hc
  rw [laneMem, issue_ready h rfl, hc', EndsParcel, if_neg hb]
  rfl

theorem laneLoad_reads (h : Ready s w t) (hc : laneChecks s w.core t.footprint 0 (addr t) (t.onLanes g) = .ok ()) :
    RunsTask (laneLoad w g vd addr s) s w (WritesLanes t g vd fun l =>
      BitVec.ofNat 32 (leNat ((List.range 4).map fun i => s.cisByte w.core (addr t l + i)))) := by
  have hbytes : ∀ l, Memory.bytes (((issued w s).setTask w t.advance).cis w.core) (addr t l) 4
      = (List.range 4).map fun i => s.cisByte w.core (addr t l + i) :=
    fun l => congrArg (Memory.bytes · _ 4) (issued_cis w s w.core)
  refine ⟨_, _, (laneMem_ready h hc).trans (congrArg _ (State.modTask_of_task _ (State.task_setTask_same _ w _))),
    (becomes_setTask s w _).setTask _, ?_⟩
  simp only [hbytes]
  exact writesLanes_setVec t g vd _

theorem laneStore_writes (h : Ready s w t) (hwf : s.memoriesOk = true)
    (hc : laneChecks s w.core t.footprint 1 (addr t) (t.onLanes g) = .ok ()) : ∃ s', laneStore w g vd addr s = .next s' ∧
      StoresToCistern s s' w t.advance ((t.onLanes g).foldl
        (fun f l => bytesOver f (addr t l) (leBytes 4 (t.lane vd l).toNat)) (s.cisByte w.core)) := by
  have hfold : ∀ (ls : List Nat) (s' : State) (f : Nat → Byte), PutsInCistern ((issued w s).setTask w t.advance) s' w.core f →
      PutsInCistern ((issued w s).setTask w t.advance)
        (ls.foldl (fun x l => cisPut w.core (addr t l) (leBytes 4 (t.lane vd l).toNat) x) s') w.core
        (ls.foldl (fun f l => bytesOver f (addr t l) (leBytes 4 (t.lane vd l).toNat)) f) := by
    intro ls
    induction ls with
    | nil => exact fun _ _ hput => hput
    | cons l r ih => exact fun _ _ hput => ih _ _ (hput.put _ _)
  exact ⟨_, laneMem_ready h hc, (hfold _ _ _ (putsInCistern_moved w t.advance hwf)).stores⟩

end

end Sys2Proof.Machine
end

section

namespace Sys2Proof

open Machine

/-- Settles O13: the checks of an access, the parity of a load, and the bytes that either moves. -/
theorem cisternScalarAccesses : Obligations.CisternScalarAccesses := by
  unfold Obligations.CisternScalarAccesses
  intro op hop s w t g rd ra imm a h hg ha
  have hop' : exec (op.1 w g rd ra imm) s = cisLoad w g rd ra imm op.2.2 s
      ∧ exec (op.2.1 w g rd ra imm) s = cisStore w g rd ra imm op.2.2 s := by
    revert op
    simp only [List.forall_mem_cons]
    exact ⟨⟨rfl, rfl⟩, ⟨rfl, rfl⟩, ⟨rfl, rfl⟩, ⟨rfl, rfl⟩, List.forall_mem_nil _⟩
  obtain ⟨hload, hstore⟩ := hop'
  obtain rfl : a = t.addr ra imm := ha
  rw [hload, hstore]
  exact ⟨fun hin hal => ⟨cisLoad_reads h hg hin hal, cisLoad_unsound h hg hin hal, cisStore_writes h hg hin hal⟩,
    fun hout => ⟨cisLoad_fails h hg (cisCheck_outside hout), cisStore_fails h hg (cisCheck_outside hout)⟩,
    fun hin hal => ⟨cisLoad_fails h hg (cisCheck_misaligned hin hal), cisStore_fails h hg (cisCheck_misaligned hin hal)⟩⟩

/-- Settles O14: the lanes are checked in their order (`laneChecks_ok`, `laneChecks_fails`), and then move their bytes. -/
theorem cisternVectorAccesses : Obligations.CisternVectorAccesses := by
  unfold Obligations.CisternVectorAccesses
  intro s w t g vd vb ra rb imm h op hop addr haddr
  have hop' : ∃ f : Task → Nat → Nat, exec op.1 s = laneLoad w g vd f s ∧ exec op.2.1 s = laneStore w g vd f s
      ∧ ∀ l, f t l = (op.2.2 l).toNat := by
    clear haddr
    revert op
    simp only [List.forall_mem_cons]
    exact ⟨⟨addrLine ra imm, rfl, rfl, fun _ => rfl⟩, ⟨addrStride ra rb, rfl, rfl, fun _ => rfl⟩,
      ⟨addrIndex ra vb, rfl, rfl, fun _ => rfl⟩, List.forall_mem_nil _⟩
  obtain ⟨f, hload, hstore, hf⟩ := hop'
  obtain rfl : addr = f t := funext fun l => (haddr l).trans (hf l).symm
  rw [hload, hstore]
  refine ⟨fun hreach => ⟨fun hw => ?loads, fun hwf => ?stores⟩, fun l hl hbefore => ?faults⟩
  case loads =>
    refine laneLoad_reads h (laneChecks_ok fun l hl => ?_)
    obtain ⟨hin, hal⟩ := hreach l (Task.mem_onLanes hl)
    exact laneCheck_load (cisCheck_ok hin hal) (hw l (Task.mem_onLanes hl))
  case stores =>
    refine laneStore_writes h hwf (laneChecks_ok fun l hl => ?_)
    obtain ⟨hin, hal⟩ := hreach l (Task.mem_onLanes hl)
    exact laneCheck_store (cisCheck_ok hin hal)
  case faults =>
    obtain ⟨post, hsplit⟩ := t.onLanes_split g hl
    have hlower : ∀ j ∈ (List.range l).filter (t.guardBit g),
        f t j + 4 ≤ t.footprint ∧ f t j % 4 = 0 ∧ wordErr s w.core (f t j) 4 = false := fun j hj =>
      hbefore j (List.mem_range.mp (List.mem_filter.mp hj).1) (List.mem_filter.mp hj).2
    have hends : ∀ c, (∀ access, cisCheck t.footprint access (f t l) 4 4 = .error (.violation access c (0xC000000000000000 + f t l))) →
        EndsParcel (laneLoad w g vd f s) s w t (.violation 0 c (0xC000000000000000 + f t l))
        ∧ EndsParcel (laneStore w g vd f s) s w t (.violation 1 c (0xC000000000000000 + f t l)) := by
      refine fun c hcheck => ⟨laneMem_fails h (by simp) ?_, laneMem_fails h (by simp) ?_⟩ <;> rw [hsplit]
      · refine laneChecks_fails (fun j hj => ?_) (laneCheck_fails (hcheck 0))
        obtain ⟨hin, hal, hw⟩ := hlower j hj
        exact laneCheck_load (cisCheck_ok hin hal) hw
      · refine laneChecks_fails (fun j hj => ?_) (laneCheck_fails (hcheck 1))
        obtain ⟨hin, hal, -⟩ := hlower j hj
        exact laneCheck_store (cisCheck_ok hin hal)
    exact ⟨fun hout => hends 0 fun _ => cisCheck_outside hout, fun hin hal => hends 1 fun _ => cisCheck_misaligned hin hal⟩

end Sys2Proof
end

section
/-! SUPPORT. ENTRY, HALT and YIELD (04_selod_isa.md R89, R97 to R99, R104, Table 4.16). -/

namespace Sys2Proof.Machine

open Sys2Proof

/-! ### The end of a parcel by R96 -/

theorem endsParcel_malformed {o : Out} {s : State} {w : Who} {t : Task} (h : o = .next (malformed w t (issued w s))) :
    EndsParcel o s w t (.violation 2 4 t.pc.toNat) := h.trans (by rw [if_neg (by simp)]; rfl)

/-! ### ENTRY (R97 to R99) -/

theorem any_ne {o : Option Nat} {n : Nat} (h : o = none ∨ o = some n) : (o.any fun f => decide (f ≠ n)) = false := by
  rcases h with rfl | rfl <;> simp

section
variable {s : State} {w : Who} {t : Task} {g : Guard} {imm : W32}

theorem exec_halt (w : Who) (g : Guard) (s : State) : exec (.halt w g) s = execHalt w g s := rfl
theorem exec_yield (w : Who) (g : Guard) (s : State) : exec (.yield w g) s = execYield w g s := rfl
theorem exec_entry (w : Who) (g : Guard) (imm : W32) (s : State) : exec (.entry w g imm) s = execEntry w g imm s := rfl

theorem bitsN_reserved : bitsN imm.toNat 31 12 ≠ 0 ↔ 4096 ≤ imm.toNat := by
  have := imm.isLt
  unfold bitsN
  omega

theorem bitsN_level : bitsN imm.toNat 3 0 = imm.toNat % 16 := by simp [bitsN]

theorem bitsN_lanes : bitsN imm.toNat 5 4 = imm.toNat / 16 % 4 := by
  unfold bitsN
  omega

theorem entryLanesOk_iff : entryLanesOk imm.toNat = true
    ↔ imm.toNat / 16 % 4 ≠ 3 ∧ (imm.toNat % 16 = 1 ∨ imm.toNat / 16 % 4 = 0) := by
  simp [entryLanesOk, bitsN_level, bitsN_lanes]

theorem laterEntryOk_iff : laterEntryOk imm.toNat = true
    ↔ imm.toNat / 16 % 4 ≠ 3 ∧ (imm.toNat % 16 ≠ 2 ∨ imm.toNat / 16 % 4 = 0) := by
  simp [laterEntryOk, bitsN_level, bitsN_lanes]

/-- The task once its ENTRY has started it. -/
def entering (t : Task) (imm : W32) : Task :=
  Task.advance { t with entered := true, level := BitVec.ofNat 4 imm.toNat, width := entryLanes imm.toNat
                        footprint := entryFootprint imm.toNat }

section
variable (ht : s.task w = some t) (hc : canIssue s w t = true)
include ht hc

theorem execEntry_reserved (hr : 4096 ≤ imm.toNat) : execEntry w g imm s = .next (malformed w t (issued w s)) := by
  simp [execEntry, ht, hc, bitsN_reserved.mpr hr, go]

variable (hr : imm.toNat < 4096)
include hr

omit ht hc in
theorem bitsN_unreserved : bitsN imm.toNat 31 12 = 0 := by
  by_contra hne
  exact absurd (bitsN_reserved.mp hne) (by omega)

/-- A later ENTRY. -/
theorem execEntry_later (he : t.entered = true) : execEntry w g imm s =
    .next (if laterEntryOk imm.toNat then (issued w s).setTask w t.advance else malformed w t (issued w s)) := by
  cases hok : laterEntryOk imm.toNat <;> simp [execEntry, ht, hc, bitsN_unreserved hr, he, hok, go]

variable (he : t.entered = false)
include he

theorem execEntry_off (hg : t.acts g = false) : execEntry w g imm s = .next ((issued w s).setTask w t.advance) := by
  simp [execEntry, ht, hc, bitsN_unreserved hr, he, hg, go]

variable (hg : t.acts g = true)
include hg

theorem execEntry_mismatch (hl : imm.toNat % 16 ≠ (s.ctx t.ctx).regs.level.toNat) : execEntry w g imm s =
    .next (failParcel t.ctx t.hostSeq (some w) t.pc (Who.die w) (.status 0xE 0) (issued w s)) := by
  simp [execEntry, ht, hc, bitsN_unreserved hr, he, hg, bitsN_level, hl, go]

variable (hl : imm.toNat % 16 = (s.ctx t.ctx).regs.level.toNat)
include hl

theorem execEntry_lanes (hok : entryLanesOk imm.toNat = false) :
    execEntry w g imm s = .next (malformed w t (issued w s)) := by
  simp [execEntry, ht, hc, bitsN_unreserved hr, he, hg, bitsN_level, hl, hok, go]

variable (hok : entryLanesOk imm.toNat = true)
include hok

theorem execEntry_footprint {f : Nat} (hf : (s.core w.core).footprint = some f) (hne : f ≠ entryFootprint imm.toNat) :
    execEntry w g imm s = .next (malformed w t (issued w s)) := by
  have hfoot : ((issued w s).core w.core).footprint = some f := by rw [issued_core]; exact hf
  simp [execEntry, ht, hc, bitsN_unreserved hr, he, hg, bitsN_level, hl, hok, hfoot, hne, go]

/-- The first task of a core, or one of the footprint of those that run there, starts. -/
theorem execEntry_starts (hf : (s.core w.core).footprint = none ∨ (s.core w.core).footprint = some (entryFootprint imm.toNat)) :
    execEntry w g imm s = .next (pastEntry t (((issued w s).setTask w (entering t imm)).modCore w.core fun c =>
      { c with footprint := some (entryFootprint imm.toNat) })) := by
  have hfoot : ((issued w s).core w.core).footprint = (s.core w.core).footprint := by rw [issued_core]; rfl
  have hany : ((s.core w.core).footprint.any fun f => decide (f ≠ entryFootprint imm.toNat)) = false := any_ne hf
  simp only [execEntry, ht, hc, bitsN_unreserved hr, he, hg, bitsN_level, issued_ctx, hl, hok, hfoot, hany, Bool.not_true,
    Bool.false_eq_true, ne_eq, not_true, if_false, go, entering]

end

end

/-- A parcel's change keeps its number, and what starts a task changes its slot, its core and its parcel. -/
theorem pastEntry_parcel (t : Task) (s : State) : (pastEntry t s).parcel t.ctx t.hostSeq
    = (s.parcel t.ctx t.hostSeq).map fun p => { p with pastEntry := true } := parcel_modParcel s t.ctx t.hostSeq fun _ => rfl

/-- The state but for what the start and the end of a task change. -/
def State.taskless (s : State) : State := { s with tasks := [], cores := [], ctxs := [], loose := [] }

section
variable (s : State)

theorem taskless_setTask (w : Who) (t : Task) : (s.setTask w t).taskless = s.taskless := rfl
theorem taskless_issued (w : Who) : (issued w s).taskless = s.taskless := rfl
theorem taskless_modCore (c : Nat) (f : Core → Core) : (s.modCore c f).taskless = s.taskless := rfl
theorem taskless_modParcel (c : Nat) (h : W32) (f : Parcel → Parcel) : (s.modParcel c h f).taskless = s.taskless := rfl
theorem taskless_dropTask (w : Who) : (s.dropTask w).taskless = s.taskless := rfl
theorem taskless_freeCores : (freeCores s).taskless = s.taskless := rfl

theorem taskless_retire (w : Who) (t : Task) : (retire w t s).taskless = s.taskless :=
  (taskless_freeCores _).trans ((taskless_modParcel _ _ _ _).trans (taskless_dropTask s w))

theorem of_taskless {s s' : State} (h : s'.taskless = s.taskless) :
    { s' with tasks := s.tasks, cores := s.cores, ctxs := s.ctxs, loose := s.loose } = s :=
  congrArg (fun x : State => { x with tasks := s.tasks, cores := s.cores, ctxs := s.ctxs, loose := s.loose }) h

end

theorem pastEntry_core (t : Task) (s : State) (c : Nat) : (pastEntry t s).core c = s.core c := rfl

theorem entryFootprint_eq (imm : W32) : entryFootprint imm.toNat = 65536 * (imm.toNat / 64 % 64 + 1) := by
  unfold entryFootprint bitsN
  omega

theorem entryLanes_eq (imm : W32) : entryLanes imm.toNat
    = if imm.toNat / 16 % 4 = 0 then .l64 else if imm.toNat / 16 % 4 = 1 then .l32 else .l16 := by
  unfold entryLanes
  rw [bitsN_lanes]
  generalize imm.toNat / 16 % 4 = lanes
  split <;> simp_all

theorem entering_eq (t : Task) (imm : W32) : entering t imm = { t with
    entered := true, level := BitVec.ofNat 4 (imm.toNat % 16), footprint := 65536 * (imm.toNat / 64 % 64 + 1)
    width := if imm.toNat / 16 % 4 = 0 then .l64 else if imm.toNat / 16 % 4 = 1 then .l32 else .l16
    pc := t.pc + 8, status := .ready } := by
  have hlevel : BitVec.ofNat 4 imm.toNat = BitVec.ofNat 4 (imm.toNat % 16) := by
    apply BitVec.eq_of_toNat_eq
    simp
  rw [entering, hlevel, entryLanes_eq, entryFootprint_eq]
  rfl

/-! ### The end of a task (R104) -/

/-- An entry of a table that is changed entry by entry. -/
theorem Tab.find_map {α : Type} (t : Tab α) {f : Nat × α → Nat × α} (hf : ∀ e, (f e).1 = e.1) (k : Nat) :
    Tab.find (t.map f) k = (t.find k).map fun v => (f (k, v)).2 := by
  induction t with
  | nil => rfl
  | cons e r ih =>
    simp only [List.map_cons, Tab.find]
    rw [hf e]
    split
    next hk => subst hk; rfl
    next => exact ih

/-- A core that is freed keeps its cistern. -/
theorem freeCores_cis (s : State) (k : Nat) : (freeCores s).cis k = s.cis k := by
  have hfind : (freeCores s).cores.find k = _ := Tab.find_map s.cores (fun e => by split <;> rfl) k
  rw [State.cis, State.core, Tab.get_eq_find, hfind, State.cis, State.core, Tab.get_eq_find]
  cases s.cores.find k with
  | none => rfl
  | some v =>
    simp only [Option.map_some, Option.getD_some]
    split <;> rfl

section
variable {s : State} {w : Who} {t : Task}

theorem retire_task_same : (retire w t s).task w = none := Tab.find_del_same s.tasks (Who.key w)

theorem retire_task_other {x : Who} (h : Who.key x ≠ Who.key w) : (retire w t s).task x = s.task x :=
  Tab.find_del_other s.tasks h

theorem retire_parcel : (retire w t s).parcel t.ctx t.hostSeq
    = (s.parcel t.ctx t.hostSeq).map fun p => { p with running := p.running - 1 } :=
  parcel_modParcel (s.dropTask w) t.ctx t.hostSeq fun _ => rfl

theorem retire_sameBytes : SameBytes s (retire w t s) :=
  ⟨fun _ _ => rfl, fun c a => congrArg (Memory.byte · a) (freeCores_cis _ c)⟩

theorem mem_retire_loose (o : AsyncOp) : o ∈ (retire w t s).loose ↔ o ∈ s.loose ∧ o.who ≠ w := by
  refine List.mem_filter.trans (and_congr_right fun _ => ?_)
  exact decide_eq_true_iff

end

/-! ### YIELD (R89) -/

/-- A slot that has yielded comes after every other ready slot of its core. -/
theorem canIssue_of_yielded {s : State} {w : Who} {t : Task} {k : Nat}
    (hy : (s.core w.core).yields = BitVec.twoPow 4 w.slot) (hw : w.slot < 4) (hk : k < 4) (hne : k ≠ w.slot)
    (hready : slotReady s w.core k = true) (hstep : (s.core w.core).halted = true → (s.core w.core).stepOne = false) :
    canIssue s w t = false := by
  have hrival : k ∈ rivals s w := by
    have hself : (BitVec.twoPow 4 w.slot).getLsbD w.slot = true := by simp [hw]
    have hother : (BitVec.twoPow 4 w.slot).getLsbD k = false := by simp [hk, hne]
    simp only [rivals, List.mem_filter, List.mem_range, hy, hself, hother, hready]
    simp [hk, hne]
  have hsome : (rivals s w).isEmpty = false := by
    rw [List.isEmpty_eq_false_iff_exists_mem]
    exact ⟨k, hrival⟩
  unfold canIssue
  cases hh : (s.core w.core).halted with
  | true => simp [hstep hh]
  | false => simp [hsome]

end Sys2Proof.Machine
end

section

namespace Sys2Proof

open Machine

/-- Settles O23: the checks of ENTRY in their order, and the start of a task that passes them. -/
theorem entryStartsTheTask : Obligations.EntryStartsTheTask := by
  unfold Obligations.EntryStartsTheTask
  rintro s w t g imm level lanes foot ht hc he rfl rfl rfl
  rw [exec_entry]
  refine ⟨fun hr => endsParcel_malformed (execEntry_reserved ht hc hr), fun hr hg => ?off, fun hr hg hl => ?mismatch,
    fun hr hg hl hbad => endsParcel_malformed ?bad, fun hr hg hl hlanes hok hf => ?starts⟩
  case off => exact ⟨_, _, execEntry_off ht hc hr he hg, becomes_setTask s w _, goesTo_advance t⟩
  case mismatch => exact (execEntry_mismatch ht hc hr he hg hl).trans (by rw [if_neg (by simp)]; rfl)
  case bad =>
    cases hok : entryLanesOk imm.toNat with
    | false => exact execEntry_lanes ht hc hr he hg hl hok
    | true =>
      obtain ⟨hlanes, hlevel⟩ := entryLanesOk_iff.mp hok
      obtain ⟨f, hf, hne⟩ := (hbad.resolve_left hlanes).resolve_left fun hb => hlevel.elim hb.1 hb.2
      exact execEntry_footprint ht hc hr he hg hl hok hf (entryFootprint_eq imm ▸ hne)
  case starts =>
    rw [execEntry_starts ht hc hr he hg hl (entryLanesOk_iff.mpr ⟨hlanes, hok⟩) (entryFootprint_eq imm ▸ hf)]
    refine ⟨_, entering t imm, rfl, State.task_setTask_same (issued w s) w _, entering_eq t imm,
      fun x hx => (State.task_setTask_other (issued w s) hx _).trans (issued_task ..), ?_, ?_, ?_⟩
    · rw [pastEntry_core, State.core_modCore_same, entryFootprint_eq]
      rfl
    · exact (pastEntry_parcel t _).trans (congrArg (Option.map _) (congrArg (fun c : Ctx => c.parcels.find? _) (issued_ctx w s t.ctx)))
    · exact of_taskless ((taskless_modParcel _ _ _ _).trans ((taskless_modCore _ _ _).trans
        ((taskless_setTask _ _ _).trans (taskless_issued s w))))

/-- Settles O24: HALT retires a drained task, and YIELD leaves its slot behind every other ready one (`canIssue_of_yielded`). -/
theorem haltYieldAndNop : Obligations.HaltYieldAndNop := by
  unfold Obligations.HaltYieldAndNop
  intro s w t g h
  obtain ⟨ht, he, hc⟩ := id h
  refine ⟨fun hg hd => ?retires, fun hg hd => ?waits, fun hg hw => ?yields, runsTask_onTask h rfl (goesTo_advance t),
    runsTask_onTask h rfl (goesTo_advance t), ?entry⟩
  case retires =>
    have hexec : exec (.halt w g) s = .next (retire w t (issued w s)) := by
      rw [exec_halt, execHalt, issue_ready h rfl]
      simp only [hg, if_true, Task.drained, hd]
    refine ⟨_, hexec, retire_task_same, fun x hx => (retire_task_other hx).trans (issued_task ..), retire_parcel, ?_,
      mem_retire_loose, ?_⟩
    have hbytes := retire_sameBytes (w := w) (t := t) (s := issued w s)
    · exact ⟨hbytes.1, fun c a => (hbytes.2 c a).trans (congrArg (Memory.byte · a) (issued_cis w s c))⟩
    · exact of_taskless ((taskless_retire _ w t).trans (taskless_issued s w))
  case waits =>
    rw [exec_halt, execHalt]
    refine runsTask_issue h rfl ?_ rfl
    simp only [hg, if_true, Task.drained, hd, Bool.false_eq_true, if_false]
    rfl
  case yields =>
    have hexec : exec (.yield w g) s = .next (((issued w s).setTask w t.advance).modCore w.core fun c =>
        { c with yields := BitVec.twoPow 4 w.slot }) := by
      rw [exec_yield, execYield, issue_ready h rfl]
      simp only [hg, if_true]
    have hcore := State.core_modCore_same ((issued w s).setTask w t.advance) w.core fun c => { c with yields := BitVec.twoPow 4 w.slot }
    refine ⟨_, t.advance, hexec, State.task_setTask_same _ w _, rfl, fun x hx => (State.task_setTask_other _ hx _).trans (issued_task ..),
      hcore, fun c hne => (State.core_modCore_other _ hne _).trans (issued_other w s hne), rfl, ?_⟩
    rintro ⟨k, hk, hne, hready⟩
    refine canIssue_of_yielded (congrArg Core.yields hcore) hw hk hne hready fun hh => ?_
    have hissued : ((issued w s).core w.core).halted = true → ((issued w s).core w.core).stepOne = false := by
      rw [issued_core]
      intro hh
      have hh' : (s.core w.core).halted = true := hh
      simp [hh']
    rw [hcore] at hh ⊢
    exact hissued hh
  case entry =>
    rintro imm level lanes rfl rfl
    rw [exec_entry]
    refine ⟨fun hr hlanes hlevel => ?_, fun hbad => endsParcel_malformed ?_⟩
    · refine ⟨_, _, (execEntry_later ht hc hr he).trans ?_, becomes_setTask s w _, goesTo_advance t⟩
      rw [if_pos (laterEntryOk_iff.mpr ⟨hlanes, hlevel⟩)]
    · by_cases hr : imm.toNat < 4096
      · refine (execEntry_later ht hc hr he).trans ?_
        rw [if_neg]
        intro hok
        obtain ⟨hlanes, hlevel⟩ := laterEntryOk_iff.mp hok
        omega
      · exact execEntry_reserved ht hc (by omega)

end Sys2Proof
end

section
/-! SUPPORT. Instructions that send an operation to a tally or a check slot (04_selod_isa.md R106, R107; 12_tallies_sync.md R322, R323,
R325, R339, R341). -/

namespace Sys2Proof.Machine

open Sys2Proof

section
variable {s : State} {w : Who} {t : Task} {g : Guard}

theorem exec_wait (ra : Fin 64) : exec (.wait w g ra) s = execWait w g ra s := rfl
theorem exec_signal (ra rb : Fin 64) : exec (.signal w g ra rb) s = execSignal w g ra rb s := rfl
theorem exec_signalAll (ra : Fin 64) : exec (.signalAll w g ra) s = execSignalAll w g ra s := rfl
theorem exec_cwait (grp : Fin 8) (atMost : Byte) : exec (.cwait w g grp atMost) s = execCwait w g grp atMost s := rfl
theorem exec_arrive (group : W32) : exec (.arrive w g group) s = execArrive w g group s := rfl

/-! ### Instructions that release (R107) -/

section
variable {f : Task → State → State}

theorem releasing_ready (h : Ready s w t) (hg : t.acts g = true) (hd : t.drained = true) (hheld : heldBy s w = false) :
    releasing w g f s = .next (f t (issued w s)) := by
  unfold releasing
  simp only [h.1, h.2.1, hg, hd, hheld, Bool.not_true, Bool.or_self, Bool.and_false, waiting_false]
  rw [issue_ready h rfl]
  simp only [hg, if_true]

/-- One whose task has unfinished asynchronous instructions, or a write that is held, waits to issue. -/
theorem releasing_waits (h : Ready s w t) (hg : t.acts g = true) (hbusy : t.drained = false ∨ heldBy s w = true) :
    releasing w g f s = .next s := by
  have hheld : (!t.drained || heldBy s w) = true := by rcases hbusy with h | h <;> simp [h]
  unfold releasing
  simp only [h.1, h.2.1, hg, hheld, Bool.and_self]
  rfl

theorem releasing_off (h : Ready s w t) (hg : t.acts g = false) : RunsTask (releasing w g f s) s w (GoesTo t (t.pc + 8)) := by
  unfold releasing
  simp only [h.1, hg, Bool.and_false, Bool.false_and, waiting_false]
  refine runsTask_issue h rfl ?_ (goesTo_advance t)
  simp only [hg, Bool.false_eq_true, if_false]

end

/-! ### Messages to a tally -/

/-- A message leaves the rest of the state alone. -/
theorem sendSync_sends (kind : SyncKind) (tally : Nat) (t' : Task) :
    let s' := sendSync kind tally w t none ((issued w s).setTask w t')
    s'.task w = some t' ∧ s'.inflight = s.inflight ++ [⟨kind, tally, w, t.ctx, t.hostSeq, none, t.taskIndex, t.pc, false⟩]
      ∧ OnlyTask s { s' with inflight := s.inflight } w := by
  obtain ⟨htask, hothers, hrest⟩ := becomes_setTask s w t'
  exact ⟨htask, rfl, hothers, hrest⟩

/-! ### CWAIT (R106) -/

variable {grp : Fin 8} {atMost : Byte}

theorem execCwait_waits (h : Ready s w t) (hg : t.acts g = true) (hn : atMost.toNat < t.groups.get 0 grp.val) :
    execCwait w g grp atMost s = .next s := by
  unfold execCwait
  simp only [h.1, h.2.1, hg, hn, decide_true, Bool.and_self]
  rfl

theorem execCwait_ready (h : Ready s w t) (hn : t.acts g = true → t.groups.get 0 grp.val ≤ atMost.toNat) :
    execCwait w g grp atMost s = .next { (issued w s).setTask w t.advance with
      loose := if t.acts g then s.loose.filter fun o => !covered w grp atMost o else s.loose } := by
  have hfree : (t.acts g && decide (atMost.toNat < t.groups.get 0 grp.val)) = false := by
    cases hg : t.acts g with
    | false => rfl
    | true => simpa using hn hg
  unfold execCwait
  simp only [h.1, h.2.1, Bool.true_and, hfree, waiting_false]
  exact issue_ready h rfl

/-! ### ARRIVE (R339, R341) -/

theorem execArrive_unbound {group : W32} (h : Ready s w t) (hg : t.acts g = true) (hd : t.drained = true)
    (hheld : heldBy s w = false) (hslot : slotOf s group t.ctx = none) :
    EndsParcel (execArrive w g group s) s w t (.violation 5 4 (0xE800000000000000 + group.toNat)) := by
  have hslot' : slotOf (issued w s) group t.ctx = none := hslot
  rw [execArrive, releasing_ready h hg hd hheld, EndsParcel, if_neg (by simp)]
  simp only [hslot']
  rfl

theorem execArrive_broken {group : W32} {n : Nat} {c : CheckSlot} (h : Ready s w t) (hg : t.acts g = true) (hd : t.drained = true)
    (hheld : heldBy s w = false) (hslot : slotOf s group t.ctx = some (n, c)) (hc : c.state = .broken) :
    execArrive w g group s = .next (endParcel t.ctx t.hostSeq 7 0 (issued w s)) := by
  have hslot' : slotOf (issued w s) group t.ctx = some (n, c) := hslot
  rw [execArrive, releasing_ready h hg hd hheld]
  simp only [hslot', hc, if_true]

/-- An arrival at its die, in the slot of its group. -/
def arrives (w : Who) (t : Task) (n : Nat) (s : State) : State :=
  ((issued w s).setTask w { t.advance with status := .arriveHeld }).modSlot n fun c =>
    { c with pendingDie := c.pendingDie ++ [(w, t.hostSeq)] }

theorem execArrive_bound {group : W32} {n : Nat} {c : CheckSlot} (h : Ready s w t) (hg : t.acts g = true) (hd : t.drained = true)
    (hheld : heldBy s w = false) (hslot : slotOf s group t.ctx = some (n, c)) (hc : c.state ≠ .broken) :
    execArrive w g group s = .next (if c.pace = true ∨ (s.ctx t.ctx).regs.holdTicks = 0
      then desched w .arriveDesched (arrives w t n s) else arrives w t n s) := by
  have hslot' : slotOf (issued w s) group t.ctx = some (n, c) := hslot
  rw [execArrive, releasing_ready h hg hd hheld]
  simp only [hslot', hc, if_false, issued_ctx, Bool.or_eq_true, decide_eq_true_eq]
  rfl

theorem arrives_task (n : Nat) : (arrives w t n s).task w = some { t with pc := t.pc + 8, status := .arriveHeld } :=
  State.task_setTask_same (issued w s) w _

theorem arrives_slot_same (n : Nat) :
    (arrives w t n s).slot n = { s.slot n with pendingDie := (s.slot n).pendingDie ++ [(w, t.hostSeq)] } :=
  State.slot_modSlot_same ((issued w s).setTask w _) n _

theorem arrives_arrived (n : Nat) : ((arrives w t n s).slot n).arrived = (s.slot n).arrived := by rw [arrives_slot_same]

theorem arrives_pending (n : Nat) : ((arrives w t n s).slot n).pendingDie = (s.slot n).pendingDie ++ [(w, t.hostSeq)] := by
  rw [arrives_slot_same]

theorem arrives_slot_other {n j : Nat} (hj : j ≠ n) : (arrives w t n s).slot j = s.slot j :=
  State.slot_modSlot_other ((issued w s).setTask w _) hj _

/-- A state but for what an arrival changes, which is as in another state. -/
def State.sansArrival (s b : State) : State := { s with tasks := b.tasks, slots := b.slots, tl := b.tl }

theorem arrives_sansArrival (b : State) (n : Nat) : (arrives w t n s).sansArrival b = (issued w s).sansArrival b := rfl

theorem desched_eq {t' : Task} (st : Status) (h : s.task w = some t') : desched w st s =
    { s.setTask w { t' with status := st } with tl := { s.tl with desched := satAdd top48 s.tl.desched 1 } } := by
  rw [desched, State.modTask_of_task _ h]

theorem desched_task {t' : Task} (st : Status) (h : s.task w = some t') :
    (desched w st s).task w = some { t' with status := st } := by
  rw [desched_eq st h]
  exact State.task_setTask_same s w _

theorem desched_slot (st : Status) (j : Nat) : (desched w st s).slot j = s.slot j :=
  congrArg (fun l : Tab CheckSlot => l.get CheckSlot.reset j) (State.modTask_slots s w _)

theorem desched_sansArrival {t' : Task} (b : State) (st : Status) (h : s.task w = some t') :
    (desched w st s).sansArrival b = s.sansArrival b := by
  rw [desched_eq st h]
  rfl

end

end Sys2Proof.Machine
end

section

namespace Sys2Proof

open Machine

/-- Settles O27: WAIT sends at its issue, a signal once its task has nothing outstanding (`releasing_ready`, `releasing_waits`). -/
theorem syncInstructionsAreSent : Obligations.SyncInstructionsAreSent := by
  unfold Obligations.SyncInstructionsAreSent
  rintro s w t g ra rb grp atMost tally h rfl
  simp only [exec_wait, exec_cwait]
  refine ⟨fun hg => ⟨?wait, fun hd hheld => ?sends, fun hbusy => ⟨releasing_waits h hg hbusy, releasing_waits h hg hbusy⟩,
    execCwait_waits h hg, fun hn => ?covers⟩, fun hg => ?off, runsTask_onTask h rfl (goesTo_advance t)⟩
  case wait =>
    refine ⟨_, ?_, sendSync_sends .wait (t.tallyOf ra) _⟩
    rw [execWait, issue_ready h rfl]
    simp only [hg, if_true]
    rfl
  case sends =>
    simp only [List.forall_mem_cons, exec_signal, exec_signalAll]
    exact ⟨⟨_, releasing_ready h hg hd hheld, sendSync_sends _ (t.tallyOf ra) t.advance⟩,
      ⟨_, releasing_ready h hg hd hheld, sendSync_sends _ (t.tallyOf ra) t.advance⟩, List.forall_mem_nil _⟩
  case covers =>
    obtain ⟨htask, hothers, hrest⟩ := becomes_setTask s w t.advance
    refine ⟨_, execCwait_ready h fun _ => hn, htask, ⟨hothers, hrest⟩, ?_⟩
    simp only [hg, if_true, covered]
  case off =>
    refine ⟨_, _, execCwait_ready h fun hon => by simp [hg] at hon, ?_, goesTo_advance t⟩
    simp only [hg, Bool.false_eq_true, if_false]
    exact becomes_setTask s w t.advance

/-- Settles O32: an arrival on a bound group waits at its die, and its task is held or descheduled. -/
theorem arriveHoldsTheTask : Obligations.ArriveHoldsTheTask := by
  unfold Obligations.ArriveHoldsTheTask
  intro s w t g group h
  rw [exec_arrive]
  refine ⟨releasing_off h, fun hg hd => releasing_waits h hg (.inl hd), fun hg hd hheld => ⟨execArrive_unbound h hg hd hheld,
    fun n c hslot hcn => ⟨execArrive_broken h hg hd hheld hslot, fun hc => ?_⟩⟩⟩
  have hexec := execArrive_bound h hg hd hheld hslot hc
  subst hcn
  by_cases hzero : (s.slot n).pace = true ∨ (s.ctx t.ctx).regs.holdTicks = 0
  · rw [if_pos hzero] at hexec
    exact ⟨_, .arriveDesched, hexec, (if_pos hzero).symm, desched_task _ (arrives_task n),
      (congrArg CheckSlot.pendingDie (desched_slot _ n)).trans (arrives_pending n),
      (congrArg CheckSlot.arrived (desched_slot _ n)).trans (arrives_arrived n),
      fun j hj => (desched_slot _ j).trans (arrives_slot_other hj), rfl,
      (desched_sansArrival s _ (arrives_task n)).trans (arrives_sansArrival s n)⟩
  · rw [if_neg hzero] at hexec
    exact ⟨_, .arriveHeld, hexec, (if_neg hzero).symm, arrives_task n, arrives_pending n, arrives_arrived n,
      fun j hj => arrives_slot_other hj, rfl, arrives_sansArrival s n⟩

end Sys2Proof
end

section
/-! SUPPORT. The memory forms of CVTN and CVTW (08_numerics.md R230). -/

namespace Sys2Proof.Machine

open Sys2Proof

theorem bitsN_low (n : Nat) : bitsN n 31 0 = n % 2 ^ 32 := by simp [bitsN]

theorem arrayAlign_ok {isCis : Bool} {access c a : Nat} (h : a % max 1 (codeBits c / 8) = 0) :
    arrayAlign isCis access c a = .ok () := if_pos h

theorem countNum_ops (ctx : Nat) (h : W32) (die : Nat) (c : Counts) (s : State) : (countNum ctx h die c s).ops = s.ops :=
  (congrArg (fun x : State => x.ops) (countNum_counted ctx h die c s).rest :)

section
variable {w : Who} {grp : Fin 8} {ra rb rc : Fin 64} {src dst : BitVec 4} {block : BitVec 2} {t : Task} {s : State}
  {f : Task → Nat → List (Nat × Nat) → List Nat × List Nat × Counts}

/-- The count word is judged first. -/
theorem cvtEffect_malformed
    (hn : cvtCountOk (t.sreg rc).toNat (blockOf block) (isBlock src.toNat || isBlock dst.toNat) = false) :
    cvtEffect w ra rb rc src dst block f t s = .error (.violation 2 4 t.pc.toNat) := by
  unfold cvtEffect
  simp only [hn]
  rfl

theorem cvtEffect_converts {xs : List (Nat × Nat)} {y : List Nat × List Nat × Counts} {s1 : State}
    (hn : cvtCountOk (t.sreg rc).toNat (blockOf block) (isBlock src.toNat || isBlock dst.toNat) = true)
    (ha : (t.sreg ra).toNat % max 1 (codeBits src.toNat / 8) = 0) (hb : (t.sreg rb).toNat % max 1 (codeBits dst.toNat / 8) = 0)
    (hx : readArray s w t ((t.sreg rc).toNat.testBit 61) src.toNat (t.sreg ra).toNat ((t.sreg rc).toNat % 2 ^ 32) (blockOf block)
      = .ok xs)
    (hy : y = f t (if (t.sreg rc).toNat.testBit 62 then 2 ^ 57 + (t.sreg rb).toNat else (t.sreg rb).toNat) xs)
    (hs : writeArray s w t ((t.sreg rc).toNat.testBit 62) dst.toNat (t.sreg rb).toNat y.1 y.2.1 = .ok s1) :
    cvtEffect w ra rb rc src dst block f t s = .ok (countNum t.ctx t.hostSeq (Who.die w) y.2.2 s1) := by
  subst hy
  unfold cvtEffect
  simp only [hn, bitsN_low]
  exact (bind_ok (arrayAlign_ok ha)).trans ((bind_ok (arrayAlign_ok hb)).trans ((bind_ok hx).trans ((bind_ok hs).trans rfl)))

theorem plainOp_ok {name : String} {named : Task → State → Named} {f : Task → State → Except Bad State} {id : Nat} {s' : State}
    (h : f t s = .ok s') : plainOp w grp name named f id t s = (s', .ok ((AsyncOp.of id w t grp.val name).bind s (named t s))) := by
  unfold plainOp
  rw [h]

theorem plainOp_fails {name : String} {named : Task → State → Named} {f : Task → State → Except Bad State} {id : Nat} {b : Bad}
    (h : f t s = .error b) : plainOp w grp name named f id t s = (s, .error b) := by
  unfold plainOp
  rw [h]

end

end Sys2Proof.Machine
end

section

namespace Sys2Proof

open Machine

/-- Settles O20: either form is an asynchronous instruction whose effect is the conversion of its array (`cvtEffect_converts`). -/
theorem memoryConversionsIssue : Obligations.MemoryConversionsIssue := by
  unfold Obligations.MemoryConversionsIssue
  intro s w t g grp ra rb rc src dst block sr h i hi start n cnt blk hstart hn hcnt hblk
  have hexec : ∃ ok : Task → Bool, ok t = i.2.2.1 ∧ exec i.1 s = async w g grp ok
      (plainOp w grp i.2.1 (cvtNamed ra rb rc src dst block) (cvtEffect w ra rb rc src dst block i.2.2.2)) s := by
    revert i
    simp only [List.forall_mem_cons]
    exact ⟨⟨_, rfl, rfl⟩, ⟨_, rfl, rfl⟩, List.forall_mem_nil _⟩
  obtain ⟨ok, hok, hexec⟩ := hexec
  subst hn hcnt hblk
  rw [hexec, ← hok]
  refine ⟨fun hbad _ => async_malformed h hbad, fun hgood hg => async_off h hgood hg, fun hgood hg hr => async_full h hgood hg hr,
    fun hg hr => ⟨fun hgood hcount => ?_, fun hgood hcount ha hb xs y s1 hx hy hs => ?_⟩⟩
  · subst hstart
    exact async_fails h hgood hg hr (by simp) (plainOp_fails (cvtEffect_malformed hcount))
  · subst hstart
    rw [async_ready h hgood hg hr (plainOp_ok (cvtEffect_converts hcount ha hb hx hy hs)), countNum_ops]
    rfl

end Sys2Proof
end

section
/-! SUPPORT. MXM (04_selod_isa.md R90, R103; 07_cube_array.md R199, R201, R203, R204). -/

namespace Sys2Proof.Machine

open Sys2Proof

/-! ### Tables in parts -/

theorem Tab.find_append {α : Type} (a b : Tab α) (k : Nat) : Tab.find (a ++ b) k = (a.find k).or (b.find k) := by
  induction a with
  | nil => rfl
  | cons e r ih =>
    simp only [List.cons_append, Tab.find]
    split
    · rfl
    · exact ih

theorem Tab.find_filter {α : Type} (t : Tab α) (p : Nat → Bool) (k : Nat) :
    Tab.find (t.filter fun e => p e.1) k = if p k then t.find k else none := by
  induction t with
  | nil => simp [Tab.find]
  | cons e r ih =>
    by_cases hp : p e.1 = true
    · rw [List.filter_cons_of_pos (p := fun e : Nat × α => p e.1) hp]
      simp only [Tab.find]
      split
      next hk => rw [← hk, hp]; rfl
      next => exact ih
    · rw [List.filter_cons_of_neg (p := fun e : Nat × α => p e.1) hp, ih]
      simp only [Tab.find]
      by_cases hk : e.1 = k
      · rw [← hk, if_neg hp, if_neg hp]
      · rw [if_neg hk]

/-- A table with one entry for each of n places in a row that holds something. -/
theorem Tab.find_places {α : Type} (base n : Nat) (f : Nat → Option α) (k : Nat) :
    Tab.find ((List.range n).filterMap fun i => (f i).map fun v => (base + i, v)) k
      = if base ≤ k ∧ k < base + n then f (k - base) else none := by
  induction n with
  | zero => simp [Tab.find]
  | succ n ih =>
    rw [List.range_succ, List.filterMap_append, Tab.find_append, ih]
    have hlast : Tab.find ([n].filterMap fun i => (f i).map fun v => (base + i, v)) k = if k = base + n then f n else none := by
      cases hf : f n with
      | none => simp [hf, Tab.find]
      | some v => simp [hf, Tab.find, eq_comm]
    rw [hlast]
    by_cases hk : k = base + n
    · subst hk
      simp
    · by_cases hin : base ≤ k ∧ k < base + n
      · rw [if_pos hin, if_neg hk, if_pos (by omega), Option.or_none]
      · rw [if_neg hin, if_neg hk, if_neg (by omega)]
        rfl

/-! ### Tiles -/

section
variable (t : Task) (a : Nat) (f : Nat → Nat → Option W32)

theorem setTile_tiles : (t.setTile a f).tiles = (t.tiles.filter fun e => e.1 < 4096 * a)
    ++ ((List.range 4096).filterMap fun i => ((f (i / 256) (i % 256)).or (t.tiles.find (4096 * a + i))).map fun v => (4096 * a + i, v))
    ++ (t.tiles.filter fun e => 4096 * (a + 1) ≤ e.1) := by
  unfold Task.setTile
  generalize List.range 4096 = places
  dsimp only
  congr 3
  funext i
  cases f (i / 256) (i % 256) <;> rfl

theorem setTile_find {k : Nat} : Tab.find (t.setTile a f).tiles k =
    if 4096 * a ≤ k ∧ k < 4096 * (a + 1) then (f ((k - 4096 * a) / 256) ((k - 4096 * a) % 256)).or (t.tiles.find k)
    else t.tiles.find k := by
  have hmid := Tab.find_places (4096 * a) 4096 (fun i => (f (i / 256) (i % 256)).or (t.tiles.find (4096 * a + i))) k
  have hlow := Tab.find_filter t.tiles (fun j => decide (j < 4096 * a)) k
  have hhigh := Tab.find_filter t.tiles (fun j => decide (4096 * (a + 1) ≤ j)) k
  simp only [setTile_tiles, Tab.find_append, hmid, hlow, hhigh, decide_eq_true_eq]
  by_cases hin : 4096 * a ≤ k ∧ k < 4096 * (a + 1)
  · have hk : 4096 * a + (k - 4096 * a) = k := by omega
    rw [if_neg (by omega), if_pos (by omega), if_neg (by omega), if_pos hin, hk, Option.or_none]
    rfl
  · by_cases hk : k < 4096 * a
    · rw [if_pos hk, if_neg (by omega), if_neg (by omega), if_neg hin, Option.or_none, Option.or_none]
    · rw [if_neg hk, if_neg (by omega), if_pos (by omega), if_neg hin]
      rfl

/-- The elements of a tile that is replaced element by element. -/
theorem elem_setTile_same {r c : Nat} (hr : r < 16) (hc : c < 256) :
    (t.setTile a f).elem a r c = (f r c).getD (t.elem a r c) := by
  have hrow : (4096 * a + 256 * r + c - 4096 * a) / 256 = r := by omega
  have hcol : (4096 * a + 256 * r + c - 4096 * a) % 256 = c := by omega
  rw [Task.elem, Tab.get_eq_find, setTile_find, if_pos (by omega), hrow, hcol, Task.elem, Tab.get_eq_find]
  cases f r c <;> rfl

theorem elem_setTile_other {b r c : Nat} (hb : b ≠ a) (hr : r < 16) (hc : c < 256) : (t.setTile a f).elem b r c = t.elem b r c := by
  rw [Task.elem, Tab.get_eq_find, setTile_find, if_neg (by omega), Task.elem, Tab.get_eq_find]

end

/-! ### An MXM that its array takes -/

/-- The rows of a tile that an MXM overwrites, each by the bits of its columns. -/
def mxmRows (t : Task) (g : Guard) (o : MxmOp) (r : Nat) : Nat := if t.guardBit g r then 2 ^ o.cols - 1 else 0

/-- The task once its MXM has issued. -/
def mxmTask (t : Task) (g : Guard) (grp : Fin 8) (tile : Fin 8) (d : Fin 16) (o : MxmOp) (m : MxmData) : Task :=
  (((t.setTile tile.val fun r c => if c < o.cols && t.guardBit g r then some (o.elem m (t.elem tile.val r c) r c) else none).setDesc
    d o.advanced).join grp).advance

/-- The record of an MXM that state s accepts. -/
def mxmRecord (w : Who) (t : Task) (g : Guard) (grp : Fin 8) (minor : Fin 9) (tile : Fin 8) (o : MxmOp) (s : State) : AsyncOp :=
  AsyncOp.bind { AsyncOp.of s.nextOp w t grp.val "MXM" with
    tile := some tile.val, reads := o.reads s t, cells := (List.range 16).map (mxmRows t g o), minor := minor.val
    steps := if arrayIdle s w.core then 0 else o.depth * o.span } s ⟨if o.isLocal then [] else o.panelRows, []⟩

/-- What an MXM that overwrites its tile takes from the earlier ones. -/
def mxmOver (w : Who) (t : Task) (g : Guard) (tile : Fin 8) (o : MxmOp) (s : State) : State :=
  if o.acc then s else overwrite w tile.val (mxmRows t g o) s

/-- The state but for the record of the MXM. -/
def mxmTaken (w : Who) (t' : Task) (minor : Fin 9) (o : MxmOp) (s s0 : State) : State :=
  let s2 := (s0.setTask w t').modCore w.core fun c => { c with mxmQueue := c.mxmQueue ++ [s.nextOp] }
  if arrayIdle s w.core then countSteps (Who.die w) minor.val (o.depth * o.span) s2 else s2

/-- The state that an MXM leaves, by its task, its record and the unfinished and finished instructions beside it. -/
def mxmLeft (w : Who) (t' : Task) (minor : Fin 9) (o : MxmOp) (op : AsyncOp) (ops loose : List AsyncOp) (s : State) : State :=
  { (issued w s).setTask w t' with
    cores := ((issued w s).modCore w.core fun c => { c with mxmQueue := c.mxmQueue ++ [s.nextOp] }).cores
    dies := (if arrayIdle (issued w s) w.core then countSteps (Who.die w) minor.val (o.depth * o.span) s else s).dies
    ops := ops ++ [op], loose := loose, nextOp := s.nextOp + 1 }

theorem mxmOver_eq (w : Who) (t : Task) (g : Guard) (tile : Fin 8) (o : MxmOp) (s : State) : mxmOver w t g tile o s =
    { s with ops := (mxmOver w t g tile o s).ops, loose := (mxmOver w t g tile o s).loose } := by
  unfold mxmOver
  split <;> rfl

theorem mxmTaken_leaves {s s0 : State} {w : Who} (t' : Task) (minor : Fin 9) (o : MxmOp) (op : AsyncOp)
    (h0 : s0 = { issued w s with ops := s0.ops, loose := s0.loose }) :
    { mxmTaken w t' minor o (issued w s) s0 with
      ops := (mxmTaken w t' minor o (issued w s) s0).ops ++ [op], nextOp := s.nextOp + 1 }
      = mxmLeft w t' minor o op s0.ops s0.loose s := by
  generalize s0.ops = ops at *
  generalize s0.loose = loose at *
  subst h0
  unfold mxmTaken mxmLeft
  cases arrayIdle (issued w s) w.core <;> rfl

section
variable {s : State} {w : Who} {t : Task} {g : Guard} {grp : Fin 8} {minor : Fin 9} {tile : Fin 8} {ra : Fin 64} {d : Fin 16}
  {depthM1 : Fin 64} {spanM1 : Fin 8} {acc wt : Bool} {o : MxmOp} {m : MxmData}

theorem execMxm_takes (h : Ready s w t) (hlevel : minor.val < 7 ∨ t.level ≠ 1) (hr : t.groups.get 0 grp.val < 255)
    (hq : (s.core w.core).mxmQueue.length < 4) (hmove : moveOn s w tile.val = false)
    (ho : o = ⟨minor.val, (t.sreg ra).toNat, depthM1.val + 1, spanM1.val + 1, acc, wt, (t.desc d).toNat⟩) (hok : o.ok = true)
    (hread : o.read (issued w s) w t = .ok m) :
    exec (.mxm w g grp minor tile ra d depthM1 spanM1 acc wt) s = .next
      { mxmTaken w (mxmTask t g grp tile d o m) minor o (issued w s) (mxmOver w t g tile o (issued w s)) with
        ops := (mxmTaken w (mxmTask t g grp tile d o m) minor o (issued w s) (mxmOver w t g tile o (issued w s))).ops
          ++ [mxmRecord w t g grp minor tile o (issued w s)]
        nextOp := s.nextOp + 1 } := by
  have hfree : (decide (t.groups.get 0 grp.val ≥ 255) || arrayFull s w.core || moveOn s w tile.val) = false := by
    simp [arrayFull, hmove, hr, hq]
  have hlevel' : (decide (minor.val < 7) || level2 t) = true := by simpa [level2] using hlevel
  subst ho
  show execMxm w g grp minor tile ra d depthM1 spanM1 acc wt s = _
  unfold execMxm
  simp only [h.1, hfree, Bool.false_eq_true, if_false]
  rw [issue_ready h hlevel']
  simp only [hok, hread, Bool.not_true, Bool.false_eq_true, if_false]
  rfl

end

/-! ### What the MXM leaves -/

theorem mxm_elem (o : MxmOp) (m : MxmData) (old : W32) (r c : Nat) : o.elem m old r c = (List.range o.depth).foldl (fun x k =>
    if k = 0 ∧ o.acc = false then o.tree m k r c else round32 ((f32 x).add (f32 (o.tree m k r c)))) old := by
  unfold MxmOp.elem
  congr 1
  funext x k
  simp only [Bool.and_eq_true, decide_eq_true_eq, Bool.not_eq_true']
  rfl

section
variable (t : Task) (g : Guard) (grp : Fin 8) (tile : Fin 8) (d : Fin 16) (o : MxmOp) (m : MxmData)

theorem elem_issues (u : Task) (v : Rec) (a r c : Nat) : ((u.setDesc d v).join grp).advance.elem a r c = u.elem a r c := rfl

theorem mxmTask_tile : TileReads t (mxmTask t g grp tile d o m) tile fun r c =>
    if c < o.cols ∧ t.guardBit g r = true then o.elem m (t.elem tile.val r c) r c else t.elem tile.val r c := by
  unfold mxmTask
  refine ⟨fun r c hr hc => ?_, fun a r c ha hr hc => ?_⟩
  · rw [elem_issues, elem_setTile_same t tile.val _ hr hc]
    simp only [Bool.and_eq_true, decide_eq_true_eq]
    split <;> rfl
  · rw [elem_issues, elem_setTile_other t tile.val _ ha hr hc]

theorem mxmTask_desc_same : (mxmTask t g grp tile d o m).desc d = o.advanced := Task.desc_setDesc_same _ d _

theorem mxmTask_desc_other {e : Fin 16} (he : e ≠ d) : (mxmTask t g grp tile d o m).desc e = t.desc e :=
  Task.desc_setDesc_other _ he _

theorem mxmTask_joins : JoinsGroup t (mxmTask t g grp tile d o m) grp :=
  ⟨Tab.get_put_same .., fun _ hk => Tab.get_put_other 0 _ _ hk⟩

theorem setTile_rest (a : Nat) (f : Nat → Nat → Option W32) : { t.setTile a f with tiles := t.tiles } = t := rfl

theorem issues_rest (u : Task) (v : Rec) : { ((u.setDesc d v).join grp).advance with descs := u.descs, groups := u.groups }
    = { u with pc := u.pc + 8, status := .ready } := rfl

theorem mxmTask_rest : { mxmTask t g grp tile d o m with tiles := t.tiles, descs := t.descs, groups := t.groups }
    = { t with pc := t.pc + 8, status := .ready } := by
  unfold mxmTask
  have htile := fun f => congrArg (fun u : Task => { u with
    pc := u.pc + 8, status := .ready, tiles := t.tiles, descs := t.descs, groups := t.groups }) (setTile_rest t tile.val f)
  have hrest := fun u => congrArg (fun u : Task => { u with tiles := t.tiles, descs := t.descs, groups := t.groups })
    (issues_rest grp d u o.advanced)
  exact (hrest _).trans (htile fun r c =>
    if c < o.cols && t.guardBit g r then some (o.elem m (t.elem tile.val r c) r c) else none)

end

section
variable (w : Who) (t t' : Task) (g : Guard) (tile : Fin 8) (minor : Fin 9) (o : MxmOp) (s s0 : State)

/-- What an MXM overwrites changes no more than the standing of earlier results. -/
theorem mxmOver_unspoiled : unspoiled (mxmOver w t g tile o s).ops = unspoiled s.ops
    ∧ unspoiled (mxmOver w t g tile o s).loose = unspoiled s.loose := by
  unfold mxmOver
  split
  · exact ⟨rfl, rfl⟩
  · exact ⟨unspoiled_map (fun o => by split <;> rfl) _, unspoiled_map (fun o => by split <;> rfl) _⟩

theorem mxmOver_loose (ha : o.acc = true) : (mxmOver w t g tile o s).loose = s.loose := by
  unfold mxmOver
  rw [if_pos ha]

section
variable (op : AsyncOp) (ops loose : List AsyncOp)

theorem mxmLeft_task (x : Who) : (mxmLeft w t' minor o op ops loose s).task x = ((issued w s).setTask w t').task x := rfl

theorem mxmLeft_core (c : Nat) : (mxmLeft w t' minor o op ops loose s).core c
    = ((issued w s).modCore w.core fun c => { c with mxmQueue := c.mxmQueue ++ [s.nextOp] }).core c := rfl

theorem mxmLeft_dies : (mxmLeft w t' minor o op ops loose s).dies = (if arrayIdle (issued w s) w.core
    then countSteps (Who.die w) minor.val (o.depth * o.span) s else s).dies := rfl

theorem mxmLeft_core_same : (mxmLeft w t' minor o op ops loose s).core w.core = { (issued w s).core w.core with
    mxmQueue := (s.core w.core).mxmQueue ++ [s.nextOp] } := by
  have hqueue : ((issued w s).core w.core).mxmQueue = (s.core w.core).mxmQueue := by rw [issued_core]; rfl
  rw [← hqueue, mxmLeft_core, State.core_modCore_same]

theorem mxmLeft_core_other {c : Nat} (hc : c ≠ w.core) : (mxmLeft w t' minor o op ops loose s).core c = s.core c := by
  rw [mxmLeft_core, State.core_modCore_other _ hc, issued_other w s hc]

theorem mxmLeft_sameBytes : SameBytes s (mxmLeft w t' minor o op ops loose s) := by
  refine ⟨fun _ _ => rfl, fun c a => congrArg (Memory.byte · a) ?_⟩
  by_cases hc : c = w.core
  · subst hc
    rw [mxmLeft_core_same, issued_core]
    rfl
  · rw [mxmLeft_core_other w t' minor o s op ops loose hc]

theorem mxmLeft_rest : { mxmLeft w t' minor o op ops loose s with
    tasks := s.tasks, ops := s.ops, loose := s.loose, nextOp := s.nextOp, cores := s.cores, dies := s.dies } = s := rfl

end

theorem countSteps_acts (die n k : Nat) : ((countSteps die minor.val n s).die die).acts.get 0 k =
    if k = minor.val then min (2 ^ 48 - 1) ((s.die die).acts.get 0 k + n) else (s.die die).acts.get 0 k := by
  rw [countSteps, State.die_modDie_same]
  split
  next hk =>
    subst hk
    exact Tab.bump_get _ _ _
  next hk => exact Tab.get_put_other 0 _ _ hk

theorem countSteps_rest (die n : Nat) :
    { (countSteps die minor.val n s).die die with acts := [] } = { s.die die with acts := [] } := by
  rw [countSteps, State.die_modDie_same]

theorem countSteps_other {die j : Nat} (n : Nat) (hj : j ≠ die) : (countSteps die minor.val n s).die j = s.die j :=
  State.die_modDie_other s hj _

theorem mxmRecord_fields (grp : Fin 8) :
    let op := mxmRecord w t g grp minor tile o s
    op.id = s.nextOp ∧ op.who = w ∧ op.ctx = t.ctx ∧ op.hostSeq = t.hostSeq ∧ op.group = grp.val ∧ op.name = "MXM"
      ∧ op.steps = if arrayIdle s w.core then 0 else o.depth * o.span := ⟨rfl, rfl, rfl, rfl, rfl, rfl, rfl⟩

theorem arrayIdle_issued : arrayIdle (issued w s) w.core
    = ((s.core w.core).mxmQueue.isEmpty && !(s.die (w.core / 64)).droop.getLsbD (w.core % 64 / 16)) := by
  unfold arrayIdle
  rw [issued_core]
  rfl

end

end Sys2Proof.Machine
end

section

namespace Sys2Proof

open Machine

/-- Settles O15: the state of `execMxm_takes`, part by part. -/
theorem mxmAccumulatesItsProduct : Obligations.MxmAccumulatesItsProduct := by
  unfold Obligations.MxmAccumulatesItsProduct
  intro s w t g grp minor tile ra d depthM1 spanM1 acc wt o m h hlevel hr hq hmove ho hok hread
  have hexec := (execMxm_takes (g := g) h hlevel hr hq hmove ho hok hread).trans (congrArg _ (mxmTaken_leaves
    (mxmTask t g grp tile d o m) minor o (mxmRecord w t g grp minor tile o (issued w s)) (mxmOver_eq w t g tile o (issued w s))))
  have hdepth : o.depth = depthM1.val + 1 := ho ▸ rfl
  have hspan : o.span = spanM1.val + 1 := ho ▸ rfl
  have hacc : o.acc = acc := ho ▸ rfl
  have hcols : o.cols = 32 * (spanM1.val + 1) := ho ▸ rfl
  have htile : TileReads t (mxmTask t g grp tile d o m) tile _ := mxmTask_tile t g grp tile d o m
  simp only [mxm_elem, hdepth, hcols, hacc] at htile
  have hdesc := mxmTask_desc_same t g grp tile d o m
  have hdescs : ∀ e, e ≠ d → (mxmTask t g grp tile d o m).desc e = t.desc e := fun e he => mxmTask_desc_other t g grp tile d o m he
  have hjoins := mxmTask_joins t g grp tile d o m
  have hrest := mxmTask_rest t g grp tile d o m
  have hrecord := mxmRecord_fields w t g tile minor o (issued w s) grp
  have hover := mxmOver_unspoiled w t g tile o (issued w s)
  have hloose := mxmOver_loose w t g tile o (issued w s)
  have hidle := arrayIdle_issued w s
  generalize mxmTask t g grp tile d o m = t' at *
  generalize mxmRecord w t g grp minor tile o (issued w s) = op at *
  generalize mxmOver w t g tile o (issued w s) = s0 at *
  obtain ⟨hid, hwho, hctx, hseq, hgroup, hname, hsteps⟩ := hrecord
  obtain ⟨hops, hkept⟩ := hover
  rw [hidle] at hsteps
  have hdies := mxmLeft_dies w t' minor o s op s0.ops s0.loose
  rw [hidle, hdepth, hspan] at hdies
  rw [hdepth, hspan] at hsteps
  refine ⟨_, t', hexec, (mxmLeft_task ..).trans (State.task_setTask_same _ w t'), htile, hdesc, hdescs, hjoins, hrest,
    ⟨rfl, s0.ops, op, rfl, hops, hid, hwho, hctx, hseq, hgroup, hname⟩,
    fun x hx => (mxmLeft_task ..).trans ((State.task_setTask_other _ hx t').trans (issued_task ..)), mxmLeft_sameBytes ..,
    hkept, fun ha => hloose (hacc.trans ha), fun c hc => mxmLeft_core_other w t' minor o s op _ _ hc, ?core, ?queue, fun hempty hdroop => ?idle,
    fun hbusy => ?busy, mxmLeft_rest ..⟩
  case core => rw [mxmLeft_core_same]
  case queue => rw [mxmLeft_core_same]
  case idle =>
    rw [hempty, hdroop] at hdies
    have hdie : ∀ j, (mxmLeft w t' minor o op s0.ops s0.loose s).die j
        = (countSteps (w.core / 64) minor.val ((depthM1.val + 1) * (spanM1.val + 1)) s).die j :=
      fun j => congrArg (fun l : Tab Die => l.get _ j) hdies
    simp only [hdie]
    exact ⟨countSteps_acts minor s _ _, countSteps_rest minor s _ _, fun j hj => countSteps_other minor s _ hj⟩
  case busy =>
    have hoff : ((s.core w.core).mxmQueue.isEmpty && !(s.die (w.core / 64)).droop.getLsbD (w.core % 64 / 16)) = false := by
      rcases hbusy with hq | hdroop
      · simp [hq]
      · rw [hdroop, Bool.not_true, Bool.and_false]
    rw [hoff] at hdies hsteps
    exact ⟨hdies, op, List.mem_append_right _ (List.mem_singleton_self op), hid, hsteps⟩

end Sys2Proof
end

section
/-! SUPPORT. The tasks of a core saved and restored (04_selod_isa.md R110 to R116). -/

namespace Sys2Proof.Machine

open Sys2Proof

/-! ### What a write leaves of the work under way -/

/-- No write sets a fence, saves an ordinal, changes a task but for its tiles, or changes the unfinished instructions but for their
marks. -/
structure KeepsWork (s s' : State) : Prop where
  fence : s'.fence = s.fence
  saved : s'.saved = s.saved
  nextOp : s'.nextOp = s.nextOp
  ops : unspoiled s'.ops = unspoiled s.ops
  tasks : ∀ x : Who, (s'.task x).map Task.untiled = (s.task x).map Task.untiled

theorem KeepsWork.trans {s s' s'' : State} (h : KeepsWork s s') (h' : KeepsWork s' s'') : KeepsWork s s'' :=
  ⟨h'.fence.trans h.fence, h'.saved.trans h.saved, h'.nextOp.trans h.nextOp, h'.ops.trans h.ops, fun x => (h'.tasks x).trans (h.tasks x)⟩

theorem KeepsWork.of_eq {s s' : State} (hf : s'.fence = s.fence) (hs : s'.saved = s.saved) (hn : s'.nextOp = s.nextOp)
    (ho : s'.ops = s.ops) (ht : s'.tasks = s.tasks) : KeepsWork s s' :=
  ⟨hf, hs, hn, congrArg unspoiled ho, fun x => congrArg (fun l => (Tab.find l (Who.key x)).map Task.untiled) ht⟩

theorem KeepsWork.foldlM {α : Type} {f : State → α → Except Bad State} (hf : ∀ {x a x'}, f x a = .ok x' → KeepsWork x x')
    (l : List α) {s s' : State} (h : l.foldlM f s = .ok s') : KeepsWork s s' := by
  induction l generalizing s with
  | nil => exact Except.ok.inj h ▸ .of_eq rfl rfl rfl rfl rfl
  | cons a r ih =>
    obtain ⟨x, hx, hr⟩ := ok_of_bind (List.foldlM_cons (f := f) ▸ h)
    exact (hf hx).trans (ih hr)

theorem noteWrote_keepsWork (c : Nat) (t : Tier) (frame : Nat) (s : State) : KeepsWork s (noteWrote c t frame s) := by
  rcases noteWrote_cases c t frame s with h | h <;> rw [h]
  · exact .of_eq rfl rfl rfl rfl rfl
  · exact .of_eq rfl rfl rfl rfl rfl

theorem lapse_keepsWork (c cause frame : Nat) (s : State) : KeepsWork s (lapse c cause frame s) := .of_eq rfl rfl rfl rfl rfl

theorem touch_keepsWork (w : Writer) (t : Tier) (frame : Nat) (s : State) : KeepsWork s (touch w t frame s) := by
  have hnote := noteWrote_keepsWork w.ctx t frame s
  unfold touch
  dsimp only
  split
  · exact hnote
  · split
    · exact hnote
    · exact hnote.trans (.of_eq rfl rfl rfl rfl rfl)

theorem rawWriteOf_keepsWork (own : Option Nat) (t : Tier) (a n : Nat) (cs : List Host.Cell) (s : State) :
    KeepsWork s (rawWriteOf own t a n cs s) :=
  have h := rawWriteOf_writes own t a n cs s
  ⟨(congrArg (fun x : State => x.fence) h.rest :), (congrArg (fun x : State => x.saved) h.rest :),
    (congrArg (fun x : State => x.nextOp) h.rest :), h.ops, h.tasks⟩

theorem memWrite_keepsWork (w : Writer) (t : Tier) (a n : Nat) (cs : List Host.Cell) (s : State) :
    KeepsWork s (memWrite w t a n cs s) := by
  have htouch := touch_keepsWork w t (a / 65536) s
  unfold memWrite
  split
  · exact (noteWrote_keepsWork w.ctx t _ s).trans (rawWriteOf_keepsWork _ _ _ _ _ _)
  · dsimp only
    split
    · exact htouch.trans (rawWriteOf_keepsWork _ _ _ _ _ _)
    · split
      · exact htouch.trans (.of_eq rfl rfl rfl rfl rfl)
      · split
        · exact htouch.trans ((lapse_keepsWork _ _ _ _).trans (rawWriteOf_keepsWork _ _ _ _ _ _))
        · exact htouch.trans (.of_eq rfl rfl rfl rfl rfl)

theorem writePieces_keepsWork (w : Writer) (ps : List Piece) (cs : List Host.Cell) (off : Nat) (s : State) :
    KeepsWork s (writePieces w ps cs off s) := by
  induction ps generalizing off s with
  | nil => exact .of_eq rfl rfl rfl rfl rfl
  | cons e r ih =>
    obtain ⟨t, a, n⟩ := e
    exact (memWrite_keepsWork w t a n _ s).trans (ih _ _)

theorem devWrite_keepsWork {w : Writer} {u : Use} {a : Nat} {bs : List Byte} {s s' : State}
    (h : devWrite s w u a bs = .ok s') : KeepsWork s s' := by
  obtain ⟨ps, -, -, rfl⟩ := devWrite_range h
  exact writePieces_keepsWork w ps _ 0 s

theorem writeArea_keepsWork {c : Nat} {h : RunHeader} {e : Who × Task} {s s' : State} (hs : writeArea c h e s = .ok s') :
    KeepsWork s s' := by
  obtain ⟨x, hbody, hheader⟩ := ok_of_bind hs
  exact (devWrite_keepsWork hbody).trans (devWrite_keepsWork hheader)

/-! ### Saving -/

/-- No fence waits for a core: none ends. -/
theorem settleFences_of_waiting_nil {s : State} (h : s.fence.waiting = []) : settleFences s = s := by
  have hfence : { s.fence with waiting := [] } = s.fence := h ▸ rfl
  unfold settleFences
  simp only [h, List.filter_nil, List.foldl_nil, hfence]

theorem drainCore_of_no_ops {s : State} {core : Nat} (h : ∀ o ∈ s.ops, o.who.core ≠ core) : drainCore core s = s := by
  have hnone : s.ops.filter (fun o => o.who.core = core) = [] :=
    List.filter_eq_nil_iff.mpr fun o ho => by simpa using h o ho
  rw [drainCore, hnone]
  rfl

/-- The record of a core's tasks. -/
def savedRecord (core : Nat) (why : SaveWhy) (c : Nat) (p : Parcel) (foot : Nat) (e : Who × Task) (r : List (Who × Task)) :
    SavedOrdinal :=
  ⟨c, p.hostSeq, e.2.ordinal, core, foot,
    (e :: r).map fun e => (e.1.slot, { e.2 with status := if savedWaiting e.2 then .waitDesched else .ready }, !savedWaiting e.2),
    decide (why = .rebalance)⟩

/-- A save that is made writes first; then the tasks of its core are gone and one record of them is kept. -/
theorem writeCore_saves {core c : Nat} {why : SaveWhy} {p : Parcel} {h : RunHeader} {e : Who × Task} {r : List (Who × Task)}
    {s s' : State} (hs : writeCore core why c p h (e :: r) s = .ok s') : ∃ s2, KeepsWork s s2
      ∧ s'.fence = s2.fence ∧ s'.tasks = s2.tasks.filter (fun e => e.1 / 4 ≠ core)
      ∧ s'.saved = s2.saved ++ [savedRecord core why c p ((s.core core).footprint.getD 0) e r] := by
  obtain ⟨-, -, hs⟩ := ok_of_bind hs
  obtain ⟨-, -, hs⟩ := ok_of_bind hs
  obtain ⟨dst, -, hs⟩ := ok_of_bind hs
  obtain ⟨s2, hareas, hs⟩ := ok_of_bind hs
  obtain rfl := Except.ok.inj hs
  exact ⟨s2, (writePieces_keepsWork _ _ _ _ _).trans (.foldlM writeArea_keepsWork _ hareas), rfl, rfl, rfl⟩

theorem find_filter_core (l : Tab Task) (core : Nat) {x : Who} (hx : x.core + x.slot / 4 ≠ core) :
    Tab.find (l.filter fun e => e.1 / 4 ≠ core) (Who.key x) = Tab.find l (Who.key x) := by
  have hkey : Who.key x / 4 ≠ core := by unfold Who.key; omega
  rw [Tab.find_filter l (fun k => k / 4 ≠ core), if_pos (by simpa using hkey)]

theorem coreTasks_filter_core {s : State} {l : Tab Task} {core : Nat} (h : s.tasks = l.filter fun e => e.1 / 4 ≠ core) :
    s.coreTasks core = [] := by
  simp [State.coreTasks, h, List.filter_filter]

theorem saveCore_saves {core : Nat} {why : SaveWhy} {s s1 : State} {e : Who × Task} {r : List (Who × Task)} {p : Parcel}
    {h : RunHeader} (hfence : s.fence.waiting = []) (htasks : s.coreTasks core = e :: r)
    (hp : s.parcel e.2.ctx e.2.hostSeq = some p) (hh : p.header = some h)
    (hs : writeCore core why e.2.ctx p h (e :: r) s = .ok s1) : saveCore core why s = s1 := by
  obtain ⟨s2, hkeeps, hfence1, -⟩ := writeCore_saves hs
  have hwaiting : s1.fence.waiting = [] := by rw [hfence1, hkeeps.fence, hfence]
  unfold saveCore
  rw [htasks]
  dsimp only
  rw [hp]
  dsimp only
  rw [hh]
  dsimp only
  rw [hs]
  exact settleFences_of_waiting_nil hwaiting

section
variable {s : State} {core : Nat} {why : SaveWhy} (hactive : s.active = true)
include hactive

theorem execTaskSave_empty (hfence : s.fence.waiting = []) (h : s.coreTasks core = []) : execTaskSave core why s = .next s := by
  unfold execTaskSave
  simp only [hactive, h, Bool.not_true, Bool.false_eq_true, if_false, List.isEmpty_nil, if_true, settleFences_of_waiting_nil hfence]
  rfl

theorem execTaskSave_cannot (h : s.coreTasks core ≠ []) (hsaving : (s.core core).saving = false)
    (hcan : canSave s core why = false) : execTaskSave core why s = .next s := by
  unfold execTaskSave
  simp [hactive, h, hsaving, hcan, go]

/-- A save that may begin, or has begun, drains its core and is made once nothing of it is left to wait for. -/
theorem execTaskSave_drains (h : s.coreTasks core ≠ []) (hcan : (s.core core).saving = true ∨ canSave s core why = true) :
    execTaskSave core why s =
      let s1 := drainCore core (s.modCore core fun c => { c with saving := true })
      if (s1.ops.any fun o => o.who.core = core) then go s1 else go (saveCore core why s1) := by
  have hgo : (!(s.core core).saving && !canSave s core why) = false := by
    rcases hcan with h | h <;> simp [h]
  unfold execTaskSave
  simp only [hactive, List.isEmpty_iff, h, hgo, Bool.not_true, Bool.false_eq_true, if_false]

end

/-! ### Restoring -/

theorem execTaskRestore_eq {s : State} {ctx ordinal core : Nat} {hostSeq : W32} {o : SavedOrdinal} {p : Parcel} {h : RunHeader}
    (hactive : s.active = true)
    (ho : s.saved.find? (fun x => decide (x.ctx = ctx) && decide (x.hostSeq = hostSeq) && decide (x.ordinal = ordinal)) = some o)
    (hp : s.parcel ctx hostSeq = some p) (hh : p.header = some h) : execTaskRestore ctx hostSeq ordinal core s =
      if !coreFree s core || !(o.atOnce || o.tasks.any fun t => t.2.2) then go s
      else match restoreOrdinal o p h core s with
        | .ok s' => go s'
        | .error b => go (parcelFault ctx p b s) := by
  unfold execTaskRestore
  rw [ho]
  dsimp only
  rw [hp]
  dsimp only
  rw [hh]
  dsimp only
  rw [hactive]
  rfl

theorem setTask_task_isSome {s : State} {w x : Who} {t : Task} (h : (s.task x).isSome = true) :
    ((s.setTask w t).task x).isSome = true := by
  by_cases hx : Who.key x = Who.key w
  · simp [State.task, State.setTask, hx]
  · rw [State.task_setTask_other s hx t, h]

/-- Every task that a series of writes to slots names is in its slot after it. -/
theorem foldl_setTask_isSome {α : Type} (slot : α → Who) (image : α → Task) (l : List α) (s : State) {x : Who}
    (h : (s.task x).isSome = true ∨ ∃ a ∈ l, slot a = x) :
    ((l.foldl (fun (y : State) a => y.setTask (slot a) (image a)) s).task x).isSome = true := by
  induction l generalizing s with
  | nil => simpa using h
  | cons a r ih =>
    refine ih _ ?_
    rcases h with h | ⟨b, hb, rfl⟩
    · exact .inl (setTask_task_isSome h)
    · rcases List.mem_cons.mp hb with rfl | hb
      · exact .inl (by rw [State.task_setTask_same]; rfl)
      · exact .inr ⟨b, hb, rfl⟩

/-- Every entry of a list that is read in full stands with what was read for it. -/
theorem mem_of_mapM_ok {α β : Type} {f : α → Except Bad β} {l : List α} {ys : List β} (h : l.mapM f = .ok ys) {x : α} (hx : x ∈ l) :
    ∃ y ∈ ys, f x = .ok y := by
  induction l generalizing ys with
  | nil => cases hx
  | cons a r ih =>
    rw [List.mapM_cons] at h
    obtain ⟨y, hy, h⟩ := ok_of_bind h
    obtain ⟨zs, hzs, h⟩ := ok_of_bind h
    obtain rfl := Except.ok.inj h
    rcases List.mem_cons.mp hx with rfl | hr
    · exact ⟨y, List.mem_cons_self, hy⟩
    · obtain ⟨z, hz, hfz⟩ := ih hzs hr
      exact ⟨z, List.mem_cons_of_mem y hz, hfz⟩

/-- A restored ordinal is not saved any more, and each of its tasks has its slot. -/
theorem restoreOrdinal_restores {o : SavedOrdinal} {p : Parcel} {h : RunHeader} {core : Nat} {s s1 : State}
    (hs : restoreOrdinal o p h core s = .ok s1) :
    (∀ x ∈ s1.saved, ¬ (x.ctx = o.ctx ∧ x.hostSeq = o.hostSeq ∧ x.ordinal = o.ordinal))
      ∧ ∀ x ∈ o.tasks, (s1.task ⟨core, x.1⟩).isSome = true := by
  obtain ⟨areas, hareas, hs⟩ := ok_of_bind hs
  split at hs
  · split at hs <;> cases hs
  · obtain ⟨cis, -, hs⟩ := ok_of_bind hs
    obtain rfl := Except.ok.inj hs
    refine ⟨fun x hx => ?_, fun x hx => ?_⟩
    · rintro ⟨hctx, hseq, hordinal⟩
      have hkept := (List.mem_filter.mp hx).2
      simp [hctx, hseq, hordinal] at hkept
    · obtain ⟨a, ha, hread⟩ := mem_of_mapM_ok hareas hx
      obtain ⟨bs, -, hbs⟩ := ok_of_bind hread
      obtain rfl := Except.ok.inj hbs
      exact foldl_setTask_isSome (fun b : (Nat × Task × Bool) × List Byte => ⟨core, b.1.1⟩) _ areas _ (.inr ⟨_, ha, rfl⟩)

end Sys2Proof.Machine
end

section
namespace Sys2Proof

open Machine

/-- Settles O49: a save that waits for nothing is its writes, which leave every task but for its tiles, and then the step that
takes the tasks off their core. -/
theorem coresAreSavedAndRestored : Obligations.CoresAreSavedAndRestored := by
  unfold Obligations.CoresAreSavedAndRestored
  refine ⟨fun s core why hactive hfence => ⟨execTaskSave_empty hactive hfence, execTaskSave_cannot hactive,
    fun e r s0 htasks hcan hs0 => ?_⟩, fun s s1 ctx ordinal core hostSeq o p h hactive ho hp hh => ?_⟩
  · have hdrains := execTaskSave_drains hactive (htasks ▸ List.cons_ne_nil e r) hcan
    change s0 = s.modCore core fun c => { c with saving := true } at hs0
    rw [← hs0] at hdrains
    refine ⟨fun hleft => hdrains.trans (if_pos (by simpa using hleft)), fun p h s1 hops hp hh hs => ?_⟩
    have hdrained : drainCore core s0 = s0 := drainCore_of_no_ops (hs0 ▸ hops)
    have hnone : (s0.ops.any fun o => o.who.core = core) = false := by
      rw [hs0, List.any_eq_false]
      simpa using hops
    have hsaved : saveCore core why s0 = s1 :=
      saveCore_saves (hs0 ▸ hfence) (hs0 ▸ htasks) (hs0 ▸ hp) hh hs
    obtain ⟨s2, hkeeps, -, htasks1, hsaved1⟩ := writeCore_saves hs
    refine ⟨s1, savedRecord core why e.2.ctx p ((s0.core core).footprint.getD 0) e r, ?_, coreTasks_filter_core htasks1, ?_,
      rfl, rfl, rfl, ?_, fun x hx => ?_⟩
    · refine hdrains.trans ?_
      dsimp only
      rw [hdrained, hnone, hsaved]
      rfl
    · rw [hsaved1, hkeeps.saved, hs0]
      rfl
    · simp [savedRecord]
    · have hfind : s1.task x = s2.task x := by
        rw [State.task, htasks1, find_filter_core _ _ hx]
        rfl
      rw [hfind, hkeeps.tasks x, hs0]
      rfl
  · have heq := execTaskRestore_eq (core := core) hactive ho hp hh
    have hids : (o.ctx = ctx ∧ o.hostSeq = hostSeq) ∧ o.ordinal = ordinal := by
      simpa using List.find?_some ho
    obtain ⟨⟨rfl, rfl⟩, rfl⟩ := hids
    refine ⟨fun hfree => heq.trans (if_pos (by simp [hfree])), fun honce hnone => heq.trans (if_pos ?_),
      fun hfree hwanted hs => ⟨heq.trans ((if_neg ?_).trans ?_), restoreOrdinal_restores hs⟩⟩
    · have hany : (o.tasks.any fun t => t.2.2) = false := List.any_eq_false.mpr fun x hx => by simp [hnone x hx]
      simp [honce, hany]
    · have hany : (o.atOnce || o.tasks.any fun t => t.2.2) = true := by
        rw [Bool.or_eq_true, List.any_eq_true]
        exact hwanted
      simp [hfree, hany]
    · rw [hs]
      rfl

end Sys2Proof
end

section
/-! SUPPORT. What an asynchronous instruction leaves once it has issued: its record, its task, and the bytes of the memories
(04_selod_isa.md R90). -/

namespace Sys2Proof.Machine

open Sys2Proof

/-! ### The bytes of the memories -/

/-- The tiers and the cisterns hold what they held. -/
structure SameStore (s s' : State) : Prop where
  mem : s'.mem = s.mem
  cis : ∀ c, s'.cis c = s.cis c

theorem SameStore.of_eq {s s' : State} (hm : s'.mem = s.mem) (hc : s'.cores = s.cores) : SameStore s s' :=
  ⟨hm, fun c => by rw [State.cis, State.cis, State.core, State.core, hc]⟩

theorem SameStore.trans {s s' s'' : State} (h : SameStore s s') (h' : SameStore s' s'') : SameStore s s'' :=
  ⟨h'.mem.trans h.mem, fun c => (h'.cis c).trans (h.cis c)⟩

theorem SameStore.byteAt {s s' : State} (h : SameStore s s') (t : Tier) (a : Nat) : s'.byteAt t a = s.byteAt t a := by
  rw [State.byteAt, State.byteAt, h.mem]

theorem SameStore.cisByte {s s' : State} (h : SameStore s s') (c a : Nat) : s'.cisByte c a = s.cisByte c a :=
  congrArg (Memory.byte · a) (h.cis c)

theorem SameStore.near {s s' : State} (h : SameStore s s') (b n : Nat) : s'.near b n = s.near b n :=
  List.map_congr_left fun i _ => h.byteAt .near (b + i)

theorem SameStore.sameBytes {s s' : State} (h : SameStore s s') : SameBytes s s' := ⟨h.byteAt, h.cisByte⟩

theorem WritesTier.between {s x y s' : State} {t : Tier} {a : Nat} {bs : List Byte} (h : WritesTier x y t a bs)
    (hbefore : SameStore s x) (hafter : SameStore y s') : WritesTier s s' t a bs := by
  obtain ⟨hin, hout, hcis⟩ := h
  exact ⟨fun i hi => (hafter.byteAt _ _).trans (hin i hi),
    fun u k hk => (hafter.byteAt u k).trans ((hout u k hk).trans (hbefore.byteAt u k)),
    fun c k => (hafter.cisByte c k).trans ((hcis c k).trans (hbefore.cisByte c k))⟩

theorem WritesCistern.between {s x y s' : State} {core a : Nat} {bs : List Byte} (h : WritesCistern x y core a bs)
    (hbefore : SameStore s x) (hafter : SameStore y s') : WritesCistern s s' core a bs := by
  obtain ⟨hown, hothers, htiers⟩ := h
  refine ⟨fun k => (hafter.cisByte core k).trans ((hown k).trans ?_),
    fun c k hc => (hafter.cisByte c k).trans ((hothers c k hc).trans (hbefore.cisByte c k)),
    fun u k => (hafter.byteAt u k).trans ((htiers u k).trans (hbefore.byteAt u k))⟩
  simp only [bytesOver, hbefore.cisByte]

/-! ### Writes -/

theorem noteWrote_sameStore (c : Nat) (t : Tier) (frame : Nat) (s : State) : SameStore s (noteWrote c t frame s) := by
  rcases noteWrote_cases c t frame s with h | h <;> rw [h]
  · exact .of_eq rfl rfl
  · exact .of_eq rfl rfl

theorem noting_sameStore (by' : Writer) (t : Tier) (frame : Nat) (s : State) : SameStore s (noting by' t frame s) := by
  have hnote := noteWrote_sameStore by'.ctx t frame s
  unfold noting touch
  dsimp only
  split
  · exact hnote
  · split
    · exact hnote
    · split
      · exact hnote
      · exact hnote.trans (.of_eq rfl rfl)

/-- A write to a frame that waits for no first-touch copy writes its bytes. -/
theorem memWrite_writesTier {s : State} (by' : Writer) {t : Tier} {a n : Nat} {cs : List Host.Cell} {bs : List Byte}
    (hwf : s.mem.wf = true) (hcs : Memory.wf cs = true) (hn : bs.length = n) (hbs : ∀ i, i < n → Memory.byte cs i = bs.getD i 0)
    (ht : t ≠ .flash) (hu : uncopiedOwner s t (a / 65536) = none) : WritesTier s (memWrite by' t a n cs s) t a bs := by
  have hnoted := noting_sameStore by' t (a / 65536) s
  rw [memWrite_copied by' n cs ht hu]
  exact ((rawWriteOf_writes by'.op t a n cs _).writesTier (hnoted.mem ▸ hwf) hcs hn hbs).between hnoted (.of_eq rfl rfl)

/-- A write that leads to the near tier is made. -/
theorem devWrite_near {s : State} {by' : Writer} {tiers : List Tier} {a b n : Nat} {bs : List Byte} (hwf : s.mem.wf = true)
    (hn : bs.length = n) (h : WritesNear s by'.ctx tiers a n b) :
    ∃ s', devWrite s by' (Use.of 1 tiers) a bs = .ok s' ∧ WritesTier s s' .near b bs := by
  obtain ⟨hr, hdown, hu⟩ := h
  have hclocks : checkClocks s a [(.near, b, n)] = .ok () := by simp only [checkClocks, hdown]
  have hcells := cellsOf_wf 0 bs
  exact ⟨_, devWrite_ok hn hr hclocks, memWrite_writesTier by' hwf (memory_slice_wf 0 n hcells) hn
    (fun i hi => (byte_slice hcells hi).trans (get_cellsOf 0 bs i)) (by decide) hu⟩

section
variable {s : State} {core : Nat} {f : Nat → Byte} {s' : State}

/-- What a write of the cistern leaves of the work under way. -/
theorem PutsInCistern.keepsWork (h : PutsInCistern s s' core f) : KeepsWork s s' :=
  ⟨(congrArg (fun x : State => x.fence) h.rest :), (congrArg (fun x : State => x.saved) h.rest :),
    (congrArg (fun x : State => x.nextOp) h.rest :), h.ops, h.tasks⟩

theorem PutsInCistern.writesCistern {a : Nat} {bs : List Byte} (h : PutsInCistern s s' core (bytesOver (s.cisByte core) a bs)) :
    WritesCistern s s' core a bs :=
  ⟨h.bytes, fun c k hc => congrArg (fun x : Core => Memory.byte x.cistern k) (h.others c hc),
    fun u k => (congrArg (fun x : State => x.byteAt u k) h.rest :)⟩

theorem cisPut_puts (hwf : Memory.wf (s.cis core) = true) (a : Nat) (bs : List Byte) :
    PutsInCistern s (cisPut core a bs s) core (bytesOver (s.cisByte core) a bs) := (PutsInCistern.refl hwf).put a bs

end

/-! ### Reads -/

theorem near_length (s : State) (b n : Nat) : (s.near b n).length = n := by simp [State.near]

/-- A part of what a read finds. -/
theorem near_part {s : State} {b n k m : Nat} (h : k + m ≤ n) : ((s.near b n).drop k).take m = s.near (b + k) m := by
  apply List.ext_getElem
  · simp [near_length]; omega
  · intro i _ _
    simp [State.near, Nat.add_assoc]

section
variable {s : State} {ctx a n b : Nat} {tiers : List Tier} (h : ReadsNear s ctx tiers a n b)
include h

theorem ReadsNear.checkPieces : checkPieces s a [(.near, b, n)] = .ok () := by
  obtain ⟨-, hc⟩ := h
  simp only [Machine.checkPieces, hc]
  rfl

theorem devRead_near : devRead s ctx (Use.of 0 tiers) a n = .ok (s.near b n) := by
  refine (bind_ok h.1).trans ((bind_ok h.checkPieces).trans ?_)
  exact congrArg Except.ok (List.append_nil _)

end

/-- The near tier lies behind no I/O die. -/
theorem reachCheck_near (s : State) (b n : Nat) : reachCheck s [(.near, b, n)] = .ok () := rfl

theorem engPieces_near {s : State} {ctx a n b : Nat} {u : Use} (h : range s ctx u a n = .ok [(.near, b, n)]) :
    engPieces s ctx u a n = .ok [(.near, b, n)] := (bind_ok h).trans rfl

theorem engRead_near {s : State} {ctx a n b : Nat} {tiers : List Tier} (h : ReadsNear s ctx tiers a n b) :
    engRead s ctx (Use.of 0 tiers) a n = .ok (s.near b n) := by
  refine (bind_ok (engPieces_near h.1)).trans ((bind_ok h.checkPieces).trans ?_)
  exact congrArg Except.ok (List.append_nil _)

/-- An index list in the near tier. -/
theorem readIndices_near {s : State} {ctx kind a count b : Nat} (keys : Bool)
    (h : ReadsNear s ctx nearFar a (count * entryBytes kind) b) : readIndices s ctx kind keys a count = .ok ((List.range count).map
      fun i => entryIndex kind keys (leNat (s.near (b + i * entryBytes kind) (entryBytes kind)))) := by
  refine (bind_ok (engRead_near h)).trans (congrArg Except.ok (List.map_congr_left fun i hi => ?_))
  have hin : i * entryBytes kind + entryBytes kind ≤ count * entryBytes kind := by
    rw [← Nat.succ_mul]
    exact Nat.mul_le_mul_right _ (List.mem_range.mp hi)
  rw [near_part hin]

/-! ### The issue -/

/-- The state in which an asynchronous instruction is accepted. -/
def accepted (w : Who) (t : Task) (grp : Fin 8) (s : State) : State :=
  { (issued w s).setTask w (t.join grp).advance with nextOp := s.nextOp + 1 }

/-- The state in which its record has joined the unfinished instructions. -/
def joined (s : State) (op : AsyncOp) (s1 : State) : State :=
  ownHeld s.dg.held.length op.id { s1 with ops := s1.ops ++ [op] }

/-- The record of an instruction that is accepted. -/
structure RecordOf (op : AsyncOp) (s : State) (w : Who) (t : Task) (grp : Fin 8) (name : String) : Prop where
  id : op.id = s.nextOp
  who : op.who = w
  ctx : op.ctx = t.ctx
  hostSeq : op.hostSeq = t.hostSeq
  group : op.group = grp.val
  name : op.name = name

section
variable {s s1 : State} {w : Who} {t : Task} {g : Guard} {grp : Fin 8} {op : AsyncOp} {name : String} {ok : Task → Bool}
  {f : Nat → Task → State → State × Except Bad AsyncOp}

theorem accepted_sameStore : SameStore s (accepted w t grp s) := ⟨rfl, issued_cis w s⟩

theorem accepted_mem_wf (h : s.memoriesOk = true) : (accepted w t grp s).mem.wf = true := (Bool.and_eq_true_iff.mp h).1

theorem accepted_cis_wf (h : s.memoriesOk = true) (c : Nat) : Memory.wf ((accepted w t grp s).cis c) = true := by
  rw [accepted_sameStore.cis c]
  exact core_cis_wf h c

theorem joined_sameStore : SameStore s1 (joined s op s1) := .of_eq rfl rfl

/-- An instruction that is accepted with no position open joins the unfinished ones, and nothing goes out yet. -/
theorem async_joins (h : Ready s w t) (hok : ok t = true) (hg : t.acts g = true) (hr : t.groups.get 0 grp.val < 255)
    (hf : f s.nextOp t (accepted w t grp s) = (s1, .ok op)) (hopen : op.openPos = []) :
    async w g grp ok f s = .next (joined s op s1) := by
  rw [async_ready h hok hg hr hf, hopen]
  rfl

theorem unspoiled_ids (l : List AsyncOp) : (unspoiled l).map (·.id) = l.map (·.id) := by
  simp only [unspoiled, List.map_map]
  rfl

/-- One whose effect keeps the work under way has issued. -/
theorem joined_issues (hk : KeepsWork (accepted w t grp s) s1) (hop : RecordOf op s w t grp name) :
    Issues s (joined s op s1) w t grp name := by
  have hids : s1.ops.map (·.id) = s.ops.map (·.id) := by rw [← unspoiled_ids s1.ops, hk.ops, unspoiled_ids]; rfl
  have htask : (s1.task w).map Task.untiled = some (t.join grp).advance.untiled := by
    rw [hk.tasks w]
    exact congrArg (Option.map Task.untiled) (State.task_setTask_same _ w _)
  obtain ⟨t', ht', huntiled⟩ := Option.map_eq_some_iff.mp htask
  have hgroups : t'.groups = (t.join grp).groups := (congrArg Task.groups huntiled :)
  refine ⟨hk.nextOp, ⟨s1.ops, op, rfl, hids, hop.id, hop.who, hop.ctx, hop.hostSeq, hop.group, hop.name⟩, t', ht', ⟨?_, fun k hne => ?_⟩,
    (congrArg Task.pc huntiled :)⟩
  · rw [hgroups]; exact Tab.get_put_same ..
  · rw [hgroups]; exact Tab.get_put_other _ _ _ hne

end

end Sys2Proof.Machine
end

section
/-! SUPPORT. The effects of SHUF, DEDUP and SAMPLE at their issue (05_graph_sampling.md R131, R149). -/

namespace Sys2Proof.Machine

open Sys2Proof

section
variable {s s1 : State} {w : Who} {t : Task} {g : Guard} {grp : Fin 8} {name : String} {ok : Task → Bool}
  {named : Task → State → Named} {f : Task → State → Except Bad State}

/-- An instruction whose effect is made at its issue, and keeps the work under way, has issued. -/
theorem plainOp_issues (h : Ready s w t) (hok : ok t = true) (hg : t.acts g = true) (hr : t.groups.get 0 grp.val < 255)
    (hf : f t (accepted w t grp s) = .ok s1) (hk : KeepsWork (accepted w t grp s) s1) :
    ∃ s', async w g grp ok (plainOp w grp name named f) s = .next s' ∧ Issues s s' w t grp name
      ∧ s'.mem = s1.mem ∧ s'.cores = s1.cores :=
  ⟨_, async_joins h hok hg hr (plainOp_ok hf) rfl, joined_issues hk ⟨rfl, rfl, rfl, rfl, rfl, rfl⟩, rfl, rfl⟩

theorem samplerOp_free {f : Nat → Task → State → State × Except Bad AsyncOp} (h : Ready s w t)
    (hq : (samplerQueue s (w.core / 64)).length < 64) : samplerOp w g grp f s = async w g grp anyLevel f s := by
  have hfree : queueFull s w = false := by simpa [queueFull] using hq
  rw [samplerOp_ready h, hfree, Bool.and_false, waiting_false]

end

theorem descCheck_ok {b : Bool} (h : b = true) (d : Nat) : descCheck b d = .ok () := if_pos h

/-! ### SHUF -/

/-- The entries of a permutation that a SHUF descriptor asks for, each with the rounds it took. -/
def shufEntries (key : Word) (n : Nat) : List (Nat × Nat) :=
  (List.range (bitsN n 152 128)).map fun i => shufflePi key (bitsN n 191 160) (bitsN n 72 32) (bitsN n 119 80 + i)

/-- The rounds of its entries, by their groups. -/
def shufWork (n : Nat) (ps : List (Nat × Nat)) : List (Nat × Nat) :=
  (List.range (bitsN n 152 128)).map fun i => (i / 4096, (ps.getD i (0, 0)).2)

/-- A SHUF counts the rounds of its entries. -/
def shufCounted (die n : Nat) (ps : List (Nat × Nat)) (s : State) : State :=
  { s with
    freeCount := s.freeCount + 1
    sm := { s.sm with feistel := bumpGroups s die s.sm.feistel (shufWork n ps) } }

section
variable {s s1 : State} {w : Who} {t : Task} {g : Guard} {grp : Fin 8} {d : Fin 16} {n b : Nat}

theorem shufBytes_length (key : Word) (n : Nat) :
    ((shufEntries key n).flatMap fun p => leBytes 8 p.1).length = 8 * bitsN n 152 128 := by
  rw [flatMap_length _ _ 8 (fun _ => leBytes_length _ _), shufEntries, List.length_map, List.length_range, Nat.mul_comm]

theorem shufEffect_ok (hdesc : shufOk (t.desc d).toNat = true) (hsm : samplersCheck s (w.core / 64) = .ok ())
    (hal : bitsN (t.desc d).toNat 255 192 % 8 = 0)
    (hwrite : devWrite s (t.writer w) (Use.of 1 nearFar) (bitsN (t.desc d).toNat 255 192)
      ((shufEntries (s.ctx t.ctx).shuffleKey (t.desc d).toNat).flatMap fun p => leBytes 8 p.1) = .ok s1) :
    shufEffect w d t s
      = .ok (shufCounted (w.core / 64) (t.desc d).toNat (shufEntries (s.ctx t.ctx).shuffleKey (t.desc d).toNat) s1) :=
  (bind_ok (descCheck_ok hdesc _)).trans ((bind_ok hsm).trans ((bind_ok (alignCheck_ok hal)).trans ((bind_ok hwrite).trans rfl)))

theorem execShuf_writes (h : Ready s w t) (hg : t.acts g = true) (hr : t.groups.get 0 grp.val < 255) (hwf : s.memoriesOk = true)
    (hn : n = (t.desc d).toNat) (hq : (samplerQueue s (w.core / 64)).length < 64)
    (hsm : samplersCheck (accepted w t grp s) (w.core / 64) = .ok ()) (hdesc : shufOk n = true) (hal : bitsN n 255 192 % 8 = 0)
    (hb : WritesNear (accepted w t grp s) t.ctx nearFar (bitsN n 255 192) (8 * bitsN n 152 128) b) :
    ∃ s', execShuf w g grp d s = .next s' ∧ Issues s s' w t grp "SHUF"
      ∧ WritesTier s s' .near b ((List.range (bitsN n 152 128)).flatMap fun i =>
        leBytes 8 (shufflePi (s.ctx t.ctx).shuffleKey (bitsN n 191 160) (bitsN n 72 32) (bitsN n 119 80 + i)).1) := by
  subst hn
  obtain ⟨s1, hwrite, hbytes⟩ := devWrite_near (by' := t.writer w) (accepted_mem_wf hwf)
    (shufBytes_length (s.ctx t.ctx).shuffleKey (t.desc d).toNat) hb
  obtain ⟨s', hexec, hissues, hmem, hcores⟩ := plainOp_issues (name := "SHUF") (named := shufNamed d) (ok := anyLevel) h rfl hg hr
    (shufEffect_ok hdesc hsm hal hwrite) ((devWrite_keepsWork hwrite).trans (.of_eq rfl rfl rfl rfl rfl))
  rw [shufEntries, List.flatMap_map] at hbytes
  exact ⟨s', (samplerOp_free h hq).trans hexec, hissues, hbytes.between accepted_sameStore (.of_eq hmem hcores)⟩

end

/-! ### DEDUP -/

section
variable (key : Nat → Nat)

/-- One more entry: the first one of a key joins the unique entries. -/
def addUnique (l : List Nat) (e : Nat) : List Nat := if l.any fun x => decide (key x = key e) then l else l ++ [e]

/-- The place of an entry's key among unique entries. -/
def uniqueIndex (l : List Nat) (e : Nat) : Nat := l.findIdx fun x => decide (key x = key e)

variable {key}

theorem uniqueIndex_append {l : List Nat} {e : Nat} (r : List Nat) (h : (l.any fun x => decide (key x = key e)) = true) :
    uniqueIndex key (l ++ r) e = uniqueIndex key l e := by
  have hlt : l.findIdx (fun x => decide (key x = key e)) < l.length := List.findIdx_lt_length.mpr (List.any_eq_true.mp h)
  rw [uniqueIndex, List.findIdx_append, if_pos hlt, uniqueIndex]

theorem uniqueIndex_new {l : List Nat} {e : Nat} (r : List Nat) (h : (l.any fun x => decide (key x = key e)) = false) :
    uniqueIndex key (l ++ [e] ++ r) e = l.length := by
  have hnone : l.findIdx (fun x => decide (key x = key e)) = l.length :=
    List.findIdx_eq_length.mpr fun x hx => Bool.eq_false_iff.mpr (List.any_eq_false.mp h x hx)
  rw [uniqueIndex_append r (by simp), uniqueIndex, List.findIdx_append, hnone]
  simp

/-- Unique entries stay where they are as more join them. -/
theorem foldl_addUnique_extends (es l : List Nat) : ∃ r, es.foldl (addUnique key) l = l ++ r := by
  induction es generalizing l with
  | nil => exact ⟨[], (List.append_nil l).symm⟩
  | cons e es ih =>
    obtain ⟨r, hr⟩ := ih (addUnique key l e)
    rw [List.foldl_cons, hr, addUnique]
    split
    · exact ⟨r, rfl⟩
    · exact ⟨[e] ++ r, List.append_assoc l [e] r⟩

theorem contains_map_key (l : List Nat) (e : Nat) : (l.map key).contains (key e) = l.any fun x => decide (key x = key e) := by
  rw [Bool.eq_iff_iff]
  simp

theorem idxOf_map_key (l : List Nat) (e : Nat) : (l.map key).idxOf (key e) = uniqueIndex key l e := by
  rw [List.idxOf, List.findIdx_map, uniqueIndex]
  rfl

/-- What DEDUP finds: the unique entries, and the place of each entry's node among them. -/
theorem dedupList_eq (es uniq idx : List Nat) : dedupList key es uniq idx
    = (es.foldl (addUnique key) uniq, idx ++ es.map (uniqueIndex key (es.foldl (addUnique key) uniq))) := by
  induction es generalizing uniq idx with
  | nil => simp [dedupList]
  | cons e es ih =>
    obtain ⟨r, hr⟩ := foldl_addUnique_extends (key := key) es (addUnique key uniq e)
    simp only [dedupList, contains_map_key, idxOf_map_key, List.foldl_cons, List.map_cons]
    cases hany : (uniq.any fun x => decide (key x = key e))
    · have hstep : addUnique key uniq e = uniq ++ [e] := by rw [addUnique, hany]; rfl
      rw [hstep] at hr ⊢
      have hplace : uniqueIndex key (es.foldl (addUnique key) (uniq ++ [e])) e = uniq.length := by rw [hr, uniqueIndex_new r hany]
      rw [if_neg Bool.false_ne_true, ih, hplace, List.append_assoc]
      rfl
    · have hstep : addUnique key uniq e = uniq := by rw [addUnique, hany]; rfl
      rw [hstep] at hr ⊢
      have hplace : uniqueIndex key (es.foldl (addUnique key) uniq) e = uniqueIndex key uniq e := by
        rw [hr, uniqueIndex_append r hany]
      rw [if_pos rfl, ih, hplace, List.append_assoc]
      rfl

end

section
variable {s s1 s2 s3 : State} {w : Who} {t : Task} {g : Guard} {grp : Fin 8} {d : Fin 16} {n b : Nat} {es uniq : List Nat}

theorem execDedup_writes (h : Ready s w t) (hg : t.acts g = true) (hr : t.groups.get 0 grp.val < 255)
    (hn : n = (t.desc d).toNat) (hq : (samplerQueue s (w.core / 64)).length < 64)
    (hsm : samplersCheck (accepted w t grp s) (w.core / 64) = .ok ()) (hdesc : dedupOk n = true) (ha : bitsN n 127 64 % 8 = 0)
    (ha1 : bitsN n 191 128 % 8 = 0) (ha2 : bitsN n 255 192 % 4 = 0) (ha3 : bitsN n 319 256 % 8 = 0)
    (hb : ReadsNear (accepted w t grp s) t.ctx [.near, .far, .flash] (bitsN n 127 64) (8 * bitsN n 56 32) b)
    (hes : es = (List.range (bitsN n 56 32)).map fun i => leNat (s.near (b + 8 * i) 8)) (huniq : uniq = uniqueEntries es)
    (h1 : devWrite (accepted w t grp s) (t.writer w) (Use.of 1 nearFar) (bitsN n 191 128) (uniq.flatMap (leBytes 8)) = .ok s1)
    (h2 : devWrite s1 (t.writer w) (Use.of 1 nearFar) (bitsN n 255 192)
      (es.flatMap fun e => leBytes 4 (uniq.findIdx fun x => decide (x % 2 ^ 40 = e % 2 ^ 40))) = .ok s2)
    (h3 : devWrite s2 (t.writer w) (Use.of 1 nearFar) (bitsN n 319 256) (leBytes 8 uniq.length) = .ok s3) :
    ∃ s', execDedup w g grp d s = .next s' ∧ Issues s s' w t grp "DEDUP" ∧ s'.mem = s3.mem ∧ s'.cores = s3.cores := by
  subst hn
  have hlist : ((List.range (bitsN (t.desc d).toNat 56 32)).map fun i =>
      leNat ((((accepted w t grp s).near b (8 * bitsN (t.desc d).toNat 56 32)).drop (8 * i)).take 8)) = es := by
    rw [hes]
    refine List.map_congr_left fun i hi => ?_
    have hin := List.mem_range.mp hi
    rw [near_part (by omega), accepted_sameStore.near]
  have hf : dedupEffect w d t (accepted w t grp s) = .ok s3 := by
    refine (bind_ok (descCheck_ok hdesc _)).trans ((bind_ok hsm).trans ((bind_ok (alignCheck_ok ha)).trans
      ((bind_ok (alignCheck_ok ha1)).trans ((bind_ok (alignCheck_ok ha2)).trans ((bind_ok (alignCheck_ok ha3)).trans
      ((bind_ok (devRead_near hb)).trans ?_))))))
    have hfound : dedupList (· % 2 ^ 40) es [] [] = (uniq, es.map (uniqueIndex (· % 2 ^ 40) uniq)) :=
      huniq ▸ dedupList_eq (key := (· % 2 ^ 40)) es [] []
    dsimp only
    rw [hlist, hfound]
    dsimp only
    rw [List.flatMap_map]
    exact (bind_ok h1).trans ((bind_ok h2).trans h3)
  obtain ⟨s', hexec, hissues, hmem, hcores⟩ := plainOp_issues (g := g) (name := "DEDUP") (named := dedupNamed d) h (ok := anyLevel) rfl hg hr hf
    ((devWrite_keepsWork h1).trans ((devWrite_keepsWork h2).trans (devWrite_keepsWork h3)))
  exact ⟨s', (samplerOp_free h hq).trans hexec, hissues, hmem, hcores⟩

end

/-! ### SAMPLE -/

section
variable {s s1 : State} {w : Who} {t : Task} {g : Guard} {grp : Fin 8} {d : Fin 16} {op : AsyncOp} {id : Nat}

/-- A SAMPLE that is accepted leaves a record, and takes a free value. -/
theorem sampleEffect_accepts (h : sampleEffect w grp d id t s = (s1, .ok op)) : s1 = { s with freeCount := s.freeCount + 1 }
    ∧ op.openPos = [] ∧ op.id = id ∧ op.who = w ∧ op.ctx = t.ctx ∧ op.hostSeq = t.hostSeq ∧ op.group = grp.val ∧ op.name = "SAMPLE" := by
  unfold sampleEffect at h
  dsimp only at h
  split at h
  · cases congrArg Prod.snd h
  · split at h
    · cases congrArg Prod.snd h
    · obtain ⟨rfl, hop⟩ := Prod.mk.inj h
      obtain rfl := Except.ok.inj hop
      exact ⟨rfl, rfl, rfl, rfl, rfl, rfl, rfl, rfl⟩

theorem execSample_issues (h : Ready s w t) (hg : t.acts g = true) (hr : t.groups.get 0 grp.val < 255)
    (hq : (samplerQueue s (w.core / 64)).length < 64) (hf : sampleEffect w grp d s.nextOp t (accepted w t grp s) = (s1, .ok op)) :
    ∃ s', execSample w g grp d s = .next s' ∧ Issues s s' w t grp "SAMPLE" ∧ SameBytes s s' := by
  obtain ⟨hs1, hopen, hid, hwho, hctx, hseq, hgroup, hname⟩ := sampleEffect_accepts hf
  refine ⟨_, (samplerOp_free h hq).trans (async_joins h (ok := anyLevel) rfl hg hr hf hopen),
    joined_issues (hs1 ▸ .of_eq rfl rfl rfl rfl rfl) ⟨hid, hwho, hctx, hseq, hgroup, hname⟩, SameStore.sameBytes ?_⟩
  exact accepted_sameStore.trans ((hs1 ▸ .of_eq rfl rfl : SameStore (accepted w t grp s) s1).trans joined_sameStore)

end

end Sys2Proof.Machine
end

section
/-! SUPPORT. The effects of BMCHK, BMEXP, PREDICT, SEGRED and PFSCHED at their issue (06_gather_aggregate.md R176, R188, R190;
11_memory_tiers.md R305). -/

namespace Sys2Proof.Machine

open Sys2Proof

/-! ### Counts -/

theorem countNum_keepsWork (ctx : Nat) (h : W32) (die : Nat) (c : Counts) (s : State) : KeepsWork s (countNum ctx h die c s) :=
  have hc := countNum_counted ctx h die c s
  .of_eq (congrArg (fun x : State => x.fence) hc.rest :) (congrArg (fun x : State => x.saved) hc.rest :)
    (congrArg (fun x : State => x.nextOp) hc.rest :) (countNum_ops ctx h die c s) hc.tasks

theorem countNum_sameStore (ctx : Nat) (h : W32) (die : Nat) (c : Counts) (s : State) : SameStore s (countNum ctx h die c s) :=
  have hc := countNum_counted ctx h die c s
  .of_eq (congrArg (fun x : State => x.mem) hc.rest :) (congrArg (fun x : State => x.cores) hc.rest :)

/-! ### Results in the cistern -/

section
variable {s : State} {w : Who} {t : Task} {u : Use} {a : Nat} {bs : List Byte}

theorem writeLoc_cistern (hin : a + bs.length ≤ t.footprint) : writeLoc s w t true u a bs = .ok (cisPut w.core a bs s) := by
  unfold writeLoc
  rw [if_pos rfl, if_neg (by omega)]

theorem engWrite_cistern (hin : a + bs.length ≤ t.footprint) : engWrite s w t true u a bs = .ok (cisPut w.core a bs s) := by
  unfold engWrite
  rw [if_pos rfl]
  exact writeLoc_cistern hin

end

section
variable {s : State} {w : Who} {t : Task} {g : Guard} {grp : Fin 8} {d : Fin 16} {n : Nat}

/-! ### BMCHK and BMEXP -/

theorem execBmchk_reads (h : Ready s w t) (hg : t.acts g = true) (hr : t.groups.get 0 grp.val < 255) (hn : n = (t.desc d).toNat)
    {tile : SparseTile} (hdesc : sparseDescOk n = true)
    (htile : readSparse (readLoc (accepted w t grp s) w t (bitN n 8) useRead) 127 t (bitsN n 127 64) = .ok tile) :
    ∃ s', execBmchk w g grp d s = .next s' ∧ Issues s s' w t grp "BMCHK" ∧ SameBytes s s' := by
  subst hn
  have hf : bmchkEffect w d t (accepted w t grp s) = .ok (accepted w t grp s) :=
    (bind_ok (descCheck_ok hdesc _)).trans ((bind_ok htile).trans rfl)
  obtain ⟨s', hexec, hissues, hmem, hcores⟩ := plainOp_issues (name := "BMCHK") (named := sparseNamed w d false) (ok := anyLevel) h rfl hg hr
    hf (.of_eq rfl rfl rfl rfl rfl)
  exact ⟨s', hexec, hissues, (accepted_sameStore.trans (.of_eq hmem hcores)).sameBytes⟩

/-- The bytes of an index list. -/
theorem indexList_length (l : List Nat) (base : Nat) : (l.flatMap fun e => leBytes 4 (e + base)).length = 4 * l.length := by
  rw [flatMap_length _ _ 4 (fun _ => leBytes_length _ _), Nat.mul_comm]

theorem enginesCheck_ok {s : State} {die : Nat} (h : (dieEngines s die).isEmpty = false) : enginesCheck s die = .ok () :=
  if_neg (Bool.eq_false_iff.mp h)

theorem bmexpEffect_list {tile : SparseTile} (heng : (dieEngines s (w.core / 64)).isEmpty = false)
    (hdesc : sparseDescOk (t.desc d).toNat = true)
    (htile : readSparse (engLoc s w t (bitN (t.desc d).toNat 8) useRead) (engineOf s (w.core / 64) 0) t (bitsN (t.desc d).toNat 127 64)
      = .ok tile) (hlocal : bitN (t.desc d).toNat 9 = true) (hcount : bitsN (t.desc d).toNat 319 256 = 0)
    (hdense : bitsN (t.desc d).toNat 255 192 = 0) (hin : bitsN (t.desc d).toNat 191 128 + 4 * tile.listed.length ≤ t.footprint) :
    bmexpEffect w d t s = .ok (cisPut w.core (bitsN (t.desc d).toNat 191 128)
      (tile.listed.flatMap fun e => leBytes 4 (e + bitsN (t.desc d).toNat 63 32)) s) := by
  have hwrite : engWrite s w t (bitN (t.desc d).toNat 9) useWrite (bitsN (t.desc d).toNat 191 128)
      (tile.listed.flatMap fun e => leBytes 4 (e + bitsN (t.desc d).toNat 63 32)) = .ok _ :=
    hlocal ▸ engWrite_cistern ((indexList_length _ _).symm ▸ hin)
  refine (bind_ok (descCheck_ok hdesc _)).trans ((bind_ok (enginesCheck_ok heng)).trans ((bind_ok htile).trans ?_))
  dsimp only
  have hnone : (decide (bitsN (t.desc d).toNat 255 192 = 0) || tile.maskOnly) = true := by rw [hdense]; rfl
  exact (if_pos hcount).trans ((bind_ok hwrite).trans (if_pos hnone))

theorem execBmexp_writes (h : Ready s w t) (hg : t.acts g = true) (hr : t.groups.get 0 grp.val < 255) (hwf : s.memoriesOk = true)
    (hn : n = (t.desc d).toNat) (heng : (dieEngines (accepted w t grp s) (w.core / 64)).isEmpty = false)
    {tile : SparseTile} {dst : Nat} (hdesc : sparseDescOk n = true)
    (htile : readSparse (engLoc (accepted w t grp s) w t (bitN n 8) useRead) (engineOf (accepted w t grp s) (w.core / 64) 0) t
      (bitsN n 127 64) = .ok tile) (hlocal : bitN n 9 = true) (hcount : bitsN n 319 256 = 0) (hdense : bitsN n 255 192 = 0)
    (hdst : dst = bitsN n 191 128) (hin : dst + 4 * tile.listed.length ≤ t.footprint) :
    ∃ s', execBmexp w g grp d s = .next s' ∧ Issues s s' w t grp "BMEXP"
      ∧ WritesCistern s s' w.core dst (tile.listed.flatMap fun e => leBytes 4 (e + bitsN n 63 32)) := by
  subst hn hdst
  have hputs := cisPut_puts (accepted_cis_wf (w := w) (t := t) (grp := grp) hwf w.core) (bitsN (t.desc d).toNat 191 128)
    (tile.listed.flatMap fun e => leBytes 4 (e + bitsN (t.desc d).toNat 63 32))
  obtain ⟨s', hexec, hissues, hmem, hcores⟩ := plainOp_issues (name := "BMEXP") (named := sparseNamed w d true) (ok := anyLevel) h rfl hg hr
    (bmexpEffect_list heng hdesc htile hlocal hcount hdense hin) hputs.keepsWork
  exact ⟨s', hexec, hissues, hputs.writesCistern.between accepted_sameStore (.of_eq hmem hcores)⟩

/-! ### PREDICT -/

theorem execPredict_writes (h : Ready s w t) (hg : t.acts g = true) (hr : t.groups.get 0 grp.val < 255) (hwf : s.memoriesOk = true)
    (hn : n = (t.desc d).toNat) {tile : List Byte} {b : Nat} (hlevel : t.level ≠ 1)
    (htile : predictTile w d t (accepted w t grp s) = .ok tile)
    (hb : WritesNear (accepted w t grp s) t.ctx nearFarHost (bitsN n 383 320) tile.length b) :
    ∃ s', execPredict w g grp d s = .next s' ∧ Issues s s' w t grp "PREDICT" ∧ WritesTier s s' .near b tile := by
  subst hn
  obtain ⟨s1, hwrite, hbytes⟩ := devWrite_near (by' := t.writer w) (accepted_mem_wf hwf) rfl hb
  obtain ⟨s', hexec, hissues, hmem, hcores⟩ := plainOp_issues (name := "PREDICT") (named := predictNamed w d) (ok := level2)
    (f := predictEffect w d) h (decide_eq_true hlevel) hg hr ((bind_ok htile).trans hwrite) (devWrite_keepsWork hwrite)
  exact ⟨s', hexec, hissues, hbytes.between accepted_sameStore (.of_eq hmem hcores)⟩

/-! ### SEGRED -/

/-- The sum of a segment's live edges, in their order, from +0 (R176). -/
def segmentSum (x : SegDesc) (data : SegData) (i : Nat) : List W32 :=
  (data.edges i).foldl (fun sum e => List.zipWith fadd sum (data.row e)) (List.replicate x.elems 0)

theorem segForward_sum {x : SegDesc} (data : SegData) (i : Nat) (hfunc : x.func = 0) (hweighted : x.weighted = false) :
    (segForward x data i).1 = segmentSum x data i := by
  unfold segForward segmentSum
  dsimp only
  split
  next hempty => rw [List.isEmpty_iff.mp hempty]; rfl
  next => simp [hfunc, hweighted]

theorem segOk_argmax {w : Nat} (h : segOk 0 w = true) : (segDescOf 0 w).argmax = false := by
  simp only [segOk, Bool.and_eq_true] at h
  obtain ⟨⟨-, hargmax⟩, -⟩ := h
  simpa using hargmax

/-- Rows that lie in the cistern are written one after another, and their counts are added. -/
theorem writeRows_cistern {fmt elems a : Nat} {rows : List (List W32)}
    (hin : a + (rows.flatMap fun r => (narrowRow fmt r).1).length ≤ t.footprint) :
    ∃ c, writeRows w t true fmt elems a 0 rows s = .ok (countNum t.ctx t.hostSeq (w.core / 64) c
      (cisPut w.core a (rows.flatMap fun r => (narrowRow fmt r).1) s)) := by
  refine ⟨_, (bind_ok ?_).trans rfl⟩
  rw [List.flatMap_map, Nat.zero_mul, Nat.add_zero]
  exact writeLoc_cistern hin

theorem segredForward_sum {x : SegDesc} {data : SegData} {rows : List (List Byte)} (hfunc : x.func = 0) (hweighted : x.weighted = false)
    (hargmax : x.argmax = false) (hlocal : x.outLocal = true)
    (hrows : rows = (List.range x.segCount).map fun i => (narrowRow x.outFmt (segmentSum x data i)).1)
    (hin : x.outA + rows.flatten.length ≤ t.footprint) : ∃ c, segredForward w t x data s
      = .ok (countNum t.ctx t.hostSeq (w.core / 64) c (cisPut w.core x.outA rows.flatten s)) := by
  have hflat : ((((List.range x.segCount).map (segForward x data)).map (·.1)).flatMap fun r => (narrowRow x.outFmt r).1) = rows.flatten := by
    rw [hrows, List.map_map, List.flatMap_map, List.flatMap_def]
    simp only [Function.comp_apply, segForward_sum data _ hfunc hweighted]
  obtain ⟨c, hwrite⟩ := writeRows_cistern (s := s) (w := w) (t := t) (fmt := x.outFmt) (elems := x.elems) (a := x.outA)
    (hflat.symm ▸ hin)
  rw [hflat] at hwrite
  refine ⟨c, ?_⟩
  unfold segredForward
  rw [if_neg (by omega), hlocal, hargmax]
  exact (bind_ok hwrite).trans rfl

theorem execSegred_writes (h : Ready s w t) (hg : t.acts g = true) (hr : t.groups.get 0 grp.val < 255) (hwf : s.memoriesOk = true)
    (hn : n = (t.desc d).toNat) {x : SegDesc} {data : SegData} {rows : List (List Byte)} (hx : x = segDescOf 0 n)
    (hdesc : segOk 0 n = true) (hforward : x.backward = false) (hweighted : x.weighted = false) (hlocal : x.outLocal = true)
    (hdata : readSegData (accepted w t grp s) w t x = .ok data)
    (hrows : rows = (List.range x.segCount).map fun i => (narrowRow x.outFmt (segmentSum x data i)).1)
    (hin : x.outA + rows.flatten.length ≤ t.footprint) :
    ∃ s', execSegred w g grp d 0 s = .next s' ∧ Issues s s' w t grp "SEGRED" ∧ WritesCistern s s' w.core x.outA rows.flatten := by
  subst hn hx
  obtain ⟨c, hsum⟩ := segredForward_sum (w := w) (s := accepted w t grp s) rfl hweighted (segOk_argmax hdesc) hlocal hrows hin
  have hputs := cisPut_puts (accepted_cis_wf (w := w) (t := t) (grp := grp) hwf w.core) (segDescOf 0 (t.desc d).toNat).outA rows.flatten
  have hf : segredEffect w d 0 t (accepted w t grp s) = .ok _ :=
    (bind_ok (descCheck_ok hdesc _)).trans ((bind_ok hdata).trans ((if_neg (Bool.eq_false_iff.mp hforward)).trans hsum))
  obtain ⟨s', hexec, hissues, hmem, hcores⟩ := plainOp_issues (name := "SEGRED") (named := segNamed w d 0) (ok := anyLevel) h rfl hg hr
    hf (hputs.keepsWork.trans (countNum_keepsWork ..))
  exact ⟨s', hexec, hissues, hputs.writesCistern.between accepted_sameStore ((countNum_sameStore ..).trans (.of_eq hmem hcores))⟩

/-! ### PFSCHED -/

/-- Noting what a schedule needs changes nothing else of its record. -/
theorem foldl_need (s : State) (l : List Nat) (o : AsyncOp) : ∃ needs, l.foldl (AsyncOp.need s) o = { o with needs := needs } := by
  induction l generalizing o with
  | nil => exact ⟨o.needs, rfl⟩
  | cons k l ih =>
    obtain ⟨needs, hneeds⟩ := ih (o.need s k)
    exact ⟨needs, hneeds⟩

/-- The record of a schedule before what it needs is noted. -/
def scheduleRecord (w : Who) (t : Task) (grp : Fin 8) (d : Fin 16) (id : Nat) : AsyncOp :=
  { AsyncOp.of id w t grp.val "PFSCHED" with desc := t.desc d, nextPos := bitsN (t.desc d).toNat 135 96 }

theorem execPfsched_issues (h : Ready s w t) (hg : t.acts g = true) (hr : t.groups.get 0 grp.val < 255)
    (hn : n = (t.desc d).toNat) (heng : (dieEngines (accepted w t grp s) (w.core / 64)).isEmpty = false) (hdesc : pfOk t n = true)
    (hlist : pfListCheck (accepted w t grp s) t d.val n = .ok ()) :
    ∃ s', execPfsched w g grp d s = .next s' ∧ Issues s s' w t grp "PFSCHED" ∧ SameBytes s s'
      ∧ ∃ op, s'.ops.getLast? = some op ∧ op.nextPos = bitsN n 135 96 ∧ op.openPos = [] := by
  subst hn
  obtain ⟨needs, hneeds⟩ := foldl_need (accepted w t grp s) ((List.range (scheduleRecord w t grp d s.nextOp).pfBuffers).map
    ((scheduleRecord w t grp d s.nextOp).pfTally + ·)) (scheduleRecord w t grp d s.nextOp)
  have hf : pfschedEffect w grp d s.nextOp t (accepted w t grp s) = (accepted w t grp s,
      .ok (AsyncOp.bind { scheduleRecord w t grp d s.nextOp with needs := needs } (accepted w t grp s)
        (pfNamed (accepted w t grp s) t (t.desc d).toNat))) := by
    rw [← hneeds]
    exact congrArg (Prod.mk _) ((bind_ok (descCheck_ok hdesc _)).trans ((bind_ok hlist).trans ((bind_ok (enginesCheck_ok heng)).trans rfl)))
  exact ⟨_, async_joins (ok := anyLevel) h rfl hg hr hf rfl, joined_issues (.of_eq rfl rfl rfl rfl rfl) ⟨rfl, rfl, rfl, rfl, rfl, rfl⟩,
    (accepted_sameStore.trans joined_sameStore).sameBytes, _, List.getLast?_concat, rfl, rfl⟩

end

end Sys2Proof.Machine
end

section
/-! SUPPORT. The effects of SCOPY and SCATTER at their issue (06_gather_aggregate.md R161 to R165, R183). -/

namespace Sys2Proof.Machine

open Sys2Proof

theorem ok_bind {α β : Type} (a : α) (f : α → Except Bad β) : (Except.ok a >>= f) = f a := rfl

/-! ### SCOPY -/

section
variable {s s1 : State} {w : Who} {t : Task} {g : Guard} {grp : Fin 8} {d : Fin 16} {n id len src dst b c : Nat}

/-- The record of a copy with no position open. -/
def copyRecord (w : Who) (t : Task) (grp : Fin 8) (d : Fin 16) (id : Nat) (s : State) : AsyncOp :=
  AsyncOp.bind { AsyncOp.of id w t grp.val "SCOPY" with desc := t.desc d } s (scopyNamed (t.desc d).toNat)

theorem scopyEffect_copies (hkind : bitsN (t.desc d).toNat 7 4 = 6) (hdesc : copyOk (t.desc d).toNat = true)
    (heng : (dieEngines s (w.core / 64)).isEmpty = false) (hcopy : scopyCopy w t (t.desc d).toNat id s = .ok (s1, [])) :
    scopyEffect w grp d id t s = (s1, .ok (copyRecord w t grp d id s)) := by
  unfold scopyEffect
  simp only [hkind, hdesc, decide_true, Bool.and_self, Bool.true_or, descCheck_ok rfl, Who.die, enginesCheck_ok heng, ok_bind, hcopy]
  rfl

/-- What is copied within the cistern (R183). -/
theorem scopyCopy_cistern (hn : len = bitsN n 71 32) (hsrc : src = bitsN n 191 128) (hdst : dst = bitsN n 255 192) (h8 : bitN n 8 = true)
    (h9 : bitN n 9 = true) (hin : src + len ≤ t.footprint) (hout : dst + len ≤ t.footprint) (hsound : wordErr s w.core src len = false) :
    scopyCopy w t n id s = .ok (cisBlit w.core dst len (Memory.slice (s.cis w.core) src len) s, []) := by
  subst hn hsrc hdst
  unfold scopyCopy
  simp only [h8, h9, Bool.not_true, Bool.false_and, Bool.false_eq_true, if_false, if_true, Nat.not_lt.mpr hin, Nat.not_lt.mpr hout,
    cisParity_ok hsound]
  rfl

/-- What is copied within device memory, clear of the windows (R183). -/
theorem scopyCopy_memory {ps qs : List Piece} (hn : len = bitsN n 71 32) (hsrc : src = bitsN n 191 128) (hdst : dst = bitsN n 255 192)
    (h8 : bitN n 8 = false) (h9 : bitN n 9 = false) (hwindow : meetsWindow s t.ctx src len = false)
    (hr : range s t.ctx useRead src len = .ok ps) (hreach : reachCheck s ps = .ok ()) (hcheck : checkPieces s src ps = .ok ())
    (hw : range s t.ctx useWrite dst len = .ok qs) (hreach' : reachCheck s qs = .ok ()) (hclocks : checkClocks s dst qs = .ok ()) :
    scopyCopy w t n id s = .ok (writePieces (t.writer w) qs (readPieces s.mem ps 0) 0 s, []) := by
  subst hn hsrc hdst
  unfold scopyCopy
  simp only [h8, h9, hwindow, Bool.and_false, Bool.false_eq_true, if_false, ok_bind, hr, hreach, hcheck, hw, hreach', hclocks]
  rfl

theorem execScopy_issues (h : Ready s w t) (hg : t.acts g = true) (hr : t.groups.get 0 grp.val < 255)
    (hkind : bitsN (t.desc d).toNat 7 4 = 6) (hdesc : copyOk (t.desc d).toNat = true)
    (heng : (dieEngines (accepted w t grp s) (w.core / 64)).isEmpty = false)
    (hcopy : scopyCopy w t (t.desc d).toNat s.nextOp (accepted w t grp s) = .ok (s1, [])) (hk : KeepsWork (accepted w t grp s) s1) :
    ∃ s', execScopy w g grp d s = .next s' ∧ Issues s s' w t grp "SCOPY" ∧ SameStore s1 s' :=
  ⟨_, async_joins (ok := anyLevel) h rfl hg hr (scopyEffect_copies hkind hdesc heng hcopy) rfl,
    joined_issues hk ⟨rfl, rfl, rfl, rfl, rfl, rfl⟩, joined_sameStore⟩

theorem execScopy_cistern (h : Ready s w t) (hg : t.acts g = true) (hr : t.groups.get 0 grp.val < 255) (hwf : s.memoriesOk = true)
    (hn : n = (t.desc d).toNat) (heng : (dieEngines (accepted w t grp s) (w.core / 64)).isEmpty = false) (hkind : bitsN n 7 4 = 6)
    (hdesc : copyOk n = true) (hlen : len = bitsN n 71 32) (hsrc : src = bitsN n 191 128) (hdst : dst = bitsN n 255 192)
    (h8 : bitN n 8 = true) (h9 : bitN n 9 = true) (hin : src + len ≤ t.footprint) (hout : dst + len ≤ t.footprint)
    (hsound : wordErr (accepted w t grp s) w.core src len = false) :
    ∃ s', execScopy w g grp d s = .next s' ∧ Issues s s' w t grp "SCOPY"
      ∧ WritesCistern s s' w.core dst ((List.range len).map fun i => s.cisByte w.core (src + i)) := by
  subst hn
  have hcis := accepted_cis_wf (w := w) (t := t) (grp := grp) hwf w.core
  have hputs := (PutsInCistern.refl hcis).blit (n := len) dst (memory_slice_wf src len hcis)
    (bs := (List.range len).map fun i => s.cisByte w.core (src + i)) (by simp) fun i hi => by
      rw [byte_slice hcis hi, accepted_sameStore.cis w.core]
      simp [hi, State.cisByte, State.cis]
  obtain ⟨s', hexec, hissues, hsame⟩ := execScopy_issues h hg hr hkind hdesc heng
    (scopyCopy_cistern hlen hsrc hdst h8 h9 hin hout hsound) hputs.keepsWork
  exact ⟨s', hexec, hissues, hputs.writesCistern.between accepted_sameStore hsame⟩

theorem execScopy_memory (h : Ready s w t) (hg : t.acts g = true) (hr : t.groups.get 0 grp.val < 255) (hwf : s.memoriesOk = true)
    (hn : n = (t.desc d).toNat) (heng : (dieEngines (accepted w t grp s) (w.core / 64)).isEmpty = false) (hkind : bitsN n 7 4 = 6)
    (hdesc : copyOk n = true) (hlen : len = bitsN n 71 32) (hsrc : src = bitsN n 191 128) (hdst : dst = bitsN n 255 192)
    (h8 : bitN n 8 = false) (h9 : bitN n 9 = false) (hwindow : meetsWindow (accepted w t grp s) t.ctx src len = false)
    (hb : ReadsNear (accepted w t grp s) t.ctx anyTier src len b) (hc : WritesNear (accepted w t grp s) t.ctx nearFarHost dst len c) :
    ∃ s', execScopy w g grp d s = .next s' ∧ Issues s s' w t grp "SCOPY" ∧ WritesTier s s' .near c (s.near b len) := by
  subst hn
  obtain ⟨hrange, hdown, hu⟩ := hc
  have hclocks : checkClocks (accepted w t grp s) dst [(.near, c, len)] = .ok () := by simp only [checkClocks, hdown]
  have hmem := accepted_mem_wf (w := w) (t := t) (grp := grp) hwf
  have hpiece := piece_wf (accepted w t grp s).mem .near b len
  have hbytes := memWrite_writesTier (t.writer w) (t := .near) (a := c) (bs := s.near b len) hmem
    (memory_slice_wf 0 len hpiece) (near_length s b len) (fun i hi => by
      rw [byte_slice hpiece hi, Nat.zero_add, byte_piece hmem hi]
      simp [State.near, hi, State.byteAt]
      rfl) (by decide) hu
  obtain ⟨s', hexec, hissues, hsame⟩ := execScopy_issues h hg hr hkind hdesc heng (scopyCopy_memory hlen hsrc hdst h8 h9 hwindow hb.1
    (reachCheck_near _ _ _) hb.checkPieces hrange (reachCheck_near _ _ _) hclocks) (writePieces_keepsWork ..)
  exact ⟨s', hexec, hissues, hbytes.between accepted_sameStore hsame⟩

end

/-! ### Rows written by an engine -/

/-- The record of an instruction that writes rows, with what its report counts. -/
def rowsRecord (name : String) (w : Who) (t : Task) (grp : Fin 8) (d : Fin 16) (id report dropped lates : Nat) (s : State) (n : Named) :
    AsyncOp :=
  AsyncOp.bind { AsyncOp.of id w t grp.val name with report := report, dropped := dropped, lates := lates, desc := t.desc d } s n

theorem rowsRecord_recordOf {name : String} {w : Who} {t : Task} {grp : Fin 8} {d : Fin 16} {report dropped lates : Nat} {s x : State}
    {n : Named} : RecordOf (rowsRecord name w t grp d s.nextOp report dropped lates x n) s w t grp name := ⟨rfl, rfl, rfl, rfl, rfl, rfl⟩

theorem leNat_lt (bs : List Byte) : leNat bs < 256 ^ bs.length := by
  induction bs with
  | nil => exact Nat.one_pos
  | cons b r ih =>
    have hb := b.isLt
    rw [leNat, List.length_cons, Nat.pow_succ]
    omega

/-- What an index entry holds: 32 bits, or the low 48 of more (Table 6.3). -/
theorem entryIndex_row {kind : Nat} {bs : List Byte} (h : bs.length = entryBytes kind) :
    entryIndex kind false (leNat bs) = leNat bs % 2 ^ (if kind = 0 then 32 else 48) := by
  unfold entryIndex
  split
  next hk =>
    subst hk
    have hlt := leNat_lt bs
    rw [h] at hlt
    exact (Nat.mod_eq_of_lt hlt).symm
  next => simp [bitsN]

/-- An index list of one entry. -/
theorem readIndices_one {s : State} {ctx kind a b : Nat} (h : ReadsNear s ctx nearFar a (entryBytes kind) b) :
    readIndices s ctx kind false a 1
      = .ok [leNat (s.near b (entryBytes kind)) % 2 ^ (if kind = 0 then 32 else 48)] := by
  rw [readIndices_near (b := b) false (by rwa [Nat.one_mul])]
  simp [entryIndex_row (near_length s b (entryBytes kind))]

theorem countDropped_keepsWork (ctx : Nat) (h : W32) (k : Nat) (s : State) : KeepsWork s (countDropped ctx h k s) :=
  .of_eq rfl rfl rfl rfl rfl
theorem countDropped_sameStore (ctx : Nat) (h : W32) (k : Nat) (s : State) : SameStore s (countDropped ctx h k s) := .of_eq rfl rfl
theorem countRows_keepsWork (unit k : Nat) (s : State) : KeepsWork s (countRows unit k s) := .of_eq rfl rfl rfl rfl rfl
theorem countRows_sameStore (unit k : Nat) (s : State) : SameStore s (countRows unit k s) := .of_eq rfl rfl

theorem countRows_writesNear {s : State} {ctx a n b unit k : Nat} {tiers : List Tier} (h : WritesNear s ctx tiers a n b) :
    WritesNear (countRows unit k s) ctx tiers a n b := by
  obtain ⟨hr, hdown, hu⟩ := h
  have hbare : (countRows unit k s).bare = s.bare := rfl
  refine ⟨?_, hdown, hu⟩
  rw [← range_bare, hbare, range_bare, hr]

/-- A table outside every window is no window. -/
theorem tableWindow_none {s : State} {t : Task} {access d table fmt elems : Nat} {compressed : Bool}
    (h : windowOf s t.ctx (Use.of access anyTier) table = none) : tableWindow s t access d table fmt elems compressed = .ok none := by
  unfold tableWindow
  rw [h]
  rfl

/-! ### SCATTER -/

section
variable {s s1 : State} {w : Who} {t : Task} {g : Guard} {grp : Fin 8} {d : Fin 16} {n id j b row stride : Nat} {x : GatherDesc}

theorem scatterOk_formats (h : scatterOk t n = true) : (gatherDescOf n).outFmt = (gatherDescOf n).rowFmt := by
  simp only [scatterOk, Bool.and_eq_true] at h
  obtain ⟨⟨-, hfmt⟩, -⟩ := h
  simpa using hfmt

/-- One row that no window takes is written at its place (R164). -/
theorem scatterRow_writes {c : Nat} {rows : List Byte} (hadd : x.add = false) (hj : j < x.rows) (hlen : rows.length = rowStride x.rowFmt x.elems)
    (hwf : s.mem.wf = true) (hc : WritesNear s t.ctx nearFarHost (x.table + j * rowStride x.rowFmt x.elems) (rowStride x.rowFmt x.elems) c) :
    ∃ s1, scatterRow w t x none id rows s (0, j) = .ok s1 ∧ KeepsWork s s1 ∧ WritesTier s s1 .near c rows := by
  have hrow : (rows.drop (0 * rowStride x.rowFmt x.elems)).take (rowStride x.rowFmt x.elems) = rows := by
    rw [Nat.zero_mul, List.drop_zero, List.take_of_length_le (Nat.le_of_eq hlen)]
  have hcounted := countRows_sameStore (unitFor s (Who.die w) 0 [(.near, c, rowStride x.rowFmt x.elems)]) 1 s
  have hkeeps := countRows_keepsWork (unitFor s (Who.die w) 0 [(.near, c, rowStride x.rowFmt x.elems)]) 1 s
  obtain ⟨s1, hwrite, hbytes⟩ := devWrite_near (by' := t.writer w) (hcounted.mem.symm ▸ hwf) hlen (countRows_writesNear hc)
  refine ⟨s1, ?_, hkeeps.trans (devWrite_keepsWork hwrite), hbytes.between hcounted (.of_eq rfl rfl)⟩
  unfold scatterRow
  simp only [ge_iff_le, Nat.not_le.mpr hj, if_false, hrow, hadd, Bool.false_eq_true, Option.filter_none, engPieces_near hc.1, ok_bind]
  exact hwrite

/-- A row out of range is dropped where it may be (R163). -/
theorem scatterRow_drops {rows : List Byte} (hdrop : x.drop = true) (hj : x.rows ≤ j) :
    scatterRow w t x none id rows s (0, j) = .ok (countDropped t.ctx t.hostSeq 1 s) := by
  unfold scatterRow
  simp only [hj, hdrop, if_true]
  rfl

/-- A SCATTER of one row does what its row does. -/
theorem execScatter_row (h : Ready s w t) (hg : t.acts g = true) (hr : t.groups.get 0 grp.val < 255)
    (heng : (dieEngines (accepted w t grp s) (w.core / 64)).isEmpty = false)
    (hx : x = gatherDescOf (t.desc d).toNat) (hdesc : scatterOk t (t.desc d).toNat = true) (hcount : x.count = 1) (hreport : x.report = 0)
    (hadd : x.add = false) (hlocal : x.isLocal = false)
    (hwindow : windowOf (accepted w t grp s) t.ctx (Use.of 1 anyTier) x.table = none)
    (hb : ReadsNear (accepted w t grp s) t.ctx nearFar x.index (entryBytes x.idxKind) b)
    (hj : j = leNat (s.near b (entryBytes x.idxKind)) % 2 ^ (if x.idxKind = 0 then 32 else 48))
    (hdata : ReadsNear (accepted w t grp s) t.ctx anyTier x.data (rowStride x.rowFmt x.elems) row)
    (hrow : scatterRow w t x none s.nextOp (s.near row (rowStride x.rowFmt x.elems)) (accepted w t grp s) (0, j) = .ok s1)
    (hk : KeepsWork (accepted w t grp s) s1) :
    ∃ s', execScatter w g grp d s = .next s' ∧ Issues s s' w t grp "SCATTER" ∧ SameStore s1 s' ∧ s'.sl = s1.sl := by
  subst hx
  have hrows : engLoc (accepted w t grp s) w t (gatherDescOf (t.desc d).toNat).isLocal useRead (gatherDescOf (t.desc d).toNat).data
      ((gatherDescOf (t.desc d).toNat).count * rowStride (gatherDescOf (t.desc d).toNat).outFmt (gatherDescOf (t.desc d).toNat).elems)
        = .ok (s.near row (rowStride (gatherDescOf (t.desc d).toNat).rowFmt (gatherDescOf (t.desc d).toNat).elems)) := by
    rw [hlocal, hcount, Nat.one_mul, scatterOk_formats hdesc, ← accepted_sameStore.near]
    exact engRead_near hdata
  have hindex := readIndices_one hb
  rw [accepted_sameStore.near, ← hj, ← hcount] at hindex
  have heffect : scatterEffect w grp d s.nextOp t (accepted w t grp s) = (s1, .ok (rowsRecord "SCATTER" w t grp d s.nextOp
      0 (droppedBy s1 t - droppedBy (accepted w t grp s) t) 0 (accepted w t grp s) ((gatherDescOf (t.desc d).toNat).named [j]))) := by
    unfold scatterEffect
    simp only [descCheck_ok hdesc, Who.die, enginesCheck_ok heng, hreport, hadd, Bool.false_eq_true, tableWindow_none hwindow, hindex,
      hrows, ok_bind, ne_eq, not_true_eq_false, if_false, pure, Except.pure]
    simp only [noteWindow, List.length_singleton, List.range_one, List.zip_cons_cons, List.zip_nil_left, inOrder, hrow]
    rfl
  exact ⟨_, async_joins (ok := anyLevel) h rfl hg hr heffect rfl, joined_issues hk rowsRecord_recordOf, joined_sameStore, rfl⟩

end

end Sys2Proof.Machine
end

section
/-! SUPPORT. The effect of COMBINE at its issue (06_gather_aggregate.md R181). -/

namespace Sys2Proof.Machine

open Sys2Proof

/-! ### Rows of FP32 and BF16 values -/

@[simp] theorem takePad_length {α : Type} (e : α) (n : Nat) (l : List α) : (takePad e n l).length = n := by
  induction n generalizing l with
  | zero => rfl
  | succ n ih => cases l <;> simp [takePad, ih]

theorem rowFp_length (c n : Nat) (bs : List Byte) : (rowFp c n bs).length = n := by simp [rowFp, rowEls]

theorem rowStride_fp32 (n : Nat) : rowStride 0 n = packedBytes 0 n := by
  have hbits : codeBits 0 = 32 := rfl
  have hblock : isBlock 0 = false := rfl
  simp only [rowStride, roundUp, packedBytes, hbits, hblock, Bool.false_eq_true, if_false]
  omega

/-- A narrowed row has its format's stride (R161). -/
theorem narrowRow_length (c : Nat) (xs : List W32) : (narrowRow c xs).1.length = rowStride c xs.length := by
  unfold narrowRow
  split
  next h => rw [h, rowStride_fp32, packEls, leBytes_length, List.length_map]
  next => exact takePad_length _ _ _

/-- The element-wise sum of rows is as long as they are. -/
theorem sumRows_length {elems : Nat} {row : Nat → List W32} (hrow : ∀ i, (row i).length = elems) (l : List Nat) {sum : List W32}
    (hsum : sum.length = elems) : (l.foldl (fun sum i => List.zipWith fadd sum (row i)) sum).length = elems := by
  induction l generalizing sum with
  | nil => exact hsum
  | cons i r ih => exact ih (by rw [List.length_zipWith, hsum, hrow, Nat.min_self])

/-! ### Runs of equal keys -/

/-- Positions of one key. -/
theorem foldr_positions (k i : Nat) (l : List Nat) : ((i :: l).map fun j => (j, k)).foldr (fun p acc => match acc with
    | (k', l') :: r => if k' = p.2 then (k', p.1 :: l') :: r else (p.2, [p.1]) :: (k', l') :: r
    | [] => [(p.2, [p.1])]) [] = [(k, i :: l)] := by
  induction l generalizing i with
  | nil => rfl
  | cons j r ih => rw [List.map_cons, List.foldr_cons, ih j]; exact if_pos rfl

/-- Entries of one key are one run, in their order. -/
theorem keyRuns_one (k m : Nat) : keyRuns ((List.range (m + 1)).map fun _ => k) = [(k, List.range (m + 1))] := by
  have hzip : (List.range (m + 1)).zip ((List.range (m + 1)).map fun _ => k) = (List.range (m + 1)).map fun j => (j, k) :=
    List.map_prod_left_eq_zip.symm
  have hsorted : ((List.range (m + 1)).map fun j => (j, k)).Pairwise fun a b => decide (a.2 ≤ b.2) = true :=
    List.pairwise_map.mpr (List.pairwise_of_forall fun _ _ => decide_eq_true (Nat.le_refl k))
  unfold keyRuns
  dsimp only
  rw [List.length_map, List.length_range, hzip, List.mergeSort_of_pairwise hsorted, List.range_succ_eq_map]
  exact foldr_positions k 0 _

/-- The sum of the first rows. -/
theorem runSum_range (row : Nat → List W32) (m : Nat) : runSum row (List.range (m + 1))
    = (List.range m).foldl (fun sum i => List.zipWith fadd sum (row (i + 1))) (row 0) := by
  rw [List.range_succ_eq_map, runSum, List.foldl_map]

/-! ### COMBINE -/

section
variable {s s1 : State} {w : Who} {t : Task} {g : Guard} {grp : Fin 8} {d : Fin 16} {n id k b vals m : Nat} {x : CombineDesc}

/-- The sum of the rows of values at b. -/
def rowsSum (s : State) (x : CombineDesc) (b : Nat) : List W32 :=
  (List.range (x.count - 1)).foldl (fun sum i => List.zipWith fadd sum
      (rowFp x.valFmt x.elems (s.near (b + (i + 1) * rowStride x.valFmt x.elems) (rowStride x.valFmt x.elems))))
    (rowFp x.valFmt x.elems (s.near b (rowStride x.valFmt x.elems)))

theorem rowsSum_length : (rowsSum s x b).length = x.elems :=
  sumRows_length (row := fun i => rowFp x.valFmt x.elems (s.near (b + (i + 1) * rowStride x.valFmt x.elems) (rowStride x.valFmt x.elems)))
    (fun _ => rowFp_length _ _ _) _ (rowFp_length _ _ _)

/-- The values of a run that holds every row are those rows of the values read. -/
theorem runSum_near (hm : x.count = m + 1) : runSum (fun i => rowFp x.valFmt x.elems
      (((s.near b (x.count * rowStride x.valFmt x.elems)).drop (i * rowStride x.valFmt x.elems)).take (rowStride x.valFmt x.elems)))
      (List.range (m + 1)) = rowsSum s x b := by
  have hpart : ∀ i, i < x.count → ((s.near b (x.count * rowStride x.valFmt x.elems)).drop (i * rowStride x.valFmt x.elems)).take
      (rowStride x.valFmt x.elems) = s.near (b + i * rowStride x.valFmt x.elems) (rowStride x.valFmt x.elems) := fun i hi =>
    near_part (by rw [← Nat.succ_mul]; exact Nat.mul_le_mul_right _ hi)
  rw [runSum_range, rowsSum, hm, Nat.add_sub_cancel, ← hm, hpart 0 (by omega), Nat.zero_mul, Nat.add_zero]
  refine List.foldl_ext _ _ _ fun sum i hi => ?_
  rw [hpart (i + 1) (by have := List.mem_range.mp hi; omega)]

/-- A run that no window takes is summed, narrowed once and written at its key (R181). -/
theorem combineRun_writes {out : Nat} {row : Nat → List W32} {l : List Nat} (hadd : x.add = false) (hk : k < x.rows)
    (hsum : (runSum row l).length = x.elems) (hwf : s.mem.wf = true)
    (hout : WritesNear s t.ctx nearFar (x.dst + k * rowStride x.dstFmt x.elems) (rowStride x.dstFmt x.elems) out) :
    ∃ s1, combineRun w t x none id row s (k, l) = .ok s1 ∧ KeepsWork s s1
      ∧ WritesTier s s1 .near out (narrowRow x.dstFmt (runSum row l)).1 := by
  have hlen : (narrowRow x.dstFmt (runSum row l)).1.length = rowStride x.dstFmt x.elems := hsum ▸ narrowRow_length _ _
  have hcounted := countRows_sameStore (unitFor s (Who.die w) (l.headD 0) [(.near, out, rowStride x.dstFmt x.elems)]) 1 s
  have hkeeps := countRows_keepsWork (unitFor s (Who.die w) (l.headD 0) [(.near, out, rowStride x.dstFmt x.elems)]) 1 s
  obtain ⟨s1, hwrite, hbytes⟩ := devWrite_near (by' := t.writer w) (hcounted.mem.symm ▸ hwf) hlen (countRows_writesNear hout)
  refine ⟨countNum t.ctx t.hostSeq (Who.die w) (narrowRow x.dstFmt (runSum row l)).2 s1, ?_,
    (hkeeps.trans (devWrite_keepsWork hwrite)).trans (countNum_keepsWork ..), hbytes.between hcounted (countNum_sameStore ..)⟩
  unfold combineRun
  simp only [ge_iff_le, Nat.not_le.mpr hk, if_false, hadd, Bool.false_eq_true, Option.filter_none, engPieces_near hout.1, ok_bind, hwrite]
  rfl

theorem combineOk_count (h : combineOk n = true) : 1 ≤ (combineDescOf n).count := by
  simp only [combineOk, Bool.and_eq_true] at h
  obtain ⟨⟨⟨-, hcount⟩, -⟩, -⟩ := h
  simpa using hcount

theorem execCombine_writes {stride out : Nat} (h : Ready s w t) (hg : t.acts g = true) (hr : t.groups.get 0 grp.val < 255)
    (hwf : s.memoriesOk = true) (hn : n = (t.desc d).toNat) (heng : (dieEngines (accepted w t grp s) (w.core / 64)).isEmpty = false)
    (hx : x = combineDescOf n) (hdesc : combineOk n = true) (hlevel : t.level ≠ 1) (hreport : x.report = 0) (hadd : x.add = false)
    (hlocal : x.valLocal = false) (hwindow : windowOf (accepted w t grp s) t.ctx (Use.of 1 anyTier) x.dst = none)
    (hkeys : ReadsNear (accepted w t grp s) t.ctx nearFar x.keys (x.count * entryBytes x.keyKind) b)
    (hone : ∀ i, i < x.count → entryIndex x.keyKind true
      (leNat (s.near (b + i * entryBytes x.keyKind) (entryBytes x.keyKind))) = k) (hk : k < x.rows)
    (hstride : stride = rowStride x.valFmt x.elems)
    (hvals : ReadsNear (accepted w t grp s) t.ctx anyTier x.vals (x.count * stride) vals)
    (hout : WritesNear (accepted w t grp s) t.ctx nearFar (x.dst + k * rowStride x.dstFmt x.elems) (rowStride x.dstFmt x.elems) out) :
    ∃ s', execCombine w g grp d s = .next s' ∧ Issues s s' w t grp "COMBINE"
      ∧ WritesTier s s' .near out (narrowRow x.dstFmt (rowsSum s x vals)).1 := by
  subst hn hx hstride
  obtain ⟨m, hm⟩ := Nat.exists_eq_add_of_le' (combineOk_count hdesc)
  have hindex := readIndices_near true hkeys
  have hks : ((List.range (combineDescOf (t.desc d).toNat).count).map fun i => entryIndex (combineDescOf (t.desc d).toNat).keyKind true
      (leNat ((accepted w t grp s).near (b + i * entryBytes (combineDescOf (t.desc d).toNat).keyKind)
        (entryBytes (combineDescOf (t.desc d).toNat).keyKind)))) = (List.range (m + 1)).map fun _ => k := by
    rw [← hm]
    exact List.map_congr_left fun i hi => by rw [accepted_sameStore.near, hone i (List.mem_range.mp hi)]
  rw [hks] at hindex
  have hrows : engLoc (accepted w t grp s) w t (combineDescOf (t.desc d).toNat).valLocal useRead (combineDescOf (t.desc d).toNat).vals
      ((combineDescOf (t.desc d).toNat).count * rowStride (combineDescOf (t.desc d).toNat).valFmt (combineDescOf (t.desc d).toNat).elems)
        = .ok (s.near vals ((combineDescOf (t.desc d).toNat).count
          * rowStride (combineDescOf (t.desc d).toNat).valFmt (combineDescOf (t.desc d).toNat).elems)) := by
    rw [hlocal, ← accepted_sameStore.near]
    exact engRead_near hvals
  have hsum := runSum_near (s := s) (b := vals) hm
  obtain ⟨s1, hrun, hkeeps, hbytes⟩ := combineRun_writes (w := w) (id := s.nextOp) hadd hk (hsum ▸ rowsSum_length) (accepted_mem_wf hwf) hout
  have heffect : combineEffect w grp d s.nextOp t (accepted w t grp s) = (s1, .ok (rowsRecord "COMBINE" w t grp d s.nextOp
      0 (1 - (droppedBy s1 t - droppedBy (accepted w t grp s) t)) (droppedBy s1 t - droppedBy (accepted w t grp s) t)
      (accepted w t grp s) ((combineDescOf (t.desc d).toNat).named ((List.range (m + 1)).map fun _ => k)))) := by
    unfold combineEffect
    simp only [descCheck_ok hdesc, Who.die, enginesCheck_ok heng, hreport, tableWindow_none hwindow, hindex,
      hrows, ok_bind, ne_eq, not_true_eq_false, if_false, pure, Except.pure]
    simp only [noteWindow, keyRuns_one, inOrder, hrun]
    rfl
  rw [hsum] at hbytes
  exact ⟨_, async_joins (ok := level2) h (decide_eq_true hlevel) hg hr heffect rfl, joined_issues hkeeps rowsRecord_recordOf,
    hbytes.between accepted_sameStore joined_sameStore⟩

end

end Sys2Proof.Machine
end

section
/-! SUPPORT. The effect of GATHER at its issue (06_gather_aggregate.md R161 to R165). -/

namespace Sys2Proof.Machine

open Sys2Proof

/-! ### The read of a position goes out -/

/-- The record of an instruction once the read of a position has gone out. -/
def goesOut (id : Nat) (p : Position) (o : AsyncOp) : AsyncOp :=
  if o.id = id then { o with openPos := o.openPos.map fun q => if q.tag = p.tag then { p with issued := true, lookup := none } else q } else o

theorem goesOut_recordOf {op : AsyncOp} {s : State} {w : Who} {t : Task} {grp : Fin 8} {name : String} (id : Nat) (p : Position)
    (h : RecordOf op s w t grp name) : RecordOf (goesOut id p op) s w t grp name := by
  unfold goesOut
  split
  · exact ⟨h.id, h.who, h.ctx, h.hostSeq, h.group, h.name⟩
  · exact h

theorem goesOut_id (id : Nat) (p : Position) (o : AsyncOp) : (goesOut id p o).id = o.id := by
  unfold goesOut
  split <;> rfl

/-- The one position of a record stays open as its read goes out. -/
theorem goesOut_openPos {op : AsyncOp} {p : Position} (id : Nat) (h : op.openPos = [p]) : ∃ q, (goesOut id p op).openPos = [q]
    ∧ q.dstLocal = p.dstLocal ∧ q.dst = p.dst ∧ q.bytes = p.bytes := by
  unfold goesOut
  split
  · exact ⟨{ p with issued := true, lookup := none }, by simp [h], rfl, rfl, rfl⟩
  · exact ⟨p, h, rfl, rfl, rfl⟩

/-- The read of a position goes out, or it waits. -/
theorem issueReads_one (id : Nat) (p : Position) (s : State) : issueReads id [p] s = s
    ∨ ∃ j tags, issueReads id [p] s = { s with tags := tags, ops := s.ops.map (goesOut j p) } := by
  unfold issueReads
  simp only [List.foldl_cons, List.foldl_nil]
  split
  next o _ =>
    split
    · exact .inr ⟨o.id, _, rfl⟩
    · exact .inl rfl
  next => exact .inl rfl

section
variable {s s1 : State} {w : Who} {t : Task} {g : Guard} {grp : Fin 8} {op : AsyncOp} {name : String} {ok : Task → Bool}
  {f : Nat → Task → State → State × Except Bad AsyncOp} {p : Position}

/-- An instruction that is accepted with one position open has issued, and its last record holds that position. -/
theorem async_issues_one (h : Ready s w t) (hok : ok t = true) (hg : t.acts g = true) (hr : t.groups.get 0 grp.val < 255)
    (hf : f s.nextOp t (accepted w t grp s) = (s1, .ok op)) (hopen : op.openPos = [p]) (hk : KeepsWork (accepted w t grp s) s1)
    (hop : RecordOf op s w t grp name) : ∃ s', async w g grp ok f s = .next s' ∧ Issues s s' w t grp name ∧ SameStore s1 s'
      ∧ ∃ op' q, s'.ops.getLast? = some op' ∧ op'.openPos = [q] ∧ q.dstLocal = p.dstLocal ∧ q.dst = p.dst ∧ q.bytes = p.bytes := by
  have hexec := async_ready h hok hg hr hf
  obtain ⟨hnext, ⟨old, last, hops, hids, hlast⟩, htask⟩ := joined_issues hk hop
  have hsplit : (joined s op s1).ops = s1.ops ++ [op] := rfl
  rw [hopen] at hexec
  refine ⟨_, hexec, ?_⟩
  rcases issueReads_one op.id p (joined s op s1) with hwait | ⟨j, tags, hout⟩
  · change issueReads op.id [p] (ownHeld s.dg.held.length op.id { s1 with ops := s1.ops ++ [op] }) = joined s op s1 at hwait
    rw [hwait]
    exact ⟨⟨hnext, ⟨old, last, hops, hids, hlast⟩, htask⟩, joined_sameStore, op, p, List.getLast?_concat, hopen, rfl, rfl, rfl⟩
  · change issueReads op.id [p] (ownHeld s.dg.held.length op.id { s1 with ops := s1.ops ++ [op] }) = _ at hout
    rw [hout]
    obtain ⟨q, hq, hlocal, hdst, hbytes⟩ := goesOut_openPos j hopen
    have hmap : (joined s op s1).ops.map (goesOut j p) = s1.ops.map (goesOut j p) ++ [goesOut j p op] := by
      rw [hsplit, List.map_append, List.map_singleton]
    have hlastop := goesOut_recordOf j p hop
    have hearlier : s1.ops.map (·.id) = s.ops.map (·.id) := by
      have heq := (List.append_inj' (hops.symm.trans hsplit) rfl).1
      rw [← heq, hids]
    refine ⟨⟨hnext, ⟨s1.ops.map (goesOut j p), goesOut j p op, hmap, ?_, hlastop.id, hlastop.who, hlastop.ctx, hlastop.hostSeq,
      hlastop.group, hlastop.name⟩, htask⟩, .of_eq rfl rfl, goesOut j p op, q, ?_, hq, hlocal, hdst, hbytes⟩
    · rw [List.map_map, ← hearlier]
      exact List.map_congr_left fun o _ => goesOut_id j p o
    · exact (congrArg List.getLast? hmap).trans List.getLast?_concat

end

/-! ### GATHER of one row -/

section
variable {s s1 : State} {w : Who} {t : Task} {g : Guard} {grp : Fin 8} {d : Fin 16} {n id j b out : Nat} {x : GatherDesc}

/-- The record of a GATHER of one row from a table, with the position that is open or the one that is dropped. -/
def gatherRecord (w : Who) (t : Task) (grp : Fin 8) (d : Fin 16) (id : Nat) (x : GatherDesc) (j : Nat) (s : State) (held : List Position)
    (dropped : Nat) : AsyncOp :=
  AsyncOp.bind { AsyncOp.of id w t grp.val "GATHER" with
    deadline := x.deadline, openPos := held, valid := [!held.isEmpty], dropped := dropped, desc := t.desc d } s (x.named [j])

theorem gatherRecord_recordOf {y : State} {held : List Position} {dropped : Nat} :
    RecordOf (gatherRecord w t grp d s.nextOp x j y held dropped) s w t grp "GATHER" := ⟨rfl, rfl, rfl, rfl, rfl, rfl⟩

/-- A position whose index lies in the table takes a tag, and holds its converted row. -/
theorem pickRow_reads {row : Nat} (hj : j < x.rows) (hrow : range s t.ctx useRead (x.table + j * rowStride x.rowFmt x.elems)
      (rowStride x.rowFmt x.elems) = .ok [(.near, row, rowStride x.rowFmt x.elems)]) :
    ∃ p, pickRow w t x .table id 0 j s = .ok ({ s with nextTag := s.nextTag + 1 }, p) ∧ p.dropped = false ∧ p.pos.dstLocal = x.isLocal
      ∧ p.pos.dst = x.data ∧ p.pos.bytes = (convertRow x.rowFmt x.outFmt x.elems (s.near row (rowStride x.rowFmt x.elems))).1 := by
  have hbytes : piecesBytes s.mem [(.near, row, rowStride x.rowFmt x.elems)] = s.near row (rowStride x.rowFmt x.elems) :=
    List.append_nil _
  unfold pickRow
  simp only [ge_iff_le, Nat.not_le.mpr hj, if_false, reserveTag, engPieces_near hrow, ok_bind, pure, Except.pure, hbytes]
  exact ⟨_, rfl, rfl, rfl, by rw [Nat.zero_mul]; rfl, rfl⟩

/-- One whose index is out of range is dropped where it may be (R163). -/
theorem pickRow_drops (hj : x.rows ≤ j) (hdrop : x.drop = true) : pickRow w t x .table id 0 j s
    = .ok (s, ⟨true, Position.blank 0 x.data x.isLocal (zeroRow x) j (engineOf s (w.core / 64) 0)⟩) := by
  unfold pickRow
  simp only [ge_iff_le, hj, if_true, hdrop, Nat.zero_mul, Nat.add_zero]
  rfl

section
variable {p : Picked} {s2 : State} (heng : (dieEngines s (w.core / 64)).isEmpty = false) (hdesc : gatherOk t (t.desc d).toNat = true)
  (hx : gatherDescOf (t.desc d).toNat = x) (hcount : x.count = 1) (hreport : x.report = 0) (hfallback : x.fallback = 0)
  (hcompressed : x.compressed = false) (hlocal : x.isLocal = true) (hin : x.data + rowStride x.outFmt x.elems ≤ t.footprint)
  (hwindow : windowOf s t.ctx (Use.of 0 anyTier) x.table = none)
  (hindex : readIndices s t.ctx x.idxKind false x.index 1 = .ok [j])
include heng hdesc hx hcount hreport hfallback hcompressed hlocal hin hwindow hindex

/-- A GATHER of one row into the cistern holds the position that it has taken. -/
theorem gatherEffect_holds (hpick : pickRow w t x .table id 0 j s = .ok (s2, p)) (hp : p.dropped = false) :
    gatherEffect w grp d id t s = (countDropped t.ctx t.hostSeq 0 s2, .ok (gatherRecord w t grp d id x j s [p.pos] 0)) := by
  have hends : ¬ x.data + 1 * rowStride x.outFmt x.elems > t.footprint := by omega
  unfold gatherEffect
  simp only [hx, descCheck_ok hdesc, Who.die, enginesCheck_ok heng, hcount, hreport, hfallback, hcompressed, hlocal, hends, ok_bind,
    tableWindow_none hwindow, hindex, if_true, ne_eq, not_true_eq_false, if_false, Bool.false_and, Bool.false_eq_true,
    GatherDesc.altRanges, pure, Except.pure, List.length_singleton, List.range_one, List.zip_cons_cons, List.zip_nil_left,
    pickRows, hpick, List.filter_cons, List.filter_nil, hp, Bool.not_false, List.map_cons, List.map_nil, List.foldlM_nil, openShared]
  rfl

/-- One whose index is out of range writes a zero row where it may be dropped (R163). -/
theorem gatherEffect_drops (hj : x.rows ≤ j) (hdrop : x.drop = true) : gatherEffect w grp d id t s
    = (countDropped t.ctx t.hostSeq 1 (cisPut w.core x.data (zeroRow x) s), .ok (gatherRecord w t grp d id x j s [] 1)) := by
  have hends : ¬ x.data + 1 * rowStride x.outFmt x.elems > t.footprint := by omega
  have hpick := pickRow_drops (s := s) (w := w) (t := t) (id := id) hj hdrop
  rw [hlocal] at hpick
  unfold gatherEffect
  simp only [hx, descCheck_ok hdesc, Who.die, enginesCheck_ok heng, hcount, hreport, hfallback, hcompressed, hlocal, hends, ok_bind,
    tableWindow_none hwindow, hindex, if_true, ne_eq, not_true_eq_false, if_false, Bool.false_and, Bool.false_eq_true,
    GatherDesc.altRanges, pure, Except.pure, List.length_singleton, List.range_one, List.zip_cons_cons, List.zip_nil_left,
    pickRows, hpick, List.filter_cons, List.filter_nil, Bool.not_true, List.map_cons, List.map_nil, List.foldlM_cons,
    List.foldlM_nil, openShared]
  rfl

end

section
variable (h : Ready s w t) (hg : t.acts g = true) (hr : t.groups.get 0 grp.val < 255) (hwf : s.memoriesOk = true)
  (hn : n = (t.desc d).toNat) (heng : (dieEngines (accepted w t grp s) (w.core / 64)).isEmpty = false)
  (hx : x = gatherDescOf n) (hdesc : gatherOk t n = true) (hcount : x.count = 1) (hreport : x.report = 0)
  (hfallback : x.fallback = 0) (hcompressed : x.compressed = false) (hlocal : x.isLocal = true) (hout : out = rowStride x.outFmt x.elems)
  (hin : x.data + out ≤ t.footprint) (hwindow : windowOf (accepted w t grp s) t.ctx (Use.of 0 anyTier) x.table = none)
  (hb : ReadsNear (accepted w t grp s) t.ctx nearFar x.index (entryBytes x.idxKind) b)
  (hj : j = leNat (s.near b (entryBytes x.idxKind)) % 2 ^ (if x.idxKind = 0 then 32 else 48))

include hb hj in
theorem gatherIndex : readIndices (accepted w t grp s) t.ctx x.idxKind false x.index 1 = .ok [j] := by
  rw [readIndices_one hb, accepted_sameStore.near, hj]

include h hg hr hn heng hx hdesc hcount hreport hfallback hcompressed hlocal hout hin hwindow hb hj

theorem execGather_holds {row stride : Nat} (hrows : j < x.rows) (hstride : stride = rowStride x.rowFmt x.elems)
    (hrow : range (accepted w t grp s) t.ctx useRead (x.table + j * stride) stride = .ok [(.near, row, stride)]) :
    ∃ s', execGather w g grp d s = .next s' ∧ Issues s s' w t grp "GATHER" ∧ SameBytes s s'
      ∧ ∃ op p, s'.ops.getLast? = some op ∧ op.openPos = [p] ∧ p.dstLocal = true ∧ p.dst = x.data
        ∧ p.bytes = (convertRow x.rowFmt x.outFmt x.elems (s.near row stride)).1 := by
  subst hn hout hstride
  obtain ⟨p, hpick, hp, hplocal, hpdst, hpbytes⟩ := pickRow_reads (w := w) (id := s.nextOp) hrows hrow
  obtain ⟨s', hexec, hissues, hsame, op, q, hlast, hopen, hlocal', hdst, hbytes⟩ :=
    async_issues_one (name := "GATHER") (ok := anyLevel) h rfl hg hr (gatherEffect_holds heng hdesc hx.symm hcount hreport
      hfallback hcompressed hlocal hin hwindow (gatherIndex hb hj) hpick hp) rfl
    (.of_eq rfl rfl rfl rfl rfl) gatherRecord_recordOf
  have htag : SameStore (accepted w t grp s) (countDropped t.ctx t.hostSeq 0
      { accepted w t grp s with nextTag := (accepted w t grp s).nextTag + 1 }) := .of_eq rfl rfl
  exact ⟨s', hexec, hissues, (accepted_sameStore.trans (htag.trans hsame)).sameBytes, op, q, hlast, hopen, hlocal'.trans (hplocal.trans hlocal),
    hdst.trans hpdst, hbytes.trans (hpbytes.trans (by rw [accepted_sameStore.near]))⟩

include hwf in
theorem execGather_drops (hrows : x.rows ≤ j) (hdrop : x.drop = true) :
    ∃ s', execGather w g grp d s = .next s' ∧ Issues s s' w t grp "GATHER" ∧ WritesCistern s s' w.core x.data (List.replicate out 0)
      ∧ ∃ op, s'.ops.getLast? = some op ∧ op.openPos = [] ∧ op.dropped = 1 := by
  subst hn hout
  have heffect := gatherEffect_drops (id := s.nextOp) (grp := grp) heng hdesc hx.symm hcount hreport hfallback hcompressed hlocal hin hwindow
    (gatherIndex hb hj) hrows hdrop
  have hputs := cisPut_puts (accepted_cis_wf (w := w) (t := t) (grp := grp) hwf w.core) x.data (zeroRow x)
  exact ⟨_, async_joins (ok := anyLevel) h rfl hg hr heffect rfl,
    joined_issues (hputs.keepsWork.trans (countDropped_keepsWork ..)) gatherRecord_recordOf,
    hputs.writesCistern.between accepted_sameStore ((countDropped_sameStore ..).trans joined_sameStore), _, List.getLast?_concat, rfl, rfl⟩

end

end

end Sys2Proof.Machine
end

section
/-! SUPPORT. A SCATTER of one row (06_gather_aggregate.md R163, R164). -/

namespace Sys2Proof.Machine

open Sys2Proof

section
variable {s : State} {w : Who} {t : Task} {g : Guard} {grp : Fin 8} {d : Fin 16} {n j b row stride : Nat} {x : GatherDesc}
  (h : Ready s w t) (hg : t.acts g = true) (hr : t.groups.get 0 grp.val < 255) (hwf : s.memoriesOk = true)
  (hn : n = (t.desc d).toNat) (heng : (dieEngines (accepted w t grp s) (w.core / 64)).isEmpty = false)
  (hx : x = gatherDescOf n) (hdesc : scatterOk t n = true) (hcount : x.count = 1) (hreport : x.report = 0) (hadd : x.add = false)
  (hlocal : x.isLocal = false) (hwindow : windowOf (accepted w t grp s) t.ctx (Use.of 1 anyTier) x.table = none)
  (hb : ReadsNear (accepted w t grp s) t.ctx nearFar x.index (entryBytes x.idxKind) b)
  (hj : j = leNat (s.near b (entryBytes x.idxKind)) % 2 ^ (if x.idxKind = 0 then 32 else 48))
  (hstride : stride = rowStride x.rowFmt x.elems) (hdata : ReadsNear (accepted w t grp s) t.ctx anyTier x.data stride row)
include h hg hr hn heng hx hdesc hcount hreport hadd hlocal hwindow hb hj hstride hdata

include hwf in
theorem execScatter_writes {c : Nat} (hrows : j < x.rows)
    (hc : WritesNear (accepted w t grp s) t.ctx nearFarHost (x.table + j * stride) stride c) :
    ∃ s', execScatter w g grp d s = .next s' ∧ Issues s s' w t grp "SCATTER" ∧ WritesTier s s' .near c (s.near row stride) := by
  subst hn hstride
  obtain ⟨s1, hrow, hkeeps, hbytes⟩ := scatterRow_writes (w := w) (id := s.nextOp) hadd hrows (near_length s row _) (accepted_mem_wf hwf) hc
  obtain ⟨s', hexec, hissues, hsame, -⟩ := execScatter_row h hg hr heng hx hdesc hcount hreport hadd hlocal hwindow hb hj hdata hrow hkeeps
  exact ⟨s', hexec, hissues, hbytes.between accepted_sameStore hsame⟩

theorem execScatter_drops (hrows : x.rows ≤ j) (hdrop : x.drop = true) :
    ∃ s', execScatter w g grp d s = .next s' ∧ Issues s s' w t grp "SCATTER" ∧ SameBytes s s'
      ∧ s'.sl.dropped = min (2 ^ 48 - 1) (s.sl.dropped + 1) := by
  subst hn hstride
  obtain ⟨s', hexec, hissues, hsame, hsl⟩ := execScatter_row h hg hr heng hx hdesc hcount hreport hadd hlocal hwindow hb hj hdata
    (scatterRow_drops hdrop hrows) (countDropped_keepsWork ..)
  exact ⟨s', hexec, hissues, (accepted_sameStore.trans ((countDropped_sameStore ..).trans hsame)).sameBytes, congrArg Sluice.dropped hsl⟩

end

end Sys2Proof.Machine
end

section
namespace Sys2Proof

open Machine

/-- Settles O19: each instruction's effect is made in the state in which it is accepted (`accepted`), where its checks pass; it keeps
the work under way, so that its record joins the unfinished ones (`joined_issues`), and writes what its own lemma says. -/
theorem streamInstructionsAct : Obligations.StreamInstructionsAct := by
  unfold Obligations.StreamInstructionsAct
  rintro s w t g grp d start n h hg hr hwf hn rfl
  refine ⟨fun heng => ⟨fun hkind hdesc len src dst hlen hsrc hdst => ?scopy, ?scatter, ?combine, ?bmexp, ?gather, ?pfsched⟩,
    fun hq hsm => ⟨?shuf, ?dedup, ?sample⟩, ?segred, ?predict, ?bmchk⟩
  case scopy =>
    exact ⟨fun h8 h9 hin hout hsound =>
        execScopy_cistern h hg hr hwf hn heng hkind hdesc hlen hsrc hdst h8 h9 hin hout hsound,
      fun b c h8 h9 hwindow hb hc => execScopy_memory h hg hr hwf hn heng hkind hdesc hlen hsrc hdst h8 h9 hwindow hb hc⟩
  case scatter =>
    exact fun x j b row stride hx hdesc hcount hreport hadd hlocal hwindow hb hj hstride hdata =>
      ⟨fun c hrows hc => execScatter_writes h hg hr hwf hn heng hx hdesc hcount hreport hadd hlocal hwindow hb hj hstride hdata hrows hc,
        execScatter_drops h hg hr hn heng hx hdesc hcount hreport hadd hlocal hwindow hb hj hstride hdata⟩
  case combine =>
    intro x k b vals stride out hx hdesc hlevel hreport hadd hlocal hwindow hkeys hone hk hstride hvals hout
    subst hstride
    exact execCombine_writes h hg hr hwf hn heng hx hdesc hlevel hreport hadd hlocal hwindow hkeys hone hk rfl hvals hout
  case bmexp =>
    exact fun tile dst hdesc htile hlocal hcount hdense hdst hin =>
      execBmexp_writes h hg hr hwf hn heng hdesc htile hlocal hcount hdense hdst hin
  case gather =>
    exact fun x j b out hx hdesc hcount hreport hfallback hcompressed hlocal hout hin hwindow hb hj =>
      ⟨fun row stride hrows hstride hrow => execGather_holds h hg hr hn heng hx hdesc hcount hreport hfallback hcompressed hlocal hout hin
          hwindow hb hj hrows hstride hrow,
        execGather_drops h hg hr hwf hn heng hx hdesc hcount hreport hfallback hcompressed hlocal hout hin hwindow hb hj⟩
  case pfsched => exact fun hdesc hlist => execPfsched_issues h hg hr hn heng hdesc hlist
  case shuf => exact fun b hdesc hal hb => execShuf_writes h hg hr hwf hn hq hsm hdesc hal hb
  case dedup =>
    exact fun b es uniq s1 s2 s3 hdesc ha ha1 ha2 ha3 hb hes huniq h1 h2 h3 =>
      execDedup_writes h hg hr hn hq hsm hdesc ha ha1 ha2 ha3 hb hes huniq h1 h2 h3
  case sample => exact fun s1 op hf => execSample_issues h hg hr hq hf
  case segred =>
    exact fun x data rows hx hdesc hforward hweighted hlocal hdata hrows hin =>
      execSegred_writes h hg hr hwf hn hx hdesc hforward hweighted hlocal hdata hrows hin
  case predict => exact fun tile b hlevel htile hb => execPredict_writes h hg hr hwf hn hlevel htile hb
  case bmchk => exact fun tile hdesc htile => execBmchk_reads h hg hr hn hdesc htile

end Sys2Proof
end

section
/-! SUPPORT. The accumulator moves (04_selod_isa.md Tables 4.9 and 4.10; 07_cube_array.md R203, R210, R217). -/

namespace Sys2Proof.Machine

open Sys2Proof

/-! ### Tiles that change -/

theorem tileReads_setTile (t : Task) (tile : Fin 8) (f : Nat → Nat → Option W32) :
    TileReads t (t.setTile tile.val f) tile fun r c => (f r c).getD (t.elem tile.val r c) :=
  ⟨fun _ _ hr hc => elem_setTile_same t tile.val f hr hc, fun _ _ _ ha hr hc => elem_setTile_other t tile.val f ha hr hc⟩

/-- The rows of a tile that a guard admits, replaced. -/
theorem tileReads_setRows (t : Task) (g : Guard) (tile : Fin 8) (v : Nat → Nat → W32) :
    TileReads t (t.setTile tile.val fun r c => if t.guardBit g r then some (v r c) else none) tile
      fun r c => if t.guardBit g r then v r c else t.elem tile.val r c := by
  obtain ⟨hsame, hother⟩ := tileReads_setTile t tile fun r c => if t.guardBit g r then some (v r c) else none
  refine ⟨fun r c hr hc => (hsame r c hr hc).trans ?_, hother⟩
  dsimp only
  split <;> rfl

theorem join_joinsGroup (t : Task) (grp : Fin 8) : JoinsGroup t (t.join grp).advance grp :=
  ⟨Tab.get_put_same .., fun _ hk => Tab.get_put_other 0 _ _ hk⟩

/-- An overwritten tile costs earlier instructions no more than the standing of their results. -/
theorem overwrite_unspoiled (w : Who) (tile : Nat) (m : Nat → Nat) (s : State) :
    unspoiled (overwrite w tile m s).ops = unspoiled s.ops ∧ unspoiled (overwrite w tile m s).loose = unspoiled s.loose :=
  ⟨unspoiled_map (fun o => by split <;> rfl) _, unspoiled_map (fun o => by split <;> rfl) _⟩

section
variable {s s1 : State} {w : Who} {t : Task} {g : Guard} {grp : Fin 8} {tile : Fin 8} {ra rb : Fin 64} {vd : Fin 32}

/-! ### AZERO -/

theorem execAzero_zeroes (h : Ready s w t) (hm : mxmInto s w tile.val = false) :
    ∃ s' t', execAzero w g tile s = .next s' ∧ s'.task w = some t' ∧ OthersKept s s' w
      ∧ TileReads t t' tile (fun r c => if t.guardBit g r then 0 else t.elem tile.val r c)
      ∧ { t' with tiles := t.tiles } = { t with pc := t.pc + 8, status := .ready }
      ∧ { s' with tasks := s.tasks } =
          overwrite w tile.val (fun r => if t.guardBit g r then 2 ^ 256 - 1 else 0) (issued w s) := by
  have hexec : execAzero w g tile s = .next (overwrite w tile.val (wholeRows t g) ((issued w s).setTask w
      (t.setTile tile.val fun r _ => if t.guardBit g r then some 0 else none).advance)) := by
    rw [execAzero, hm, waiting_false, issue_ready h rfl]
  obtain ⟨hholds, hothers, -⟩ := becomes_setTask s w (t.setTile tile.val fun r _ => if t.guardBit g r then some 0 else none).advance
  exact ⟨_, _, hexec, hholds, hothers, tileReads_setRows t g tile fun _ _ => 0, rfl, rfl⟩

/-! ### Moves between a tile and the cistern -/

/-- The record of an accumulator move. -/
def moveRecord (w : Who) (t : Task) (grp : Fin 8) (tile : Fin 8) (name : String) (id : Nat) : AsyncOp :=
  { AsyncOp.of id w t grp.val name with tile := some tile.val }

/-- A state with the record of an accumulator move, the next in number, among the unfinished instructions. -/
def withMove (w : Who) (t : Task) (grp : Fin 8) (tile : Fin 8) (name : String) (id : Nat) (s : State) : State :=
  { s with ops := s.ops ++ [moveRecord w t grp tile name id], nextOp := id + 1 }

/-- An accumulator move that nothing holds back has its effect, and its record joins the unfinished ones. -/
theorem moveOp_ready {name : String} {ok : Task → Bool} {f : Task → State → Except Bad State} (h : Ready s w t) (hok : ok t = true)
    (hr : t.groups.get 0 grp.val < 255) (hm : mxmInto s w tile.val = false)
    (hf : f t ((issued w s).setTask w (t.join grp).advance) = .ok s1) :
    moveOp w grp tile name ok f s = .next (withMove w t grp tile name s.nextOp s1) := by
  have hfree : (decide (t.groups.get 0 grp.val ≥ 255) || mxmInto s w tile.val) = false := by simp [hm, hr]
  unfold moveOp
  simp only [h.1, hfree, Bool.false_eq_true, if_false]
  rw [issue_ready h hok, hf]
  rfl

theorem withMove_accepts {name : String} (hops : unspoiled s1.ops = unspoiled s.ops) :
    Accepts s (withMove w t grp tile name s.nextOp s1) w t grp name :=
  ⟨rfl, s1.ops, _, rfl, hops, rfl, rfl, rfl, rfl, rfl, rfl⟩

theorem tileCheck_ok {access a : Nat} (hin : a + 16384 ≤ t.footprint) (hal : a % 4 = 0) : tileCheck t access a = .ok () := by
  rw [tileCheck, if_neg (by omega), if_neg (not_not.mpr hal)]

/-- The 32-bit word of a core's cistern at an address. -/
def cisWord (s : State) (core a : Nat) : W32 := BitVec.ofNat 32 (leNat ((List.range 4).map fun i => s.cisByte core (a + i)))

/-- The task once its ALOAD has issued: the rows of its tile that the guard admits hold what stands in the cistern. -/
def loadedTask (s : State) (w : Who) (t : Task) (g : Guard) (grp : Fin 8) (tile : Fin 8) (a : Nat) : Task :=
  ((t.setTile tile.val fun r c => if t.guardBit g r then some (cisWord s w.core (a + 1024 * r + 4 * c)) else none).join grp).advance

section
variable (s : State) (w : Who) (t : Task) (g : Guard) (grp : Fin 8) (tile : Fin 8) (a : Nat)

theorem loadedTask_tile : TileReads t (loadedTask s w t g grp tile a) tile fun r c =>
    if t.guardBit g r then cisWord s w.core (a + 1024 * r + 4 * c) else t.elem tile.val r c :=
  tileReads_setRows t g tile fun r c => cisWord s w.core (a + 1024 * r + 4 * c)

theorem loadedTask_joins : JoinsGroup t (loadedTask s w t g grp tile a) grp := join_joinsGroup _ grp

theorem loadedTask_rest : { loadedTask s w t g grp tile a with tiles := t.tiles, groups := t.groups }
    = { t with pc := t.pc + 8, status := .ready } := rfl

end

theorem execAload_ready (h : Ready s w t) (hm : mxmInto s w tile.val = false) (hr : t.groups.get 0 grp.val < 255)
    (hin : (t.sreg ra).toNat + 16384 ≤ t.footprint) (hal : (t.sreg ra).toNat % 4 = 0)
    (hw : wordErr s w.core (t.sreg ra).toNat 16384 = false) :
    execAload w g grp tile ra s = .next (withMove w t grp tile "ALOAD" s.nextOp (overwrite w tile.val (wholeRows t g)
      (((issued w s).setTask w (t.join grp).advance).setTask w (loadedTask s w t g grp tile (t.sreg ra).toNat)))) := by
  have hbytes : ∀ a, Memory.bytes (((issued w s).setTask w (t.join grp).advance).cis w.core) a 4
      = (List.range 4).map fun i => s.cisByte w.core (a + i) := fun a => congrArg (Memory.bytes · a 4) (issued_cis w s w.core)
  refine moveOp_ready h rfl hr hm ((bind_ok (tileCheck_ok hin hal)).trans ((bind_ok (cisParity_ok hw)).trans ?_))
  simp only [hbytes, State.modTask_of_task _ (State.task_setTask_same ..)]
  rfl

theorem execAload_loads (h : Ready s w t) (hm : mxmInto s w tile.val = false) (hr : t.groups.get 0 grp.val < 255)
    (hin : (t.sreg ra).toNat + 16384 ≤ t.footprint) (hal : (t.sreg ra).toNat % 4 = 0)
    (hw : wordErr s w.core (t.sreg ra).toNat 16384 = false) :
    ∃ s' t', execAload w g grp tile ra s = .next s' ∧ s'.task w = some t' ∧ Accepts s s' w t grp "ALOAD" ∧ OthersKept s s' w
      ∧ TileReads t t' tile (fun r c => if t.guardBit g r then cisWord s w.core ((t.sreg ra).toNat + 1024 * r + 4 * c)
          else t.elem tile.val r c)
      ∧ JoinsGroup t t' grp ∧ { t' with tiles := t.tiles, groups := t.groups } = { t with pc := t.pc + 8, status := .ready }
      ∧ unspoiled s'.loose = unspoiled s.loose
      ∧ { s' with tasks := s.tasks, ops := s.ops, loose := s.loose, nextOp := s.nextOp } = issued w s := by
  have hexec := execAload_ready (g := g) h hm hr hin hal hw
  have htile := loadedTask_tile s w t g grp tile (t.sreg ra).toNat
  have hjoins := loadedTask_joins s w t g grp tile (t.sreg ra).toNat
  have htask := loadedTask_rest s w t g grp tile (t.sreg ra).toNat
  generalize loadedTask s w t g grp tile (t.sreg ra).toNat = t' at hexec htile hjoins htask
  obtain ⟨hholds, hothers, hrest⟩ := (becomes_setTask s w (t.join grp).advance).setTask t'
  obtain ⟨hops, hloose⟩ := overwrite_unspoiled w tile.val (wholeRows t g) (((issued w s).setTask w (t.join grp).advance).setTask w t')
  exact ⟨_, t', hexec, hholds, withMove_accepts hops, hothers, htile, hjoins, htask, hloose,
    congrArg (fun x : State => { x with ops := s.ops, loose := s.loose, nextOp := s.nextOp }) hrest⟩

/-! ### ASTORE -/

/-- Entry i of part c, where a list is made of parts of one length. -/
theorem getD_flatMap_range {n k c i : Nat} {f : Nat → List Byte} (hf : ∀ c, (f c).length = k) (hc : c < n) (hi : i < k) :
    ((List.range n).flatMap f).getD (k * c + i) 0 = (f c).getD i 0 := by
  induction n with
  | zero => exact absurd hc (Nat.not_lt_zero c)
  | succ n ih =>
    have hlen : ((List.range n).flatMap f).length = k * n := by rw [flatMap_length _ _ k hf, List.length_range, Nat.mul_comm]
    rw [List.range_succ, List.flatMap_append, List.flatMap_singleton]
    rcases Nat.lt_succ_iff_lt_or_eq.mp hc with hlt | rfl
    · have hin : k * c + i < k * n := by
        calc k * c + i < k * (c + 1) := by rw [Nat.mul_succ]; omega
          _ ≤ k * n := Nat.mul_le_mul_left k hlt
      rw [List.getD_append _ _ _ _ (hlen ▸ hin), ih hlt]
    · rw [List.getD_append_right _ _ _ _ (by omega), hlen, Nat.add_sub_cancel_left]

theorem tileRowBytes_length (t : Task) (tile r : Nat) : (tileRowBytes t tile r).length = 1024 := by
  rw [tileRowBytes, flatMap_length _ _ 4 fun _ => leBytes_length _ _, List.length_range]

theorem tileRowBytes_getD (t : Task) (tile r : Nat) {c i : Nat} (hc : c < 256) (hi : i < 4) :
    (tileRowBytes t tile r).getD (4 * c + i) 0 = (leBytes 4 (t.elem tile r c).toNat).getD i 0 :=
  getD_flatMap_range (fun _ => leBytes_length _ _) hc hi

/-- Rows of 1,024 bytes written one by one: each byte is that of the row it lies in. -/
theorem bytesOver_rows {row : Nat → List Byte} (hrow : ∀ r, (row r).length = 1024) (a k : Nat) (rows : List Nat) (f : Nat → Byte) :
    rows.foldl (fun f r => bytesOver f (a + 1024 * r) (row r)) f k
      = if a ≤ k ∧ (k - a) / 1024 ∈ rows then (row ((k - a) / 1024)).getD ((k - a) % 1024) 0 else f k := by
  induction rows generalizing f with
  | nil => simp
  | cons r rest ih =>
    rw [List.foldl_cons, ih, bytesOver, hrow]
    by_cases hrest : a ≤ k ∧ (k - a) / 1024 ∈ rest
    · rw [if_pos hrest, if_pos ⟨hrest.1, List.mem_cons_of_mem r hrest.2⟩]
    · rw [if_neg hrest]
      by_cases hin : a + 1024 * r ≤ k ∧ k < a + 1024 * r + 1024
      · obtain rfl : (k - a) / 1024 = r := by omega
        have hoff : k - (a + 1024 * ((k - a) / 1024)) = (k - a) % 1024 := by omega
        rw [if_pos hin, if_pos ⟨by omega, List.mem_cons_self⟩, hoff]
      · have hno : ¬ (a ≤ k ∧ (k - a) / 1024 ∈ r :: rest) := by
          rintro ⟨ha, hmem⟩
          rcases List.mem_cons.mp hmem with heq | hmem
          · omega
          · exact hrest ⟨ha, hmem⟩
        rw [if_neg hin, if_neg hno]

theorem Task.mem_onRows {r : Nat} : r ∈ t.onRows g ↔ r < 16 ∧ t.guardBit g r = true := by
  rw [Task.onRows, List.mem_filter, List.mem_range]

/-- One write of the cistern after another. -/
theorem PutsInCistern.putAll {s s' : State} {core : Nat} {f : Nat → Byte} {ι : Type} (at' : ι → Nat) (bs : ι → List Byte)
    (l : List ι) (h : PutsInCistern s s' core f) : PutsInCistern s (l.foldl (fun x r => cisPut core (at' r) (bs r) x) s') core
      (l.foldl (fun f r => bytesOver f (at' r) (bs r)) f) := by
  induction l generalizing s' f with
  | nil => exact h
  | cons r rest ih => exact ih (h.put _ _)

/-- The state in which the rows of a tile that the guard admits stand in the cistern. -/
def storedRows (w : Who) (t : Task) (g : Guard) (tile : Fin 8) (a : Nat) (s : State) : State :=
  (t.onRows g).foldl (fun s r => cisPut w.core (a + 1024 * r) (tileRowBytes t tile.val r) s) s

/-- The bytes of the cistern once the rows of a tile that the guard admits stand in it. -/
def storedBytes (s : State) (w : Who) (t : Task) (g : Guard) (tile : Fin 8) (a : Nat) : Nat → Byte :=
  (t.onRows g).foldl (fun f r => bytesOver f (a + 1024 * r) (tileRowBytes t tile.val r)) (s.cisByte w.core)

theorem storedBytes_inside (a : Nat) {r c i : Nat} (hr : r < 16) (hc : c < 256) (hi : i < 4) (hg : t.guardBit g r = true) :
    storedBytes s w t g tile a (a + 1024 * r + 4 * c + i) = (leBytes 4 (t.elem tile.val r c).toNat).getD i 0 := by
  have hrow : (a + 1024 * r + 4 * c + i - a) / 1024 = r := by omega
  have hoff : (a + 1024 * r + 4 * c + i - a) % 1024 = 4 * c + i := by omega
  rw [storedBytes, bytesOver_rows (tileRowBytes_length t tile.val), hrow, hoff,
    if_pos ⟨by omega, Task.mem_onRows.mpr ⟨hr, hg⟩⟩, tileRowBytes_getD t tile.val r hc hi]

theorem storedBytes_outside {a k : Nat} (hk : k < a ∨ a + 16384 ≤ k ∨ t.guardBit g ((k - a) / 1024) = false) :
    storedBytes s w t g tile a k = s.cisByte w.core k := by
  rw [storedBytes, bytesOver_rows (tileRowBytes_length t tile.val), if_neg]
  rintro ⟨ha, hmem⟩
  obtain ⟨hrow, hg⟩ := Task.mem_onRows.mp hmem
  rcases hk with hk | hk | hk
  · omega
  · omega
  · rw [hk] at hg
    cases hg

theorem execAstore_stores (h : Ready s w t) (hm : mxmInto s w tile.val = false) (hr : t.groups.get 0 grp.val < 255)
    (hin : (t.sreg ra).toNat + 16384 ≤ t.footprint) (hal : (t.sreg ra).toNat % 4 = 0) (hwf : s.memoriesOk = true) :
    ∃ s' t', execAstore w g grp tile ra s = .next s' ∧ MovesOn s s' w t' ∧ Accepts s s' w t grp "ASTORE" ∧ OtherCisterns s s' w
      ∧ JoinsGroup t t' grp ∧ CisternMarks s s' w.core
      ∧ { t' with groups := t.groups } = { t with pc := t.pc + 8, status := .ready }
      ∧ (∀ k, s'.cisByte w.core k = storedBytes s w t g tile (t.sreg ra).toNat k)
      ∧ { s' with tasks := s.tasks, ops := s.ops, loose := s.loose, errs := s.errs, freeCount := s.freeCount,
                  nextOp := s.nextOp, cores := s.cores } = s := by
  have hexec : execAstore w g grp tile ra s = .next (withMove w t grp tile "ASTORE" s.nextOp
      (storedRows w t g tile (t.sreg ra).toNat ((issued w s).setTask w (t.join grp).advance))) :=
    moveOp_ready h rfl hr hm ((bind_ok (tileCheck_ok hin hal)).trans rfl)
  have hputs : PutsInCistern ((issued w s).setTask w (t.join grp).advance)
      (storedRows w t g tile (t.sreg ra).toNat ((issued w s).setTask w (t.join grp).advance)) w.core
      (storedBytes s w t g tile (t.sreg ra).toNat) :=
    (putsInCistern_moved w (t.join grp).advance hwf).putAll (fun r => (t.sreg ra).toNat + 1024 * r) _ _
  generalize storedRows w t g tile (t.sreg ra).toNat ((issued w s).setTask w (t.join grp).advance) = s1 at hexec hputs
  refine ⟨_, (t.join grp).advance, hexec, movesOn_setTask hputs.tasks hputs.still, withMove_accepts hputs.ops, fun c k hc => ?others,
    join_joinsGroup t grp, hputs.marks, rfl, hputs.bytes, ?rest⟩
  case others =>
    exact congrArg (fun x : Core => Memory.byte x.cistern k) ((hputs.others c hc).trans (issued_other w s hc))
  case rest => exact (congrArg (fun x : State => { x with tasks := s.tasks, nextOp := s.nextOp, cores := s.cores }) hputs.rest :)

/-! ### Moves between a tile and a vector register -/

theorem tileSpot_eq (v : Word) : tileSpot v = (v.toNat % 8, v.toNat / 16 % 16, 64 * (v.toNat / 256 % 4)) := by
  simp [tileSpot, bitsN, Nat.shiftRight_eq_div_pow]

/-- A move between a tile and a vector register that no MXM into its tile holds back. -/
theorem spotOp_ready {body : Task → State → State} (h : Ready s w t) (hm : mxmInto s w ((t.sreg rb).toNat % 8) = false) :
    waiting (mxmInto s w (spotTile s w rb)) s (issue w anyLevel body s) = .next (body t (issued w s)) := by
  have hspot : spotTile s w rb = (t.sreg rb).toNat % 8 := by simp only [spotTile, h.1, tileSpot_eq]
  rw [hspot, hm, waiting_false, issue_ready h rfl]

theorem moveParity_sound (tile : Nat) (hp : ⟨6, w.core, 0⟩ ∉ s.errs) : moveParity w t tile s = (t, s) :=
  if_neg fun hc => hp (List.contains_iff_mem.mp hc)

theorem execVfroma_reads (h : Ready s w t) (hm : mxmInto s w ((t.sreg rb).toNat % 8) = false) (hp : ⟨6, w.core, 0⟩ ∉ s.errs) :
    RunsTask (execVfroma w g vd rb s) s w (WritesLanes t g vd fun l =>
      t.elem ((t.sreg rb).toNat % 8) ((t.sreg rb).toNat / 16 % 16) (64 * ((t.sreg rb).toNat / 256 % 4) + l)) := by
  refine ⟨_, _, (spotOp_ready h hm).trans ?_, becomes_setTask s w _, writesLanes_setVec t g vd _⟩
  simp only [moveParity_sound (s := issued w s) _ hp, tileSpot_eq]

/-- The task once its ATOV has issued: the lanes of vd that the guard admits stand in 64 columns of a tile row. -/
def spotTask (t : Task) (g : Guard) (vd : Fin 32) (k row col : Nat) : Task :=
  (t.setTile k fun r c => if r = row && col ≤ c && c < col + 64 && t.guardBit g (c - col) then some (t.lane vd (c - col))
    else none).advance

/-- The columns that an ATOV writes, as bits of its row. -/
def spotBits (t : Task) (g : Guard) (row col r : Nat) : Nat :=
  if r = row then (((List.range 64).filter fun l => t.guardBit g l).map fun l => 2 ^ (col + l)).sum else 0

theorem spotTask_lane (k : Nat) {row col l : Nat} (hrow : row < 16) (hcol : col + 64 ≤ 256) (hl : l < t.lanes) :
    (spotTask t g vd k row col).elem k row (col + l) = if t.guardBit g l then t.lane vd l else t.elem k row (col + l) := by
  have hlanes := t.lanes_le
  have hat : col + l < col + 64 := by omega
  rw [spotTask, Task.elem_advance, elem_setTile_same t k _ hrow (by omega)]
  simp only [decide_true, Nat.le_add_right, hat, Nat.add_sub_cancel_left, Bool.true_and]
  split <;> rfl

theorem spotTask_other {k row col j r c : Nat} (hne : j ≠ k ∨ r ≠ row ∨ c < col ∨ col + 64 ≤ c) (hr : r < 16) (hc : c < 256) :
    (spotTask t g vd k row col).elem j r c = t.elem j r c := by
  rw [spotTask, Task.elem_advance]
  by_cases hj : j = k
  · subst hj
    have hout : ¬ (r = row && col ≤ c && c < col + 64 && t.guardBit g (c - col)) = true := by
      simp only [Bool.and_eq_true, decide_eq_true_eq]
      omega
    rw [elem_setTile_same t j _ hr hc, if_neg hout]
    rfl
  · exact elem_setTile_other t k _ hj hr hc

theorem execAtov_ready (h : Ready s w t) (hm : mxmInto s w ((t.sreg rb).toNat % 8) = false) (hp : ⟨6, w.core, 0⟩ ∉ s.errs) :
    execAtov w g vd rb s = .next (overwrite w ((t.sreg rb).toNat % 8)
      (spotBits t g ((t.sreg rb).toNat / 16 % 16) (64 * ((t.sreg rb).toNat / 256 % 4))) ((issued w s).setTask w
        (spotTask t g vd ((t.sreg rb).toNat % 8) ((t.sreg rb).toNat / 16 % 16) (64 * ((t.sreg rb).toNat / 256 % 4))))) := by
  refine (spotOp_ready h hm).trans ?_
  simp only [moveParity_sound (s := issued w s) _ hp, tileSpot_eq]
  rfl

theorem execAtov_writes {k row col : Nat} (h : Ready s w t) (hm : mxmInto s w k = false) (hp : ⟨6, w.core, 0⟩ ∉ s.errs)
    (hk : k = (t.sreg rb).toNat % 8) (hrow : row = (t.sreg rb).toNat / 16 % 16) (hcol : col = 64 * ((t.sreg rb).toNat / 256 % 4)) :
    ∃ s' t', execAtov w g vd rb s = .next s' ∧ s'.task w = some t' ∧ OthersKept s s' w
      ∧ (∀ l, l < t.lanes → t'.elem k row (col + l) = if t.guardBit g l then t.lane vd l else t.elem k row (col + l))
      ∧ (∀ j r c, j ≠ k ∨ r ≠ row ∨ c < col ∨ col + 64 ≤ c → j < 8 → r < 16 → c < 256 → t'.elem j r c = t.elem j r c)
      ∧ { t' with tiles := t.tiles } = { t with pc := t.pc + 8, status := .ready }
      ∧ unspoiled s'.ops = unspoiled s.ops ∧ unspoiled s'.loose = unspoiled s.loose
      ∧ { s' with tasks := s.tasks, ops := s.ops, loose := s.loose } = issued w s := by
  have hexec := execAtov_ready (g := g) (vd := vd) h (hk ▸ hm) hp
  rw [← hk, ← hrow, ← hcol] at hexec
  obtain ⟨hops, hloose⟩ := overwrite_unspoiled w k (spotBits t g row col) ((issued w s).setTask w (spotTask t g vd k row col))
  obtain ⟨hholds, hothers, -⟩ := becomes_setTask s w (spotTask t g vd k row col)
  exact ⟨_, _, hexec, hholds, hothers, fun l hl => spotTask_lane k (by omega) (by omega) hl,
    fun j r c hne _ hr hc => spotTask_other hne hr hc, rfl, hops, hloose, rfl⟩

/-! ### The array's parity in error (R217) -/

theorem errs_makeDirty (c : Nat) (noReplay : Bool) (s : State) : (makeDirty c noReplay s).errs = s.errs := by
  unfold makeDirty
  dsimp only
  split
  · rfl
  · exact State.modSeal_errs ..

/-- An error of an array is gone once it has been found. -/
theorem array_notMem_foundError (c core : Nat) (h : W32) (s : State) : ⟨6, core, 0⟩ ∉ (foundError c h (coreErr 6 core) s).errs := by
  have hdirty : (foundError c h (coreErr 6 core) s).errs = s.errs.filter fun x => some x ≠ some ⟨6, core, 0⟩ :=
    List.foldlRecOn (motive := fun x : State => x.errs = s.errs.filter fun x => some x ≠ some ⟨6, core, 0⟩) _ _
      (errs_makeDirty ..) fun x hx k _ => (errs_makeDirty k false x).trans hx
  simp [hdirty]

/-- A move that finds the array's parity in error keeps its task but for the tile, and the error is found. -/
theorem moveParity_unsound (t : Task) (tile : Nat) (hp : ⟨6, w.core, 0⟩ ∈ s.errs) :
    (moveParity w t tile s).1.pc = t.pc ∧ ⟨6, w.core, 0⟩ ∉ (moveParity w t tile s).2.errs := by
  rw [moveParity, if_pos (List.contains_iff_mem.mpr hp)]
  exact ⟨rfl, array_notMem_foundError _ _ _ _⟩

theorem execVfroma_goesOn (h : Ready s w t) (hm : mxmInto s w ((t.sreg rb).toNat % 8) = false) (hp : ⟨6, w.core, 0⟩ ∈ s.errs) :
    ∃ s' t', execVfroma w g vd rb s = .next s' ∧ s'.task w = some t' ∧ t'.pc = t.pc + 8 ∧ t'.status = .ready
      ∧ ⟨6, w.core, 0⟩ ∉ s'.errs := by
  obtain ⟨hpc, herrs⟩ := moveParity_unsound t (tileSpot (t.sreg rb)).1 (s := issued w s) hp
  exact ⟨_, _, spotOp_ready h hm, State.task_setTask_same .., congrArg (· + 8) hpc, rfl, herrs⟩

theorem execAtov_goesOn (h : Ready s w t) (hm : mxmInto s w ((t.sreg rb).toNat % 8) = false) (hp : ⟨6, w.core, 0⟩ ∈ s.errs) :
    ∃ s' t', execAtov w g vd rb s = .next s' ∧ s'.task w = some t' ∧ t'.pc = t.pc + 8 ∧ t'.status = .ready
      ∧ ⟨6, w.core, 0⟩ ∉ s'.errs := by
  obtain ⟨hpc, herrs⟩ := moveParity_unsound t (tileSpot (t.sreg rb)).1 (s := issued w s) hp
  exact ⟨_, _, spotOp_ready h hm, State.task_setTask_same .., congrArg (· + 8) hpc, rfl, herrs⟩

end

end Sys2Proof.Machine
end

section

namespace Sys2Proof

open Machine

/-- Settles O16: each move by what its instruction leaves where no MXM into the tile holds it back; a move between a tile and a vector
register by the array's parity. -/
theorem accumulatorMoves : Obligations.AccumulatorMoves := by
  unfold Obligations.AccumulatorMoves
  rintro s w t g grp tile ra rb vd a h rfl
  refine ⟨execAzero_zeroes h, fun hm hr hin hal => ⟨execAload_loads h hm hr hin hal, fun hwf => ?astore⟩, fun hm hp => ?unsound,
    fun hm hp => ⟨execVfroma_reads h hm hp, execAtov_writes h hm hp rfl rfl rfl⟩⟩
  case astore =>
    obtain ⟨s', t', hexec, hmoves, haccepts, hcisterns, hjoins, hmarks, htask, hbytes, hrest⟩ := execAstore_stores h hm hr hin hal hwf
    exact ⟨s', t', hexec, hmoves, haccepts, hcisterns, hjoins, hmarks, htask,
      fun r c i hr hc hi hg => (hbytes _).trans (storedBytes_inside _ hr hc hi hg),
      fun k hk => (hbytes k).trans (storedBytes_outside hk), hrest⟩
  case unsound =>
    simp only [List.forall_mem_cons]
    exact ⟨execVfroma_goesOn h hm hp, execAtov_goesOn h hm hp, List.forall_mem_nil _⟩

end Sys2Proof
end

section
/-! SUPPORT. Scalar FP32 instructions and the conversion of FP32 to an integer (04_selod_isa.md R93, Table 4.7; 08_numerics.md R224,
R238). -/

namespace Sys2Proof.Machine

open Sys2Proof

/-! ### FP32 to a signed integer (R224) -/

/-- The whole number below a magnitude m × 2^e. -/
def wholePart (m : Nat) (e : Int) : Nat := if 0 ≤ e then m * 2 ^ e.toNat else m >>> (-e).toNat

theorem wholePart_cast (m : Nat) (e : Int) :
    (wholePart m e : Int) = if 0 ≤ e then (m : Int) * 2 ^ e.toNat else (m : Int) / 2 ^ (-e).toNat := by
  unfold wholePart
  split
  · push_cast; rfl
  · rw [Nat.shiftRight_eq_div_pow]; push_cast; rfl

section
variable (free : Word) {a : W32} {neg : Bool} {m : Nat} {e : Int}

theorem fcvtfi_inf (h : f32 a = .inf neg) : fcvtfi free a = BitVec.ofInt 64 (if neg then -(2 ^ 63) else 2 ^ 63 - 1) := by
  rw [fcvtfi, h]
  cases neg <;> rfl

/-- A finite value is truncated, and saturates at the ends of the signed range. -/
theorem fcvtfi_fin (h : f32 a = .fin neg m e) : fcvtfi free a = BitVec.ofInt 64
    (max (-(2 ^ 63)) (min (2 ^ 63 - 1) ((if neg then -1 else 1) * (wholePart m e : Int)))) := by
  rw [fcvtfi, h]
  change (if neg then (if wholePart m e ≥ 2 ^ 63 then _ else -(BitVec.ofNat 64 (wholePart m e)))
    else (if wholePart m e ≥ 2 ^ 63 then _ else BitVec.ofNat 64 (wholePart m e))) = _
  generalize wholePart m e = n
  cases neg with
  | true =>
    simp only [if_true, neg_one_mul]
    split
    next hbig =>
      have hend : max (-(2 ^ 63)) (min (2 ^ 63 - 1) (-(n : Int))) = -(2 ^ 63) := by omega
      rw [hend]; rfl
    next hin =>
      have hmid : max (-(2 ^ 63)) (min (2 ^ 63 - 1) (-(n : Int))) = -(n : Int) := by omega
      rw [hmid, BitVec.ofInt_neg, BitVec.ofInt_natCast]
  | false =>
    simp only [Bool.false_eq_true, if_false, one_mul]
    split
    next hbig =>
      have hend : max (-(2 ^ 63)) (min (2 ^ 63 - 1) (n : Int)) = 2 ^ 63 - 1 := by omega
      rw [hend]; rfl
    next hin =>
      have hmid : max (-(2 ^ 63)) (min (2 ^ 63 - 1) (n : Int)) = (n : Int) := by omega
      rw [hmid, BitVec.ofInt_natCast]

end

/-! ### Scalar instructions -/

section
variable {s : State} {w : Who} {t : Task} {g : Guard} {rd ra : Fin 64}

/-- A scalar FP32 instruction whose guard acts writes rd, and counts a result that is no finite number. -/
theorem scalarFp_writes {f : Task → W32} {v : W32} (h : Ready s w t) (hg : t.acts g = true) (hv : v = f t) :
    RunsCounted (scalarFp w g rd f s) s w t ⟨0, if nonfin v then 1 else 0⟩ (WritesScalar t rd (v.zeroExtend 64)) := by
  subst hv
  refine countedOp_counts h rfl ?count ?writes
  case count => simp only [hg, if_true, b2n]
  case writes => simp only [hg, if_true]; exact writesScalar_setS t rd _

/-- The task once its FCVTFI has issued. -/
def convertedTask (s : State) (t : Task) (rd ra : Fin 64) : Task :=
  (t.setS rd (fcvtfi (Config.freeWord s.freeCount 0) (t.fpReg ra))).advance

/-- An FCVTFI of a number changes its own task alone. -/
theorem execFcvtfi_number {v : Word} (h : Ready s w t) (hg : t.acts g = true) (hnan : f32 (t.fpReg ra) ≠ .nan)
    (hv : fcvtfi (Config.freeWord s.freeCount 0) (t.fpReg ra) = v) :
    RunsTask (execFcvtfi w g rd ra s) s w (WritesScalar t rd v) := by
  have hnum : isNan (t.fpReg ra) = false := decide_eq_false hnan
  refine runsTask_issue (t' := convertedTask s t rd ra) h rfl ?_ (hv ▸ writesScalar_setS t rd _)
  simp only [hg, hnum, if_true, Bool.false_eq_true, if_false]
  rfl

/-- An FCVTFI of a NaN draws its result. -/
theorem execFcvtfi_nan (h : Ready s w t) (hg : t.acts g = true) (hnan : f32 (t.fpReg ra) = .nan) :
    ∃ s' t' v, execFcvtfi w g rd ra s = .next s' ∧ s'.task w = some t' ∧ WritesScalar t rd v t'
      ∧ OnlyTask s { s' with freeCount := s.freeCount } w := by
  have hno : isNan (t.fpReg ra) = true := decide_eq_true hnan
  have hexec : execFcvtfi w g rd ra s
      = .next { (issued w s).setTask w (convertedTask s t rd ra) with freeCount := s.freeCount + 1 } := by
    rw [execFcvtfi, issue_ready h rfl]
    simp only [hg, hno, if_true]
    rfl
  obtain ⟨hholds, honly⟩ := becomes_setTask s w (convertedTask s t rd ra)
  exact ⟨_, _, _, hexec, hholds, writesScalar_setS t rd _, honly⟩

end

end Sys2Proof.Machine
end

section

namespace Sys2Proof

open Machine

/-- Settles O5: each instruction is the scalar FP32 one of its operation (`scalarFp_writes`); FCVTFI by the kind of its operand. -/
theorem scalarFloatResults : Obligations.ScalarFloatResults := by
  unfold Obligations.ScalarFloatResults
  refine ⟨fun op hop s w t g rd ra rb v h hg hv => ?two, fun s w t g rd ra rb rc v h hg =>
    ⟨scalarFp_writes (f := fun x => ffma (x.fpReg ra) (x.fpReg rb) (x.fpReg rc)) h hg,
      scalarFp_writes (f := fun x => fcvtif (x.sreg ra)) h hg⟩,
    fun s w t g rd ra h hg => ⟨fun neg m e hx => ?fin, fun neg hx => ?inf, execFcvtfi_nan h hg⟩⟩
  case two =>
    suffices ∃ f, exec (op.1 w g rd ra rb) s = scalarFp w g rd f s
        ∧ f t = op.2 ((t.sreg ra).truncate 32) ((t.sreg rb).truncate 32) by
      obtain ⟨f, hexec, hf⟩ := this
      exact hexec ▸ scalarFp_writes h hg (hv.trans hf.symm)
    clear hv
    revert op
    simp only [List.forall_mem_cons]
    exact ⟨⟨_, rfl, rfl⟩, ⟨_, rfl, rfl⟩, ⟨_, rfl, rfl⟩, ⟨_, rfl, rfl⟩, ⟨_, rfl, rfl⟩, List.forall_mem_nil _⟩
  case fin =>
    rw [← wholePart_cast]
    exact execFcvtfi_number h hg (fun hnan => by rw [Task.fpReg, hx] at hnan; cases hnan) (fcvtfi_fin _ hx)
  case inf => exact execFcvtfi_number h hg (fun hnan => by rw [Task.fpReg, hx] at hnan; cases hnan) (fcvtfi_inf _ hx)

end Sys2Proof
end

section
/-! SUPPORT. The random number instructions (04_selod_isa.md R93, R96, Table 4.15; 08_numerics.md R242 to R245). -/

namespace Sys2Proof.Machine

open Sys2Proof

/-! ### Running states of the lanes -/

/-- Entries put one by one under their places, where a test admits the place. -/
theorem Tab.get_putAll {α : Type} (d e : α) (on : Nat → Bool) (r : Tab α) (xs : List α) (k : Nat) :
    (((List.range xs.length).zip xs).foldl (fun r x => if on x.1 then r.put x.1 x.2 else r) r).get d k
      = if k < xs.length ∧ on k = true then xs.getD k e else r.get d k := by
  induction xs using List.reverseRecOn with
  | nil => simp
  | append_singleton xs x ih =>
    rw [List.length_append, List.length_singleton, List.range_succ, List.zip_append List.length_range, List.foldl_append]
    simp only [List.zip_cons_cons, List.zip_nil_right, List.foldl_cons, List.foldl_nil]
    by_cases hk : k = xs.length
    · subst hk
      by_cases hon : on xs.length = true
      · simp [hon]
      · simp [hon, ih]
    · generalize List.foldl _ r _ = r' at ih ⊢
      have hlast : (if on xs.length = true then r'.put xs.length x else r').get d k = r'.get d k := by
        split
        · exact Tab.get_put_other d x r' hk
        · rfl
      rw [hlast, ih]
      by_cases hlt : k < xs.length
      · have hlt' : k < xs.length + 1 := by omega
        simp only [hlt, hlt', true_and, List.getD_append _ _ _ _ hlt]
      · have hge : ¬ k < xs.length + 1 := by omega
        simp only [hlt, hge, false_and, if_false]

section
variable (t : Task) (g : Guard)

/-- The lanes that the guard admits take their states. -/
theorem Task.rngLane_setRng {xs : List Mix} (hlen : xs.length = t.lanes) (l : Nat) :
    (t.setRng g xs).rngLane l = if t.guardBit g l then xs.getD l 0 else t.rngLane l := by
  have hput := Tab.get_putAll (Config.freeRng t.rngFree l) 0 (t.guardBit g) t.rng xs l
  rw [hlen] at hput
  refine hput.trans ?_
  by_cases hl : l < t.lanes
  · simp only [hl, true_and]; rfl
  · simp only [hl, false_and, if_false, t.guardBit_high g (Nat.le_of_not_lt hl), Bool.false_eq_true]; rfl

theorem autoLanes_length (jump : List Mix) (n : Nat) (x : Mix) : (autoLanes jump n x).length = n := by
  induction n generalizing x with
  | zero => rfl
  | succ n ih => exact congrArg (· + 1) (ih _)

/-- The task once its RINIT has issued. -/
def seededTask (ra : Fin 64) : Task := (t.setRng g (autoLanes (autoPow 64) t.lanes (autoSeed (t.sreg ra)))).advance

theorem seededTask_rngLane (ra : Fin 64) (l : Nat) : (seededTask t g ra).rngLane l
    = if t.guardBit g l then (autoLanes (autoPow 64) t.lanes (autoSeed (t.sreg ra))).getD l 0 else t.rngLane l :=
  t.rngLane_setRng g (autoLanes_length _ _ _) l

/-- The task once its RDR has issued. -/
def drawnTask (vd : Fin 32) : Task := ((t.setVec g vd fun l => (autoDraw (t.rngLane l)).2).setRng g
  ((List.range t.lanes).map fun l => (autoDraw (t.rngLane l)).1)).advance

theorem drawnTask_rngLane (vd : Fin 32) (l : Nat) :
    (drawnTask t g vd).rngLane l = if t.guardBit g l then autoStep (t.rngLane l) else t.rngLane l := by
  have hset := (t.setVec g vd fun l => (autoDraw (t.rngLane l)).2).rngLane_setRng g
    (xs := (List.range t.lanes).map fun l => (autoDraw (t.rngLane l)).1) (by simp) l
  refine hset.trans ?_
  change (if t.guardBit g l then _ else t.rngLane l) = _
  split
  next hon =>
    have hl : l < t.lanes := by
      by_contra hno
      rw [t.guardBit_high g (Nat.le_of_not_lt hno)] at hon
      cases hon
    rw [List.getD_eq_getElem _ _ (by simpa using hl), List.getElem_map, List.getElem_range]
    rfl
  next => rfl

end

/-! ### The four instructions -/

section
variable {s : State} {w : Who} {t : Task} {g : Guard} {vd : Fin 32} {ra rb : Fin 64}

/-- An instruction of level 2 on its own task is malformed at level 1 (R96). -/
theorem onTask_malformedAtLevel1 {f : Task → Task} (h : Ready s w t) (hl : t.level = 1) :
    EndsParcel (onTask w level2 f s) s w t (.violation 2 4 t.pc.toNat) :=
  endsParcel_issue h (decide_eq_false (not_not.mpr hl))

theorem execRkey_loads (h : Ready s w t) (hl : t.level ≠ 1) (hg : t.acts g = true) :
    RunsTask (execRkey w g ra rb s) s w (fun t' =>
      t' = { t with keySeed := t.sreg ra, keyStream := (t.sreg rb).truncate 40, pc := t.pc + 8, status := .ready }) := by
  refine runsTask_onTask h (decide_eq_true hl) ?_
  rw [if_pos hg]
  rfl

theorem execRdk_writes (h : Ready s w t) (hl : t.level ≠ 1) :
    RunsTask (execRdk w g vd ra s) s w (WritesLanes t g vd fun l =>
      (keyed t.keySeed t.keyStream (BitVec.ofNat 24 ((t.sreg ra).toNat + l))).truncate 32) := by
  refine runsTask_onTask h (decide_eq_true hl) ?_
  have helement : ∀ l, (t.sreg ra).truncate 24 + BitVec.ofNat 24 l = BitVec.ofNat 24 ((t.sreg ra).toNat + l) := fun l => by
    rw [BitVec.ofNat_add, BitVec.truncate_eq_setWidth, BitVec.ofNat_toNat]
  simp only [helement]
  exact writesLanes_setVec t g vd _

theorem execRinit_seeds (h : Ready s w t) : RunsTask (execRinit w g ra s) s w (fun t' =>
    (∀ l, l < t.lanes → t.guardBit g l = true →
      t'.rngLane l = (autoLanes (autoPow 64) t.lanes (autoSeed (t.sreg ra))).getD l 0)
    ∧ (∀ l, t.guardBit g l = false → t'.rngLane l = t.rngLane l)
    ∧ { t' with rng := t.rng } = { t with pc := t.pc + 8, status := .ready }) := by
  refine runsTask_onTask h rfl ?_
  exact ⟨fun l _ hon => (seededTask_rngLane t g ra l).trans (if_pos hon),
    fun l hoff => (seededTask_rngLane t g ra l).trans (if_neg (Bool.eq_false_iff.mp hoff)), rfl⟩

theorem execRdr_draws (h : Ready s w t) : RunsTask (execRdr w g vd s) s w (fun t' =>
    (∀ l, t'.lane vd l = if t.guardBit g l then (mixround (mixround (autoStep (t.rngLane l)) 0) 1).truncate 32
      else t.lane vd l)
    ∧ (∀ r l, r ≠ vd → t'.lane r l = t.lane r l)
    ∧ (∀ l, t'.rngLane l = if t.guardBit g l then autoStep (t.rngLane l) else t.rngLane l)
    ∧ { t' with vregs := t.vregs, rng := t.rng } = { t with pc := t.pc + 8, status := .ready }) := by
  refine runsTask_onTask h rfl ?_
  exact ⟨fun l => t.lane_setVec_same g vd _ l, fun _ l hr => t.lane_setVec_other g hr _ l, drawnTask_rngLane t g vd, rfl⟩

end

end Sys2Proof.Machine
end

section

namespace Sys2Proof

open Machine

/-- Settles O22: RKEY and RDK at level 2 by what they write, and at level 1 as malformed; RINIT and RDR by the states they leave in
the lanes. -/
theorem randomNumberInstructions : Obligations.RandomNumberInstructions := by
  unfold Obligations.RandomNumberInstructions
  exact fun s w t g vd ra rb h => ⟨execRkey_loads h, execRdk_writes h,
    fun hl => ⟨onTask_malformedAtLevel1 h hl, onTask_malformedAtLevel1 h hl⟩,
    execRinit_seeds h, execRdr_draws h⟩

end Sys2Proof
end

section
/-! SUPPORT. Conversions and planes in registers (04_selod_isa.md Table 4.13; 08_numerics.md R226 to R229, R236 to R238). -/

namespace Sys2Proof.Machine

open Sys2Proof

/-- The low half of a lane is its value modulo 2^16. -/
theorem and_lowHalf (x : W32) : x &&& 0xFFFF = x % 65536 :=
  BitVec.eq_of_toNat_eq ((BitVec.toNat_and ..).trans (Nat.and_two_pow_sub_one_eq_mod x.toNat 16))

section
variable {s : State} {w : Who} {t : Task} {g : Guard} {vd va vb vc : Fin 32} {rc : Fin 64} {src dst : BitVec 4} {sr : Bool}

/-- A lane instruction with counts of its own writes the lanes that the guard admits, and counts what they count. -/
theorem laneCounted_counts {ok : Task → Bool} {f : Task → Nat → Nat × Counts} {v : Nat → W32} {c : Nat → Counts} (h : Ready s w t)
    (hok : ok t = true) (hv : ∀ l, BitVec.ofNat 32 (f t l).1 = v l) (hc : ∀ l, (f t l).2 = c l) :
    RunsCounted (laneCounted w g ok vd f s) s w t (t.sumCounts g c) (WritesLanes t g vd v) := by
  obtain rfl : (fun l => BitVec.ofNat 32 (f t l).1) = v := funext hv
  obtain rfl : (fun l => (f t l).2) = c := funext hc
  exact countedOp_counts h hok rfl (writesLanes_setVec t g vd _)

theorem execCvtnRegister_converts {f : Nat → Nat × Counts} (h : Ready s w t)
    (hok : cvtRegFunc (decide (t.level ≠ 1)) true (cvtFunc src dst 0 sr) = true)
    (hf : ∀ l, f l = narrow dst.toNat (if sr then .stochastic (drawOf t (((t.sreg rc).toNat + l) % 2 ^ 64)) else .nearest)
      (elVal src.toNat ((t.lane va l).toNat % 2 ^ codeBits src.toNat) 0)) :
    RunsCounted (execCvtnRegister w g vd va rc src dst sr s) s w t (t.sumCounts g fun l => (f l).2)
      (WritesLanes t g vd fun l => BitVec.ofNat 32 (f l).1) :=
  have hlane : ∀ l, cvtnLane t src.toNat dst.toNat sr (t.sreg rc) (t.lane va l) l = f l := fun l => (hf l).symm
  laneCounted_counts h hok (fun l => by rw [hlane]) fun l => by rw [hlane]

theorem execCvtwRegister_converts {f : Nat → Nat × Bool} (h : Ready s w t)
    (hok : cvtRegFunc (decide (t.level ≠ 1)) false (cvtFunc src dst 0 false) = true)
    (hf : ∀ l, f l = widenTo src.toNat dst.toNat ((t.lane va l).toNat % 2 ^ codeBits src.toNat) 0) :
    RunsCounted (execCvtwRegister w g vd va src dst s) s w t (t.sumCounts g fun l => ⟨0, if (f l).2 then 1 else 0⟩)
      (WritesLanes t g vd fun l => BitVec.ofNat 32 (f l).1) :=
  laneCounted_counts h hok (fun l => by rw [hf]; rfl) fun l => by rw [hf]; rfl

section
variable {m : Nat → Nat} (h : Ready s w t) (hl : t.level ≠ 1) (hm : ∀ l, m l = fmt40.enc false
  ((fmt40.val ((t.lane va l).toNat * 256 + (t.lane vb l).toNat % 256)).add (f32 (t.lane vc l))))
include h hl hm

theorem execSplitx_fringe : RunsCounted (execSplitx w g vd va vb vc true s) s w t (t.sumCounts g fun _ => ⟨0, 0⟩)
    (WritesLanes t g vd fun l => BitVec.ofNat 32 (m l % 256)) :=
  laneCounted_counts h (decide_eq_true hl) (fun l => by rw [hm]; rfl) fun _ => rfl

theorem execSplitx_word : RunsCounted (execSplitx w g vd va vb vc false s) s w t
    (t.sumCounts g fun l => ⟨0, if nonfin (BitVec.ofNat 32 (m l / 256)) then 1 else 0⟩)
    (WritesLanes t g vd fun l => BitVec.ofNat 32 (m l / 256)) :=
  laneCounted_counts h (decide_eq_true hl) (fun l => by rw [hm]; rfl) fun l => by rw [hm]; rfl

end

theorem execJoinx_narrows {f : Nat → Nat × Counts} (h : Ready s w t) (hl : t.level ≠ 1) (hf : ∀ l, f l = narrowFmt fmt32 .nearest
      (fmt40.val ((t.lane va l).toNat * 256 + (t.lane vb l).toNat % 256))) :
    RunsCounted (execJoinx w g vd va vb s) s w t (t.sumCounts g fun l => (f l).2)
      (WritesLanes t g vd fun l => BitVec.ofNat 32 (f l).1) :=
  laneCounted_counts h (decide_eq_true hl) (fun l => by rw [hf]; rfl) fun l => by rw [hf]; rfl

end

end Sys2Proof.Machine
end

section

namespace Sys2Proof

open Machine

/-- Settles O21: SPLIT and JOIN are lane instructions (`laneOp_writes`); the others count what each lane counts
(`laneCounted_counts`). -/
theorem registerConversionResults : Obligations.RegisterConversionResults := by
  unfold Obligations.RegisterConversionResults
  exact fun s w t g vd va vb vc rc src dst sr h => ⟨laneOp_writes h fun l => and_lowHalf _, laneOp_writes h fun l => rfl,
    laneOp_writes h fun l => congrArg _ (and_lowHalf _), fun hok f hf => execCvtnRegister_converts h hok hf,
    fun hok f hf => execCvtwRegister_converts h hok hf,
    fun hl m hm => ⟨execSplitx_fringe h hl hm, execSplitx_word h hl hm⟩, fun hl f hf => execJoinx_narrows h hl hf⟩

end Sys2Proof
end

section
/-! SUPPORT. ASTN, the narrowing of a tile into the cistern (07_cube_array.md R203; 08_numerics.md R231, R232, R234, R238). -/

namespace Sys2Proof.Machine

open Sys2Proof

/-! ### Rows narrowed into the cistern -/

theorem bytesOver_nil (f : Nat → Byte) (a : Nat) : bytesOver f a [] = f :=
  funext fun k => if_neg (by simp only [List.length_nil]; omega)

section
variable (core fmt a row scales : Nat) (n : Nat → List Nat × List Nat × Counts)

/-- One more narrowed row: its elements and, where its format is block-scaled, its scales stand in the cistern, and its counts are
added. -/
def narrowRowInto (p : State × Counts) (r : Nat) : State × Counts :=
  let s1 := cisPut core (a + r * row) (packEls fmt (n r).1) p.1
  (if scales = 0 then s1 else cisPut core (a + 16 * row + r * scales) ((n r).2.1.map (BitVec.ofNat 8)) s1, p.2.add (n r).2.2)

/-- The bytes of the cistern once one more narrowed row stands in it. -/
def narrowedBytes (f : Nat → Byte) (r : Nat) : Nat → Byte :=
  bytesOver (bytesOver f (a + r * row) (packEls fmt (n r).1)) (a + 16 * row + r * scales)
    (if scales = 0 then [] else (n r).2.1.map (BitVec.ofNat 8))

theorem PutsInCistern.narrowRow {s : State} {f : Nat → Byte} {p : State × Counts} (h : PutsInCistern s p.1 core f) (r : Nat) :
    PutsInCistern s (narrowRowInto core fmt a row scales n p r).1 core (narrowedBytes fmt a row scales n f r) := by
  unfold narrowRowInto narrowedBytes
  have hrow := h.put (a + r * row) (packEls fmt (n r).1)
  by_cases hs : scales = 0
  · simp only [hs, if_true, bytesOver_nil]
    exact hrow
  · simp only [hs, if_false]
    exact hrow.put _ _

theorem PutsInCistern.narrowRows {s : State} {f : Nat → Byte} {p : State × Counts} (h : PutsInCistern s p.1 core f) (rows : List Nat) :
    PutsInCistern s (rows.foldl (narrowRowInto core fmt a row scales n) p).1 core (rows.foldl (narrowedBytes fmt a row scales n) f) := by
  induction rows generalizing p f with
  | nil => exact h
  | cons r rest ih => exact ih (h.narrowRow core fmt a row scales n r)

/-- Rows that count nothing add nothing. -/
theorem narrowRowsInto_uncounted {rows : List Nat} (hn : ∀ r ∈ rows, (n r).2.2 = ⟨0, 0⟩) (p : State × Counts) :
    (rows.foldl (narrowRowInto core fmt a row scales n) p).2 = p.2 := by
  induction rows generalizing p with
  | nil => rfl
  | cons r rest ih =>
    obtain ⟨hr, hrest⟩ := List.forall_mem_cons.mp hn
    refine (ih hrest _).trans ?_
    change p.2.add (n r).2.2 = p.2
    rw [hr]
    rfl

end

/-! ### What follows a write to the cistern by an accumulator move -/

/-- Errors and loose instructions of one state are those of the other. -/
theorem CisternMarks.of_eq {s s1 s2 : State} {core : Nat} (h : CisternMarks s s1 core) (hl : s2.loose = s1.loose)
    (he : s2.errs = s1.errs) : CisternMarks s s2 core := by
  unfold CisternMarks
  rw [hl, he]
  exact h

section
variable {s s1 : State} {w : Who} {t : Task} {grp tile : Fin 8} {f : Nat → Byte} {c : Counts} {name : String}

/-- The state after an accumulator move that has written the cistern and counts c. -/
def countedMove (w : Who) (t : Task) (grp tile : Fin 8) (name : String) (id : Nat) (c : Counts) (s : State) : State :=
  withMove w t grp tile name id (countNum t.ctx t.hostSeq (Who.die w) c s)

section
variable (h : PutsInCistern ((issued w s).setTask w (t.join grp).advance) s1 w.core f)
include h

theorem countedMove_movesOn : MovesOn s (countedMove w t grp tile name s.nextOp c s1) w (t.join grp).advance := by
  have htask : ∀ x : Who, (countedMove w t grp tile name s.nextOp c s1).task x = s1.task x := fun x =>
    congrArg (fun l => Tab.find l (Who.key x)) (countNum_counted t.ctx t.hostSeq (Who.die w) c s1).tasks
  exact movesOn_setTask (fun x => htask x ▸ h.tasks x) fun x hx => (htask x).trans (h.still x hx)

theorem countedMove_accepts :
    Accepts s (countedMove w t grp tile name s.nextOp c s1) w t grp name :=
  withMove_accepts ((congrArg unspoiled (countNum_ops ..)).trans h.ops)

theorem countedMove_cisByte (k : Nat) : (countedMove w t grp tile name s.nextOp c s1).cisByte w.core k = f k :=
  ((countNum_sameStore ..).cisByte w.core k).trans (h.bytes k)

theorem countedMove_otherCisterns : OtherCisterns s (countedMove w t grp tile name s.nextOp c s1) w := fun d k hd =>
  ((countNum_sameStore ..).cisByte d k).trans
    (congrArg (fun x : Core => Memory.byte x.cistern k) ((h.others d hd).trans (issued_other w s hd)))

theorem countedMove_marks : CisternMarks s (countedMove w t grp tile name s.nextOp c s1) w.core := by
  have hrest := (countNum_counted t.ctx t.hostSeq (Who.die w) c s1).rest
  exact h.marks.of_eq (congrArg (fun x : State => x.loose) hrest :) (congrArg (fun x : State => x.errs) hrest :)

theorem countedMove_rest :
    { countedMove w t grp tile name s.nextOp c s1 with
      tasks := s.tasks, ops := s.ops, loose := s.loose, errs := s.errs, freeCount := s.freeCount, nextOp := s.nextOp,
      cores := s.cores, ctxs := s.ctxs, log := s.log, dies := s.dies } = s :=
  calc _ = { s1 with tasks := s.tasks, ops := s.ops, loose := s.loose, errs := s.errs, freeCount := s.freeCount, nextOp := s.nextOp,
                     cores := s.cores, ctxs := s.ctxs, log := s.log, dies := s.dies } :=
        (congrArg (fun x : State => { x with
          tasks := s.tasks, ops := s.ops, loose := s.loose, errs := s.errs, freeCount := s.freeCount, nextOp := s.nextOp,
          cores := s.cores, ctxs := s.ctxs, log := s.log, dies := s.dies })
          (countNum_counted t.ctx t.hostSeq (Who.die w) c s1).rest :)
    _ = s := (congrArg (fun x : State => { x with
          tasks := s.tasks, nextOp := s.nextOp, cores := s.cores, ctxs := s.ctxs, log := s.log, dies := s.dies }) h.rest :)

/-- With nothing to count, the contexts, the spill log and the dies stand. -/
theorem countedMove_quiet (hc : c = ⟨0, 0⟩) : (countedMove w t grp tile name s.nextOp c s1).ctxs = s.ctxs
    ∧ (countedMove w t grp tile name s.nextOp c s1).log = s.log ∧ (countedMove w t grp tile name s.nextOp c s1).dies = s.dies := by
  subst hc
  exact ⟨(congrArg (fun x : State => x.ctxs) h.rest :), (congrArg (fun x : State => x.log) h.rest :),
    (congrArg (fun x : State => x.dies) h.rest :)⟩

end

end

/-! ### ASTN -/

section
variable {s : State} {w : Who} {t : Task} {g : Guard} {grp tile : Fin 8} {ra : Fin 64} {fmt : BitVec 4} {block : BitVec 2} {sr : Bool}
  {a row scales : Nat} {n : Nat → List Nat × List Nat × Counts}

/-- The formats that ASTN takes at the task's level (R220, R231). -/
theorem astn_wellFormed (h1 : 1 ≤ fmt.toNat) (h10 : fmt.toNat ≤ 10) (hl : t.level ≠ 1 ∨ fmt.toNat < 8) :
    (1 ≤ fmt.toNat && fmt.toNat ≤ 10 && (level2 t || !codeLevel2 fmt.toNat)) = true := by
  have hlevel : (level2 t || !codeLevel2 fmt.toNat) = true := by
    rcases hl with hl | hl
    · rw [level2, decide_eq_true hl, Bool.true_or]
    · simp [codeLevel2, Nat.not_le.mpr hl]
  simp only [h1, h10, hlevel, decide_true, Bool.and_self]

theorem execAstn_ready (h : Ready s w t) (h1 : 1 ≤ fmt.toNat) (h10 : fmt.toNat ≤ 10) (hl : t.level ≠ 1 ∨ fmt.toNat < 8)
    (hm : mxmInto s w tile.val = false) (hr : t.groups.get 0 grp.val < 255) (ha : a = (t.sreg ra).toNat)
    (hrow : row = packedBytes fmt.toNat 256) (hscales : scales = if 6 ≤ fmt.toNat then 256 / (16 * 2 ^ block.toNat) else 0)
    (hin : a + 16 * row + 16 * scales ≤ t.footprint) (hal : a % 64 = 0)
    (hn : ∀ r, n r = narrowList t ⟨fmt.toNat, 16 * 2 ^ block.toNat, sr⟩ (2 ^ 57 + a + r * row)
      ((List.range 256).map fun c => f32 (t.elem tile.val r c)))
    {p : State × Counts} (hp : p = (t.onRows g).foldl (narrowRowInto w.core fmt.toNat a row scales n)
      ((issued w s).setTask w (t.join grp).advance, Counts.zero)) :
    execAstn w g grp tile ra fmt block sr s = .next (countedMove w t grp tile "ASTN" s.nextOp p.2 p.1) := by
  have hscales' : (if isBlock fmt.toNat then 256 / blockOf block else 0) = scales := by
    simp only [hscales, isBlock, h10, decide_true, Bool.and_true, decide_eq_true_eq, blockOf]
  obtain rfl := funext hn
  subst hp ha hrow
  refine moveOp_ready h (astn_wellFormed h1 h10 hl) hr hm ?_
  simp only [hscales']
  rw [if_neg (by omega), if_neg (not_not.mpr hal)]
  rfl

end

end Sys2Proof.Machine
end

section

namespace Sys2Proof

open Machine

/-- Settles O17: the state of `execAstn_ready`, in which the narrowed rows stand in the cistern (`PutsInCistern.narrowRows`) and their
counts are taken. -/
theorem astnNarrowsTheTile : Obligations.AstnNarrowsTheTile := by
  unfold Obligations.AstnNarrowsTheTile
  intro s w t g grp tile ra fmt block sr a row scales n h h1 h10 hl hm hr hwf ha hrow hscales hin hal hn
  have hputs := (putsInCistern_moved w (t.join grp).advance hwf).narrowRows w.core fmt.toNat a row scales n
    (p := ((issued w s).setTask w (t.join grp).advance, Counts.zero)) (t.onRows g)
  refine ⟨_, (t.join grp).advance, execAstn_ready h h1 h10 hl hm hr ha hrow hscales hin hal hn rfl, countedMove_movesOn hputs,
    countedMove_accepts hputs, countedMove_otherCisterns hputs, join_joinsGroup t grp, countedMove_marks hputs, rfl,
    countedMove_cisByte hputs, countedMove_rest hputs, fun hzero => countedMove_quiet hputs ?_⟩
  exact narrowRowsInto_uncounted w.core fmt.toNat a row scales n (fun r hr => hzero r (Task.mem_onRows.mp hr).1) _

end Sys2Proof
end
